-- ==== Sys2Proof/Word.lean ====
section
/-! DEFINITION. The word types of the complex (Scope and Reading Guide, Notation; R11, R28, R111, R142). -/

namespace Sys2Proof

/-- A byte. -/
abbrev Byte := BitVec 8
/-- A 64-bit scalar word (R32, R78). -/
abbrev Word := BitVec 64
/-- A register word of BAR0 (Notation: registers are 32-bit). -/
abbrev Reg32 := BitVec 32
/-- A 64 B line; byte k of the line is bits [8k + 7:8k]. -/
abbrev Line := BitVec 512
/-- A byte mask over a line (R238). -/
abbrev Mask := BitVec 64
/-- A context identifier (R38). -/
abbrev Ctx := BitVec 20
/-- A tile register: 16 rows of 64 B, byte 0 of row 0 in the low bits (R111). -/
abbrev Tile := BitVec 8192
/-- An accumulator tile: 16 rows of 128 B (R142). -/
abbrev Acc := BitVec 16384
/-- TS64, in ticks of 250 ps (R11). -/
abbrev Stamp := BitVec 64
/-- A sparse table: entries by key, strictly rising; an absent key reads as the default entry. -/
abbrev SMap (β : Type) := List (Nat × β)

/-- All 64 bytes of a line. -/
def Mask.full : Mask := BitVec.allOnes 64

end Sys2Proof
end

