-- ==== Sys2Proof/Config.lean ====
section
/-! DEFINITION. What the spec fixes as sizes, and the FREE VALUES: values that the spec leaves open. A free value is an
opaque constant applied to a plain counter of the state (State.free) or to the operands it depends on, so no proof can
see what it is. Each is named in a log entry of notes/assumptions. -/

namespace Sys2Proof.Config

/-- Clusters of the complex (R4). -/
def clusters : Nat := 64
/-- Core positions of a cluster (R30). -/
def positions : Nat := 160
/-- Slow cycle in TS64 ticks: 20 ns at 250 ps (R11, R525). -/
def slowTicks : Nat := 80
/-- Ticks of one microsecond (R11). -/
def usTicks : Nat := 4000
/-- Ticks of one millisecond (R11). -/
def msTicks : Nat := 4000000

/-- FREE: whether IEEE tininess is detected before rounding in the scalar unit and the tile-vector engine. The spec names
IEEE 754 there (R80, R121) and states tininess only for the matrix unit and the conversions (R158, R162). Log entry 20. -/
opaque tinyBefore : Bool
/-- FREE: whether infinity times zero plus a quiet NaN raises invalid in a fused multiply-add: IEEE 754, which R80 and R121
name, leaves it to the implementation. Log entry 20. -/
opaque fmaNanInvalid : Bool
/-- FREE: the fast cycles a core has spent running, as cyc returns it (R32): the spec gives the model no rate at which a
command takes fast cycles. Log entry 21. -/
opaque coreCycles : Nat → BitVec 64
/-- FREE: a 16-bit draw of a core's random source (R163), uniform and neither readable nor settable. Log entry 22. -/
opaque randomDraw : Nat → BitVec 16
/-- FREE: the way that a TLB fill replaces when no way of its set is free; R302 gives no replacement rule. Log entry 24. -/
opaque tlbVictim : Nat → Nat
/-- FREE: whether an st.cnd fails with no clearing event (R96, R283). Log entry 25. -/
opaque cndSpurious : Nat → Bool
/-- FREE: the destination contents of a reduction with an unreached member (R393). Log entry 26. -/
opaque partialReduction : Nat → BitVec 512
/-- FREE: DST of a time-synchronisation request; the spec names the port it leaves by and no address (R376). Log entry 27. -/
opaque tsyDst : Nat → BitVec 16
/-- FREE: DRANK of a response packet: R358 has the field and no rule gives a responder the rank. Log entry 27. -/
opaque rspDrank : Nat → BitVec 16
/-- FREE: by how many ppm a follower changes its tick rate to correct an offset in ps; R377 gives the bound of 100 only. Log
entry 28. -/
opaque tsPpm : Int → Nat
/-- FREE: the result of a Prism max or min on floats where an operand is NaN or both are zero; R386 gives none. Log entry 29. -/
opaque przMaxMin : Nat → Nat → Nat
/-- FREE: the unreached count in the record of a collective that ends without a SUMMARY (R387). Log entry 31. -/
opaque przCount : Nat → BitVec 64
/-- FREE: the data of a line that comes with the poison mark where no data exists: the answer to a refused or lost read, and to a
host read in the safe state (R26, R192, R292, R510). Log entry 37. -/
opaque poisonData : Nat → BitVec 512
/-- FREE: a word of the committed calibration set while no slot is committed (R537, R539). Log entry 47. -/
opaque calWord : Nat → BitVec 32
/-- FREE: the configuration-space dwords whose contents the spec does not give, by dword (R401). Log entry 30. -/
opaque cfgSpace : Nat → BitVec 32

end Sys2Proof.Config
end

