-- ==== Sys2Proof/Syntax.lean ====
section
/-! DEFINITION. The commands of the block: one constructor of Instr per row of the opcode table, with the operands the
rows need, and the types of those operands. A command for a core carries the core and the guard (Who) and the raw
fields of its instruction word (R70, R116, R149, R166, R168), so that a field value the spec excludes can be named. -/

namespace Sys2Proof

/-- A core: cluster number and position (R30, R32 hwid). -/
structure CoreId where
  cl : BitVec 6
  pos : BitVec 8
  deriving DecidableEq, Repr, Inhabited

/-- The core that issues an instruction and the instruction's guard, N in bit 31 and P in bits 30:28 (R70, R71). -/
structure Who where
  core : CoreId
  n : Bool
  p : BitVec 3
  deriving DecidableEq, Repr, Inhabited

/-- The four register agents (R437). -/
inductive RegAgent where
  | host | mgc | test | i3c
  deriving DecidableEq, Repr, Inhabited

/-- The coherence agents and the home slices (R226). -/
inductive Agent where
  | cluster (c : BitVec 6)
  | hpt | dsp | fab | svp | walker | loupe
  | dcx (n : BitVec 3)
  | home (h : BitVec 8)
  deriving DecidableEq, Repr, Inhabited

/-- The host agent's state of a line (R232 HST). -/
inductive HostState where
  | I | S | A
  deriving DecidableEq, Repr, Inhabited

/-- The fields of a tile-vector word pair below OP and FN (R116). -/
structure TvWord where
  td : BitVec 5
  ta : BitVec 5
  tb : BitVec 5
  tc : BitVec 5
  rsv : BitVec 2
  ty : BitVec 4
  rm : BitVec 2
  sr : Bool
  fz : Bool
  sat : Bool
  me : Bool
  mt : BitVec 5
  imm : BitVec 9
  deriving DecidableEq, Repr, Inhabited

/-- The fields of an mma word pair (R149, R150). -/
structure MmaWord where
  x : BitVec 5
  y : BitVec 5
  z : BitVec 5
  w : BitVec 5
  rsv : BitVec 2
  fa : BitVec 4
  fb : BitVec 4
  rm : BitVec 2
  b13 : Bool
  fz : Bool
  sat : Bool
  za : Bool
  sbt : BitVec 5
  aofs : BitVec 2
  bofs : BitVec 3
  deriving DecidableEq, Repr, Inhabited

/-- The fields of an accumulator move (R149, R166). -/
structure AccWord where
  x : BitVec 5
  y : BitVec 5
  z : BitVec 5
  w : BitVec 5
  rsv : BitVec 2
  fd : BitVec 4
  rm : BitVec 2
  sr : Bool
  fz : Bool
  q : BitVec 2
  lo : BitVec 14
  deriving DecidableEq, Repr, Inhabited

/-- The fields of an mq (R149, R168). -/
structure MqWord where
  x : BitVec 5
  y : BitVec 5
  z : BitVec 5
  w : BitVec 5
  rsv : BitVec 2
  fd : BitVec 4
  rm : BitVec 2
  sr : Bool
  b16 : Bool
  role : Bool
  h : Bool
  q : BitVec 2
  ofs : BitVec 3
  lo : BitVec 9
  deriving DecidableEq, Repr, Inhabited

/-- A translation waiter (R313). -/
inductive Waiter where
  | core (c : CoreId)
  | lmv (c : CoreId) (i : Nat)
  | dmaQ (q : BitVec 5)
  | ring (r : BitVec 10)
  | prism (t : BitVec 6)
  deriving DecidableEq, Repr, Inhabited

/-- What a stack read's decoder found (R515, R516). -/
inductive EccOutcome where
  | clean | corrected | uncorrectable
  deriving DecidableEq, Repr, Inhabited

/-- A fabric frame as the receiver sees it (R352, R353): whether its codewords decoded and its CRC matched, the symbols
corrected, the link header, and the 16-byte words of its data field. -/
structure Frame where
  good : Bool
  corrected : Nat
  fsn : BitVec 16
  asn : BitVec 16
  nak : Bool
  null : Bool
  crRsp : BitVec 8
  crCtl : BitVec 8
  crReq : BitVec 8
  words : List (BitVec 128)
  deriving DecidableEq, Repr, Inhabited

/-- Why a fabric port retrains of itself (R354). -/
inductive RetrainCause where
  | replays | lostLock
  deriving DecidableEq, Repr, Inhabited

/-- A fabric packet (R358). LEN is the length of pay; a packet with LEN 0 has the body. -/
structure Packet where
  ty : BitVec 8
  poison : Bool
  cls : BitVec 2
  dst : BitVec 16
  src : BitVec 16
  drank : BitVec 16
  base : BitVec 16
  flow : BitVec 16
  hops : BitVec 5
  ctx : Ctx
  stamp : BitVec 48
  fseq : BitVec 16
  arg : BitVec 64
  body : BitVec 256
  pay : List Line
  deriving DecidableEq, Repr, Inhabited

/-- Why the host link left L0 (R421). -/
inductive LinkDownCause where
  | linkDown | hotReset | linkDisable
  deriving DecidableEq, Repr, Inhabited

/-- Why the destination below the service port is declared dead (R429). -/
inductive DeadCause where
  | readTimeout | readAborted | linkLost
  deriving DecidableEq, Repr, Inhabited

/-- The error messages of PCIe (R424). -/
inductive ErrSev where
  | cor | nonfatal | fatal
  deriving DecidableEq, Repr, Inhabited

/-- The triplicated fields (R449). -/
inductive TriField where
  | safeEn | guard | limSust | limPeak | winEn
  deriving DecidableEq, Repr, Inhabited

/-- A die-link flit as the receiver sees it (R459): whether its CRC matched, its count, its header, and, in a CTL flit,
whether it is a NAK, the count it acknowledges and the sender's map check (R461). -/
structure Flit where
  crcOk : Bool
  count : BitVec 16
  ch : BitVec 4
  crch : BitVec 4
  crn : BitVec 8
  nak : Bool
  acked : BitVec 16
  mapCheck : BitVec 16
  deriving DecidableEq, Repr, Inhabited

/-- What the lanes of a die link showed in one attempt (R464): in each direction the lanes good at transmitter and
receiver, 18 bits a bundle; whether each end answered in time; the checks the far end computed; the bundles that failed
parity in TEST and whether every test flit arrived. -/
structure LaneReport where
  down : List (BitVec 18)
  up : List (BitVec 18)
  answered : Bool
  nearCheck : Option (BitVec 16)
  farCheck : Option (BitVec 16)
  testBad : List Nat
  testOk : Bool
  deriving DecidableEq, Repr, Inhabited

/-- What the control pass takes from the activity model and the queues (R475, R478), powers in W. slackSust and slackPeak: by how
much the projected window averages let the power of this pass lie above each limit (negative: below). The demands of the three
domains. linkNeed and memNeed: each domain's power with its caps at 1, 2, … of 8 and of 16. dieNeed: the power of each compute die
at steps 0, 1, …, its clusters no higher than their ceilings; dieShare: each die's part of the compute grant. The modelled averages
of PWR_POWER; the energy charged to contexts and that of each die's filler, in µJ (R490, R498). -/
structure PassInput where
  slackSust : Int
  slackPeak : Int
  demand : List Int
  linkNeed : List Int
  memNeed : List Int
  dieNeed : List (List Int)
  dieShare : List Int
  avg1s : BitVec 16
  avg2ms : BitVec 16
  charge : List (Ctx × Nat)
  proofUj : List Nat
  deriving DecidableEq, Repr, Inhabited

/-- What one model tick gives (R485, R487), for each compute die: modelled current in mA, its mean over the last 10 µs, and its fall over
the last 1 µs in mA. -/
structure ModelInput where
  current : List Nat
  mean10 : List Nat
  fallRate : List Nat
  deriving DecidableEq, Repr, Inhabited

/-- An error report to the fault collector (R504). -/
structure Report where
  src : BitVec 16
  ts : Stamp
  ctx : Ctx
  addr : BitVec 64
  deriving DecidableEq, Repr, Inhabited

/-- One Loupe sample record without its header stamp (R520). -/
structure LoupeRow where
  die : BitVec 3
  group : BitVec 8
  unit : BitVec 32
  vals : List (BitVec 64)
  deriving DecidableEq, Repr, Inhabited

/-- What starts a cold reset (R528, GCTL_RST_CAUSE). -/
inductive ColdCause where
  | pwrGoodFall | resetPin | gctl
  deriving DecidableEq, Repr, Inhabited

/-- How a boot step ended (R532): what the acting side found. -/
structure BootResult where
  ok : Bool
  nearBad : BitVec 8
  farBad : BitVec 8
  modules : BitVec 8
  deriving DecidableEq, Repr, Inhabited

/-- The status of a PCIe completion. -/
inductive CplStatus where
  | sc | ur | ca
  deriving DecidableEq, Repr, Inhabited

/-- The commands, one per row of the opcode table and in its order. -/
inductive Instr where
  /-- Instruction nop does nothing (R110). -/
  | nop (w : Who) (d a b : BitVec 5)
  /-- Instruction end ends the core's part in the launch once its outstanding line moves complete (R46). -/
  | endCore (w : Who) (d a b : BitVec 5)
  /-- Copies status word w to sD (R99). -/
  | stwRd (w : Who) (d a b : BitVec 5)
  /-- Copies status word w to sD and clears its sticky bits in the same step (R99). -/
  | stwRdc (w : Who) (d a b : BitVec 5)
  /-- Reads a system register into sD, raising 0x03 for an undefined number (R32). -/
  | sysRd (w : Who) (d a : BitVec 5) (imm : BitVec 12)
  /-- Writes xcfg from sA; a write to any other number raises 0x03 (R110). -/
  | sysWr (w : Who) (d a : BitVec 5) (imm : BitVec 12)
  /-- Prefetches the line containing ea into the cluster L2, without gating the core or raising an exception (R109). -/
  | pf (w : Who) (a : BitVec 5) (imm : BitVec 12)
  /-- Writes a dirty cluster copy of the line to its home and keeps the copy clean (R109). -/
  | clClean (w : Who) (a : BitVec 5) (imm : BitVec 12)
  /-- Cleans the line, then removes it from the cluster L2, the L1s and the victim caches (R109). -/
  | clCinv (w : Who) (a : BitVec 5) (imm : BitVec 12)
  /-- d := a + b (R78). -/
  | add (w : Who) (d a b : BitVec 5)
  /-- d := a - b (R78). -/
  | sub (w : Who) (d a b : BitVec 5)
  /-- Bitwise and of a and b (R78). -/
  | and (w : Who) (d a b : BitVec 5)
  /-- Bitwise or of a and b (R78). -/
  | or (w : Who) (d a b : BitVec 5)
  /-- Bitwise xor of a and b (R78). -/
  | xor (w : Who) (d a b : BitVec 5)
  /-- d := a and not b (R78). -/
  | andn (w : Who) (d a b : BitVec 5)
  /-- Shifts a left by b[5:0] (R78). -/
  | sll (w : Who) (d a b : BitVec 5)
  /-- Shifts a right by b[5:0] with zero fill (R78). -/
  | srl (w : Who) (d a b : BitVec 5)
  /-- Shifts a right by b[5:0] with sign fill (R78). -/
  | sra (w : Who) (d a b : BitVec 5)
  /-- Signed minimum of a and b (R78). -/
  | min (w : Who) (d a b : BitVec 5)
  /-- Signed maximum of a and b (R78). -/
  | max (w : Who) (d a b : BitVec 5)
  /-- Unsigned minimum of a and b (R78). -/
  | minu (w : Who) (d a b : BitVec 5)
  /-- Unsigned maximum of a and b (R78). -/
  | maxu (w : Who) (d a b : BitVec 5)
  /-- Low 64 bits of a × b (R78). -/
  | mul (w : Who) (d a b : BitVec 5)
  /-- High 64 bits of the signed 128-bit product (R78). -/
  | mulh (w : Who) (d a b : BitVec 5)
  /-- High 64 bits of the unsigned 128-bit product (R78). -/
  | mulhu (w : Who) (d a b : BitVec 5)
  /-- Signed division, with defined results for b = 0 and for overflow (R78). -/
  | div (w : Who) (d a b : BitVec 5)
  /-- Unsigned division, with a defined result for b = 0 (R78). -/
  | divu (w : Who) (d a b : BitVec 5)
  /-- Signed remainder, with defined results for b = 0 and for overflow (R78). -/
  | rem (w : Who) (d a b : BitVec 5)
  /-- Unsigned remainder, with a defined result for b = 0 (R78). -/
  | remu (w : Who) (d a b : BitVec 5)
  /-- Counts the leading zero bits of a (R78). -/
  | clz (w : Who) (d a b : BitVec 5)
  /-- Counts the trailing zero bits of a (R78). -/
  | ctz (w : Who) (d a b : BitVec 5)
  /-- Counts the one bits of a (R78). -/
  | popc (w : Who) (d a b : BitVec 5)
  /-- Sign-extends the low 8 bits of a (R78). -/
  | sext8 (w : Who) (d a b : BitVec 5)
  /-- Sign-extends the low 16 bits of a (R78). -/
  | sext16 (w : Who) (d a b : BitVec 5)
  /-- Sign-extends the low 32 bits of a (R78). -/
  | sext32 (w : Who) (d a b : BitVec 5)
  /-- Zero-extends the low 32 bits of a (R78). -/
  | zext32 (w : Who) (d a b : BitVec 5)
  /-- d := a + sext(imm12) (R79). -/
  | addi (w : Who) (d a : BitVec 5) (imm : BitVec 12)
  /-- d := a and sext(imm12) (R79). -/
  | andi (w : Who) (d a : BitVec 5) (imm : BitVec 12)
  /-- d := a or sext(imm12) (R79). -/
  | ori (w : Who) (d a : BitVec 5) (imm : BitVec 12)
  /-- d := a xor sext(imm12) (R79). -/
  | xori (w : Who) (d a : BitVec 5) (imm : BitVec 12)
  /-- Shifts a left by an immediate amount (R79). -/
  | slli (w : Who) (d a : BitVec 5) (mz : BitVec 4) (sh : BitVec 6)
  /-- Shifts a right by an immediate amount with zero fill (R79). -/
  | srli (w : Who) (d a : BitVec 5) (mz : BitVec 4) (sh : BitVec 6)
  /-- Shifts a right by an immediate amount with sign fill (R79). -/
  | srai (w : Who) (d a : BitVec 5) (mz : BitVec 4) (sh : BitVec 6)
  /-- d := sext(imm17) (R79). -/
  | movi (w : Who) (d : BitVec 5) (imm : BitVec 17)
  /-- Inserts imm16 into bits [15:0] or [31:16] of d (R79). -/
  | movkLo (w : Who) (d : BitVec 5) (hw : Bool) (imm : BitVec 16)
  /-- Inserts imm16 into bits [47:32] or [63:48] of d (R79). -/
  | movkHi (w : Who) (d : BitVec 5) (hw : Bool) (imm : BitVec 16)
  /-- Raises a breakpoint exception, action WAIT (R110). -/
  | brk (w : Who) (d a : BitVec 5) (imm : BitVec 12)
  /-- Floating-point add under RM (R80). -/
  | fadd (w : Who) (d a b : BitVec 5) (q : Bool) (rm : BitVec 2)
  /-- Floating-point subtract under RM (R80). -/
  | fsub (w : Who) (d a b : BitVec 5) (q : Bool) (rm : BitVec 2)
  /-- Floating-point multiply under RM (R80). -/
  | fmul (w : Who) (d a b : BitVec 5) (q : Bool) (rm : BitVec 2)
  /-- Floating-point divide under RM (R80). -/
  | fdiv (w : Who) (d a b : BitVec 5) (q : Bool) (rm : BitVec 2)
  /-- Floating-point square root under RM (R80). -/
  | fsqrt (w : Who) (d a b : BitVec 5) (q : Bool) (rm : BitVec 2)
  /-- Gives the numerically smaller operand (R80). -/
  | fmin (w : Who) (d a b : BitVec 5) (q : Bool) (rm : BitVec 2)
  /-- Gives the numerically larger operand (R80). -/
  | fmax (w : Who) (d a b : BitVec 5) (q : Bool) (rm : BitVec 2)
  /-- d := round(a × b + d), with one rounding (R80). -/
  | fmac (w : Who) (d a b : BitVec 5) (q : Bool) (rm : BitVec 2)
  /-- Quiet compare for equality into a predicate (R80). -/
  | fcmpEq (w : Who) (d a b : BitVec 5) (q : Bool) (rm : BitVec 2)
  /-- Signalling less-than compare into a predicate (R80). -/
  | fcmpLt (w : Who) (d a b : BitVec 5) (q : Bool) (rm : BitVec 2)
  /-- Signalling less-or-equal compare into a predicate (R80). -/
  | fcmpLe (w : Who) (d a b : BitVec 5) (q : Bool) (rm : BitVec 2)
  /-- Sets the predicate when either operand is a NaN (R80). -/
  | fcmpUn (w : Who) (d a b : BitVec 5) (q : Bool) (rm : BitVec 2)
  /-- Converts a float to a signed 64-bit integer, with saturation (R81). -/
  | fcvtFi (w : Who) (d a b : BitVec 5) (q : Bool) (rm : BitVec 2)
  /-- Converts a signed 64-bit integer to a float (R80). -/
  | fcvtIf (w : Who) (d a b : BitVec 5) (q : Bool) (rm : BitVec 2)
  /-- Converts a float between precisions (R80). -/
  | fcvtFf (w : Who) (d a b : BitVec 5) (q : Bool) (rm : BitVec 2)
  /-- pD := (a = b) (R82). -/
  | cmpEq (w : Who) (d a b : BitVec 5)
  /-- pD := (a ≠ b) (R82). -/
  | cmpNe (w : Who) (d a b : BitVec 5)
  /-- Signed less-than compare into pD (R82). -/
  | cmpLt (w : Who) (d a b : BitVec 5)
  /-- Signed greater-or-equal compare into pD (R82). -/
  | cmpGe (w : Who) (d a b : BitVec 5)
  /-- Unsigned less-than compare into pD (R82). -/
  | cmpLtu (w : Who) (d a b : BitVec 5)
  /-- Unsigned greater-or-equal compare into pD (R82). -/
  | cmpGeu (w : Who) (d a b : BitVec 5)
  /-- pD := (a = sext(imm12)) (R82). -/
  | cmpiEq (w : Who) (d a : BitVec 5) (imm : BitVec 12)
  /-- pD := (a ≠ sext(imm12)) (R82). -/
  | cmpiNe (w : Who) (d a : BitVec 5) (imm : BitVec 12)
  /-- Signed less-than compare with an immediate (R82). -/
  | cmpiLt (w : Who) (d a : BitVec 5) (imm : BitVec 12)
  /-- Signed greater-or-equal compare with an immediate (R82). -/
  | cmpiGe (w : Who) (d a : BitVec 5) (imm : BitVec 12)
  /-- Unsigned less-than compare with an immediate (R82). -/
  | cmpiLtu (w : Who) (d a : BitVec 5) (imm : BitVec 12)
  /-- Unsigned greater-or-equal compare with an immediate (R82). -/
  | cmpiGeu (w : Who) (d a : BitVec 5) (imm : BitVec 12)
  /-- Predicate and (R82). -/
  | pand (w : Who) (d a b : BitVec 5)
  /-- Predicate or (R82). -/
  | por (w : Who) (d a b : BitVec 5)
  /-- Predicate xor (R82). -/
  | pxor (w : Who) (d a b : BitVec 5)
  /-- pD := pA and not pB (R82). -/
  | pandn (w : Who) (d a b : BitVec 5)
  /-- pD := not pA (R82). -/
  | pnot (w : Who) (d a b : BitVec 5)
  /-- pD := a[0] (R82). -/
  | pSet (w : Who) (d a b : BitVec 5)
  /-- Copies a predicate, zero-extended, into sD (R82). -/
  | pGet (w : Who) (d a b : BitVec 5)
  /-- Copies all eight predicates into sD[7:0] (R82). -/
  | pAll (w : Who) (d a b : BitVec 5)
  /-- Branches PC-relative (R83). -/
  | br (w : Who) (imm : BitVec 22)
  /-- Branches PC-relative and writes the return address to s31 (R83). -/
  | bl (w : Who) (imm : BitVec 22)
  /-- Jumps to the address in sA, raising 0x02 for a misaligned target (R83). -/
  | jr (w : Who) (d a b : BitVec 5)
  /-- Jumps to the address in sA and links into sD (R83). -/
  | jlr (w : Who) (d a b : BitVec 5)
  /-- Loads 1 byte, sign-extended (R85). -/
  | ldS8 (w : Who) (d a : BitVec 5) (imm : BitVec 12)
  /-- Loads 1 byte, zero-extended (R85). -/
  | ldU8 (w : Who) (d a : BitVec 5) (imm : BitVec 12)
  /-- Loads 2 bytes, sign-extended (R85). -/
  | ldS16 (w : Who) (d a : BitVec 5) (imm : BitVec 12)
  /-- Loads 2 bytes, zero-extended (R85). -/
  | ldU16 (w : Who) (d a : BitVec 5) (imm : BitVec 12)
  /-- Loads 4 bytes, sign-extended (R85). -/
  | ldS32 (w : Who) (d a : BitVec 5) (imm : BitVec 12)
  /-- Loads 4 bytes, zero-extended (R85). -/
  | ldU32 (w : Who) (d a : BitVec 5) (imm : BitVec 12)
  /-- Loads 8 bytes (R85). -/
  | ld64 (w : Who) (d a : BitVec 5) (imm : BitVec 12)
  /-- Stores 1 byte through the store buffer (R85). -/
  | st8 (w : Who) (d a : BitVec 5) (imm : BitVec 12)
  /-- Stores 2 bytes through the store buffer (R85). -/
  | st16 (w : Who) (d a : BitVec 5) (imm : BitVec 12)
  /-- Stores 4 bytes through the store buffer (R85). -/
  | st32 (w : Who) (d a : BitVec 5) (imm : BitVec 12)
  /-- Stores 8 bytes through the store buffer (R85). -/
  | st64 (w : Who) (d a : BitVec 5) (imm : BitVec 12)
  /-- Loads two 8-byte words into an even register pair (R85). -/
  | ldPair (w : Who) (d a : BitVec 5) (imm : BitVec 12)
  /-- Stores an even register pair as two 8-byte words (R85). -/
  | stPair (w : Who) (d a : BitVec 5) (imm : BitVec 12)
  /-- Stores 8 bytes through the non-temporal combining buffer, or as st.64 in a DEVO region (R87). -/
  | stNt (w : Who) (d a : BitVec 5) (imm : BitVec 12)
  /-- Loads 8 bytes from the local store (R88). -/
  | lsLd64 (w : Who) (d a : BitVec 5) (imm : BitVec 12)
  /-- Loads 4 bytes, zero-extended, from the local store (R88). -/
  | lsLdU32 (w : Who) (d a : BitVec 5) (imm : BitVec 12)
  /-- Stores 8 bytes to the local store (R88). -/
  | lsSt64 (w : Who) (d a : BitVec 5) (imm : BitVec 12)
  /-- Stores 4 bytes to the local store (R88). -/
  | lsSt32 (w : Who) (d a : BitVec 5) (imm : BitVec 12)
  /-- Loads 4 bytes with acquire semantics (R90). -/
  | ld32Acq (w : Who) (d a b : BitVec 5) (sc ord : BitVec 2)
  /-- Loads 8 bytes with acquire semantics (R90). -/
  | ld64Acq (w : Who) (d a b : BitVec 5) (sc ord : BitVec 2)
  /-- Stores 4 bytes with release semantics (R90). -/
  | st32Rel (w : Who) (d a b : BitVec 5) (sc ord : BitVec 2)
  /-- Stores 8 bytes with release semantics (R90). -/
  | st64Rel (w : Who) (d a b : BitVec 5) (sc ord : BitVec 2)
  /-- Atomic add in the cluster L2, returning the old value (R91). -/
  | amoAdd (w : Who) (d a b : BitVec 5) (sc ord : BitVec 2) (sz : Bool)
  /-- Atomic and, returning the old value (R91). -/
  | amoAnd (w : Who) (d a b : BitVec 5) (sc ord : BitVec 2) (sz : Bool)
  /-- Atomic or, returning the old value (R91). -/
  | amoOr (w : Who) (d a b : BitVec 5) (sc ord : BitVec 2) (sz : Bool)
  /-- Atomic xor, returning the old value (R91). -/
  | amoXor (w : Who) (d a b : BitVec 5) (sc ord : BitVec 2) (sz : Bool)
  /-- Atomic swap, returning the old value (R91). -/
  | amoSwap (w : Who) (d a b : BitVec 5) (sc ord : BitVec 2) (sz : Bool)
  /-- Atomic compare-and-swap, returning the old value (R91). -/
  | amoCas (w : Who) (d a b : BitVec 5) (sc ord : BitVec 2) (sz : Bool)
  /-- Atomic signed maximum, returning the old value (R91). -/
  | amoMax (w : Who) (d a b : BitVec 5) (sc ord : BitVec 2) (sz : Bool)
  /-- Atomic signed minimum, returning the old value (R91). -/
  | amoMin (w : Who) (d a b : BitVec 5) (sc ord : BitVec 2) (sz : Bool)
  /-- Atomic unsigned minimum, returning the old value (R91). -/
  | amoMinu (w : Who) (d a b : BitVec 5) (sc ord : BitVec 2) (sz : Bool)
  /-- Atomic unsigned maximum, returning the old value (R91). -/
  | amoMaxu (w : Who) (d a b : BitVec 5) (sc ord : BitVec 2) (sz : Bool)
  /-- Reserved load: takes the line exclusively, sets the reservation and starts the hold (R94). -/
  | ldRsv (w : Who) (d a b : BitVec 5) (sc ord : BitVec 2) (sz : Bool)
  /-- Conditional store: succeeds only under a valid reservation, writes 0 or 1 to sD and clears the reservation (R94). -/
  | stCnd (w : Who) (d a b : BitVec 5) (sc ord : BitVec 2) (sz : Bool)
  /-- Sends a non-returning i32 add to the line's NMU (R93). -/
  | redAddI32 (w : Who) (d a b : BitVec 5) (sc ord : BitVec 2)
  /-- Sends a non-returning i64 add to the line's NMU (R93). -/
  | redAddI64 (w : Who) (d a b : BitVec 5) (sc ord : BitVec 2)
  /-- Sends a non-returning f32 add to the line's NMU (R93). -/
  | redAddF32 (w : Who) (d a b : BitVec 5) (sc ord : BitVec 2)
  /-- Sends a non-returning bf16 add to the line's NMU (R93). -/
  | redAddBf16 (w : Who) (d a b : BitVec 5) (sc ord : BitVec 2)
  /-- Acquire fence: orders earlier loads before later accesses and waits for earlier lmv.in (R271). -/
  | fenceAcq (w : Who) (d a b : BitVec 5) (sc : BitVec 2)
  /-- Release fence: places a marker so that later writes wait for earlier accesses (R271). -/
  | fenceRel (w : Who) (d a b : BitVec 5) (sc : BitVec 2)
  /-- Full fence: stalls until every earlier access is performed at the fence's scope (R271). -/
  | fenceAr (w : Who) (d a b : BitVec 5) (sc : BitVec 2)
  /-- Sends a token increment to a counter of a core of the launch (R100). -/
  | tokSend (w : Who) (d a b : BitVec 5)
  /-- Waits gated until kM ≥ the threshold, then subtracts the threshold (R100). -/
  | tokWait (w : Who) (d a b : BitVec 5)
  /-- pD := (kM ≥ threshold), with no wait (R100). -/
  | tokTest (w : Who) (d a b : BitVec 5)
  /-- sD := kM (R100). -/
  | tokRead (w : Who) (d a b : BitVec 5)
  /-- Sends one scalar beat on a neighbour channel, using one credit (R103). -/
  | strPutN (w : Who) (d a b : BitVec 5) (dir : Bool)
  /-- Takes one beat from a neighbour channel into a scalar register, returning one credit (R103). -/
  | strGetP (w : Who) (d a b : BitVec 5) (dir : Bool)
  /-- Sends tile rows as beats on a neighbour channel (R104). -/
  | strPutNTile (w : Who) (d a b : BitVec 5) (dir : Bool)
  /-- Takes beats into tile rows (R104). -/
  | strGetPTile (w : Who) (d a b : BitVec 5) (dir : Bool)
  /-- Issues a copy of lines from device memory into the local store (R105). -/
  | lmvIn (w : Who) (d a b : BitVec 5) (fn : BitVec 7)
  /-- Issues a copy of lines from the local store to device memory (R105). -/
  | lmvOut (w : Who) (d a b : BitVec 5) (fn : BitVec 7)
  /-- When every line of a line move is done, raises the core's counter kM by 1 (R106). -/
  | lmvComplete (c : CoreId) (i : Nat)
  /-- Element-wise add (R120). -/
  | vadd (w : Who) (f : TvWord)
  /-- Element-wise subtract (R120). -/
  | vsub (w : Who) (f : TvWord)
  /-- Element-wise multiply (R120). -/
  | vmul (w : Who) (f : TvWord)
  /-- Element-wise fused multiply-add (R120). -/
  | vfma (w : Who) (f : TvWord)
  /-- Element-wise minimum (R120). -/
  | vmin (w : Who) (f : TvWord)
  /-- Element-wise maximum (R120). -/
  | vmax (w : Who) (f : TvWord)
  /-- Element-wise absolute value (R120). -/
  | vabs (w : Who) (f : TvWord)
  /-- Element-wise negation (R120). -/
  | vneg (w : Who) (f : TvWord)
  /-- Element-wise float divide (R120). -/
  | vdiv (w : Who) (f : TvWord)
  /-- Element-wise float square root (R120). -/
  | vsqrt (w : Who) (f : TvWord)
  /-- Element-wise bitwise and (R120). -/
  | vand (w : Who) (f : TvWord)
  /-- Element-wise bitwise or (R120). -/
  | vor (w : Who) (f : TvWord)
  /-- Element-wise bitwise xor (R120). -/
  | vxor (w : Who) (f : TvWord)
  /-- Element-wise a and not b (R120). -/
  | vandn (w : Who) (f : TvWord)
  /-- Element-wise shift left (R120). -/
  | vsll (w : Who) (f : TvWord)
  /-- Element-wise logical shift right (R120). -/
  | vsrl (w : Who) (f : TvWord)
  /-- Element-wise arithmetic shift right (R120). -/
  | vsra (w : Who) (f : TvWord)
  /-- Element-wise compare for equality (R120). -/
  | vcmpEq (w : Who) (f : TvWord)
  /-- Element-wise compare for inequality (R120). -/
  | vcmpNe (w : Who) (f : TvWord)
  /-- Element-wise less-than compare (R120). -/
  | vcmpLt (w : Who) (f : TvWord)
  /-- Element-wise less-or-equal compare (R120). -/
  | vcmpLe (w : Who) (f : TvWord)
  /-- Element-wise select by the flag of c (R120). -/
  | vsel (w : Who) (f : TvWord)
  /-- Element-wise conversion between types, with part selection and optional stochastic rounding (R123). -/
  | vcvt (w : Who) (f : TvWord)
  /-- Writes the lane or row index to each element (R120). -/
  | vidx (w : Who) (f : TvWord)
  /-- Copies a tile (R124). -/
  | vmov (w : Who) (f : TvWord)
  /-- Permutes lanes within each row by index (R124). -/
  | vperm (w : Who) (f : TvWord)
  /-- Permutes elements across the whole tile by index (R124). -/
  | vpermx (w : Who) (f : TvWord)
  /-- Rotates lanes within the vector length (R124). -/
  | vrot (w : Who) (f : TvWord)
  /-- Rotates rows within the row length (R124). -/
  | vrotr (w : Who) (f : TvWord)
  /-- Transposes square blocks of the tile (R126). -/
  | vtrans (w : Who) (f : TvWord)
  /-- Zeroes the active area (R124). -/
  | vzero (w : Who) (f : TvWord)
  /-- Row scan, inclusive or exclusive, optionally segmented (R128). -/
  | vscanRow (w : Who) (op : BitVec 3) (seg exc lo : Bool) (f : TvWord)
  /-- Column scan, inclusive or exclusive, optionally segmented (R128). -/
  | vscanCol (w : Who) (op : BitVec 3) (seg exc lo : Bool) (f : TvWord)
  /-- Row reduction into lane 0 (R130). -/
  | vredRow (w : Who) (op : BitVec 3) (seg exc lo : Bool) (f : TvWord)
  /-- Column reduction into row 0 (R130). -/
  | vredCol (w : Who) (op : BitVec 3) (seg exc lo : Bool) (f : TvWord)
  /-- Row compaction of flagged elements, writing the count to a scalar register (R131). -/
  | vcompRow (w : Who) (f : TvWord)
  /-- Tile compaction of flagged elements, writing the count to a scalar register (R131). -/
  | vcompTile (w : Who) (f : TvWord)
  /-- Loads tile rows from the local store with a stride (R132). -/
  | vld (w : Who) (f : TvWord)
  /-- Stores tile rows to the local store with a stride (R132). -/
  | vst (w : Who) (f : TvWord)
  /-- Gathers elements from the local store by index (R132). -/
  | vgather (w : Who) (f : TvWord)
  /-- Scatters elements to the local store by index (R132). -/
  | vscatter (w : Who) (f : TvWord)
  /-- Sets VL and RL from immediates (R132). -/
  | tvShapei (w : Who) (f : TvWord)
  /-- Sets VL and RL from a scalar register, clamping to range (R132). -/
  | tvShape (w : Who) (f : TvWord)
  /-- Reads the present shape into a scalar register (R132). -/
  | tvGetshape (w : Who) (f : TvWord)
  /-- Extracts one lane into a scalar register (R132). -/
  | vext (w : Who) (f : TvWord)
  /-- Inserts a scalar into one lane (R132). -/
  | vins (w : Who) (f : TvWord)
  /-- Broadcasts a scalar to every active lane (R132). -/
  | vbcast (w : Who) (f : TvWord)
  /-- Matrix multiply-accumulate of A × B into an accumulator tile (R147). -/
  | mma (w : Who) (f : MmaWord)
  /-- Zeroes an accumulator tile (R166). -/
  | accZero (w : Who) (f : AccWord)
  /-- Loads an accumulator tile from a tile pair (R166). -/
  | accLd (w : Who) (f : AccWord)
  /-- Converts accumulator elements and writes them to a tile (R167). -/
  | accSt (w : Who) (f : AccWord)
  /-- Quantizes an accumulator into a scaled format with scale bytes (R168). -/
  | mq (w : Who) (f : MqWord)
  /-- 4 µs after an exception record opens, the dispatcher writes it to the event ring (R66). -/
  | exceptionRecordWrite (l : Nat) (i : Nat)
  /-- The dispatcher halts every started core of the launch within 1 µs (R64). -/
  | launchHalt (l : Nat)
  /-- A gated core runs again 12 ns after its wake event (R57). -/
  | coreWake (c : CoreId)
  /-- The token block applies a token to a counter, or discards it under R49 (R47). -/
  | tokenApply (cl : BitVec 6)
  /-- A pending tok.wait's threshold is met and the count is consumed in that base-die cycle (R47). -/
  | tokWaitSatisfied (c : CoreId)
  /-- A beat arrives in a channel's receive buffer (R54). -/
  | streamBeatArrive (c : CoreId) (fromPred : Bool)
  /-- A credit returns to the sender of a channel (R54). -/
  | streamCreditArrive (c : CoreId) (fromPred : Bool)
  /-- When every grid cluster is free, the dispatcher assigns a sequence number and sends prepare (R43). -/
  | launchPrepare (l : Nat)
  /-- A grid cluster finishes clearing and reports prepare done (R43). -/
  | prepareDone (l : Nat) (cl : BitVec 6)
  /-- When all grid clusters are prepared, every selected core starts with its initial state (R43). -/
  | launchStart (l : Nat)
  /-- When all cores have ended and all buffers have drained, the launch completes (R46). -/
  | launchComplete (l : Nat)
  /-- After the idle delay of PWR_PLL_STOP_DLY with the conditions holding, the cluster stops its PLL (R58). -/
  | pllStop (cl : BitVec 6)
  /-- A stopped cluster restarts its PLL on a prepare, token, resume, maintenance or debug event (R59). -/
  | pllRestart (cl : BitVec 6)
  /-- The cluster PLL locks 4 µs after restarting, and woken cores run (R59). -/
  | pllLock (cl : BitVec 6)
  /-- A missed line arrives from the L2 and fills the L1, ending the core's stall (R181). -/
  | l1Fill (c : CoreId) (line : Nat)
  /-- A store buffer entry leaves to the cluster L2 and frees when performed at cluster scope (R278). -/
  | storeBufferDrain (c : CoreId)
  /-- 64 fast cycles with no st.nt to a combining line send that line as WRP (R280). -/
  | cbIdleTimeout (c : CoreId) (i : Nat)
  /-- A reservation hold on a line ends after 256 fast cycles (R282). -/
  | rsvHoldExpire (cl : BitVec 6) (line : Nat)
  /-- A decompressor expands a packed granule for a base-cache miss in packed space (R212). -/
  | dcxExpand (dcx : BitVec 3) (line : Nat)
  /-- A write of INV drops every cached PPT entry, granule entry and expanded granule (R211). -/
  | dcxInv (ag : RegAgent) (die : Bool)
  /-- An invalidation ends and INVBUSY clears (R211). -/
  | dcxInvDone (die : Bool)
  /-- The NMU applies a non-returning add to a line in arrival order (R213). -/
  | nmuAdd (h : BitVec 8)
  /-- A range-maintenance engine writes back the dirty lines of a range (R217). -/
  | rmClean (ag : RegAgent) (die : Bool) (n : BitVec 6)
  /-- A range-maintenance engine removes the lines of a range and discards dirty data (R217). -/
  | rmInvalidate (ag : RegAgent) (die : Bool) (n : BitVec 6)
  /-- A range-maintenance engine writes back, then removes, the lines of a range (R217). -/
  | rmCleanInvalidate (ag : RegAgent) (die : Bool) (n : BitVec 6)
  /-- A range-maintenance operation completes, setting DONE and STAMP (R218). -/
  | rmDone (die : Bool) (n : BitVec 6)
  /-- The scrubber reads a line and corrects or poisons it (R223). -/
  | scrubRead (die : Bool) (line : Nat) (found : EccOutcome)
  /-- A scrub pass overruns its period by 25 %, and a notice is raised (R222). -/
  | scrubOverrun (die : Bool) (stack : BitVec 3)
  /-- A home takes a read-for-sharing request (R244). -/
  | rds (h : BitVec 8) (src : BitVec 6)
  /-- A home takes a read-for-ownership request (R244). -/
  | rdx (h : BitVec 8) (src : BitVec 6)
  /-- A home takes a read-current request that allocates nothing (R245). -/
  | rdc (h : BitVec 8) (src : Agent)
  /-- A home takes a masked write (R244). -/
  | wrp (h : BitVec 8) (src : Agent)
  /-- A home takes a non-returning add, removes every copy and passes the add to the NMU (R244). -/
  | red (h : BitVec 8) (src : BitVec 6)
  /-- A home takes a host read asking for host state I, S or A (R245). -/
  | rdh (h : BitVec 8)
  /-- A home takes a host write made outside a back-invalidation (R245). -/
  | wrh (h : BitVec 8)
  /-- The arbiter accepts a queued request for a line that is no longer busy (R228). -/
  | homeAccept (h : BitVec 8) (line : Nat)
  /-- A home takes a dirty victim (R246). -/
  | vcd (h : BitVec 8) (src : BitVec 6)
  /-- A home takes a write-through copy (R246). -/
  | vck (h : BitVec 8) (src : BitVec 6)
  /-- A home takes a drop notice without data (R246). -/
  | vcn (h : BitVec 8) (src : BitVec 6)
  /-- A cluster takes a forward to send data and keep S (R247). -/
  | fsh (cl : BitVec 6) (h : BitVec 8)
  /-- A cluster takes a forward to send data and invalidate (R247). -/
  | fex (cl : BitVec 6) (h : BitVec 8)
  /-- A cluster takes a forward to send current data to a non-caching requester (R247). -/
  | frc (cl : BitVec 6) (h : BitVec 8)
  /-- A cluster takes an invalidation (R247). -/
  | inv (cl : BitVec 6) (h : BitVec 8)
  /-- The host port takes a back-invalidation snoop from a home and sends it to the host (R251). -/
  | bisnp (h : BitVec 8)
  /-- A requester takes a completion of a write, add or VIC (R238). -/
  | cmp (dst : Agent) (h : BitVec 8)
  /-- A cluster takes an ownership grant without data (R244). -/
  | gnt (cl : BitVec 6) (h : BitVec 8)
  /-- A home takes the requester's acknowledgement, which ends the transaction (R240). -/
  | ack (h : BitVec 8) (src : Agent)
  /-- A home takes an answer to its forward (R238). -/
  | fak (h : BitVec 8) (src : BitVec 6)
  /-- A home takes an invalidation acknowledgement (R238). -/
  | iak (h : BitVec 8) (src : BitVec 6)
  /-- A home takes a not-present answer and serves the request from memory (R244). -/
  | npr (h : BitVec 8) (src : BitVec 6)
  /-- A home takes a not-present answer from a dead cluster's port (R256). -/
  | npd (h : BitVec 8) (src : BitVec 6)
  /-- A home takes a victim-pending answer and waits for the VCD (R244). -/
  | vpd (h : BitVec 8) (src : BitVec 6)
  /-- A home takes a host back-invalidation response and sets HST (R251). -/
  | bir (line : Nat) (rsp : HostState)
  /-- A requester takes a context-check refusal (R86). -/
  | ncx (dst : Agent) (h : BitVec 8)
  /-- A requester takes a retry and holds its request until CRG (R242). -/
  | rty (dst : Agent) (h : BitVec 8)
  /-- A requester takes an entry grant and resends its oldest retried request (R242). -/
  | crg (dst : Agent) (h : BitVec 8)
  /-- A requester takes line data with its granted state and poison bit (R238). -/
  | dat (dst : Agent) (src : Agent)
  /-- A home takes dirty data returned under a forward (R244). -/
  | fdt (h : BitVec 8) (src : BitVec 6)
  /-- A home takes host modified data written under a back-invalidation (R252). -/
  | hdt (h : BitVec 8)
  /-- A forward goes unanswered for HOME_FWD_TMO, and a severe fault names the cluster (R255). -/
  | homeFwdTimeout (h : BitVec 8) (line : Nat) (cl : BitVec 6)
  /-- Each home slice scans its directory to reclaim an isolated or reset cluster's entries (R256). -/
  | clusterReclaimScan (h : BitVec 8) (cl : BitVec 6)
  /-- Each slice scans for host state and sets HOSTRC when done (R258). -/
  | hostReclaimScan (h : BitVec 8)
  /-- A shared-to-device flip scans its sets and changes the bias bit when done (R253). -/
  | biasFlipScan (h : BitVec 8) (page : Nat)
  /-- A read of FAB_DRAINED_LO latches the high word and flushes the fabric's combining (R289). -/
  | fabDrainedRead (ag : RegAgent)
  /-- A read of SVP_DRAINED_LO latches the high word and issues flush reads (R289). -/
  | svpDrainedRead (ag : RegAgent)
  /-- 1 µs after the oldest outstanding posted write, the service port issues a flush read (R289). -/
  | svpFlushTimer
  /-- A TLB miss reaches the translation block, and walks or joins an open record (R314). -/
  | xltRequest (wt : Waiter)
  /-- A table walk ends, filling the TLBs or opening a fault record (R300). -/
  | walkDone (ctx : BitVec 20) (vpn : BitVec 27)
  /-- A batch closes at 64 records, at the room, or at 4 µs, and its records are written (R317). -/
  | fqBatchClose
  /-- Every record write of a batch has its CMP; XLT_FQ_WR advances and BATCH is set (R317). -/
  | fqBatchWritten
  /-- When the queue has room, a batch forms from the oldest overflow records (R318). -/
  | ovfBatchForm
  /-- A resolve of RETRY releases every waiter of a record to translate again (R320). -/
  | xltResolveRetry (ag : RegAgent)
  /-- A resolve of FATAL fails every waiter of a record (R320). -/
  | xltResolveFatal (ag : RegAgent)
  /-- Starts an invalidation of a range of pages of a context (R310). -/
  | xltInvRange (ag : RegAgent)
  /-- Starts an invalidation of a whole context (R310). -/
  | xltInvContext (ag : RegAgent)
  /-- An invalidation completes once its accesses are performed: GEN advances and DONE is set (R310). -/
  | xltInvDone
  /-- Sets the owner tag of a page on both base dies (R306). -/
  | xltOwnTagWrite (ag : RegAgent) (v : BitVec 32)
  /-- The host driver consumes fault records, freeing room (R316). -/
  | xltFqRdWrite (ag : RegAgent) (v : BitVec 32)
  /-- A running descriptor pauses at a 4 KiB boundary after an invalidation and translates its pages again (R308). -/
  | descRetranslate (q : BitVec 5)
  /-- A write to DSP_DBn reports commands written to a work ring (R327). -/
  | doorbell (ag : RegAgent) (ring : BitVec 10) (v : BitVec 32)
  /-- Enables a work ring after checks, binding its event ring and energy slot (R328). -/
  | ringEnable (ag : RegAgent) (ring : BitVec 10)
  /-- Stops taking commands from a work ring (R328). -/
  | ringDisable (ag : RegAgent) (ring : BitVec 10)
  /-- The dispatcher takes the next command from the highest-priority ready ring (R331). -/
  | commandTake
  /-- A taken command starts once every start condition holds (R330). -/
  | commandStart (ring : BitVec 10)
  /-- Every 1 µs, the dispatcher rereads a command's WAITADDR (R332). -/
  | waitGatePoll (ring : BitVec 10)
  /-- Command NOP completes when taken, with no record (R334). -/
  | nopCommand (ring : BitVec 10)
  /-- Command LAUNCH starts a kernel over a cluster grid (R334). -/
  | launch (ring : BitVec 10)
  /-- Command DMA copies a range on a DMA queue (R337). -/
  | dma (ring : BitVec 10)
  /-- A DMA's last byte is performed, or has entered a posted path, and the command completes (R337). -/
  | dmaComplete (q : BitVec 5)
  /-- Command COLLECTIVE starts a Prism collective on a tree (R381). -/
  | collective (ring : BitVec 10)
  /-- Command FENCE waits for the ring's earlier commands and optionally drains posted paths (R336). -/
  | fence (ring : BitVec 10)
  /-- A FENCE completes when the drained-to stamps reach the largest visibility stamp (R336). -/
  | fenceComplete (ring : BitVec 10) (k : BitVec 32)
  /-- Command BIAS flips the bias of pages (R253). -/
  | bias (ring : BitVec 10)
  /-- Command PREFETCH fills the second-level TLBs, and optionally the base cache, for a range (R324). -/
  | prefetch (ring : BitVec 10)
  /-- Command ADVISE MIGRATE moves pages to destination physical pages (R324). -/
  | adviseMigrate (ring : BitVec 10)
  /-- Command ENERGY_MARK records the energy accumulator (R348). -/
  | energyMark (ring : BitVec 10)
  /-- Command STEP_BEGIN opens and declares a step with its tray masks (R343). -/
  | stepBegin (ring : BitVec 10)
  /-- A declared step starts once it has no tray conflict with earlier unended steps (R344). -/
  | stepStart (ring : BitVec 10)
  /-- Command STEP_END releases trays, or ends a step when FINAL is set (R345). -/
  | stepEnd (ring : BitVec 10)
  /-- A STEP_END takes effect once its prior commands complete (R345). -/
  | stepEndEffect (ring : BitVec 10) (k : BitVec 32)
  /-- The dispatcher writes a record to an event ring once there is room, advances WR and sets a cause flag (R341). -/
  | eventRecordWrite (m : BitVec 8)
  /-- The host driver consumes event records, freeing room (R341). -/
  | evrdWrite (ag : RegAgent) (m : BitVec 8) (v : BitVec 32)
  /-- DSP_LAUNCH_CMD RESUME resumes a Waiting core (R342). -/
  | launchResume (ag : RegAgent) (lseq : BitVec 16) (cl : BitVec 6) (pos : BitVec 8)
  /-- DSP_LAUNCH_CMD ABORT halts a launch with status ABORTED (R342). -/
  | launchAbort (ag : RegAgent) (lseq : BitVec 16) (cl : BitVec 6)
  /-- When a context's last ring turns off, a context-closed record is written and the slot freed (R349). -/
  | contextClosed (ctx : BitVec 20)
  /-- A port receives a frame, accepting it in order or answering NAK (R353). -/
  | fabricFrameRx (port : BitVec 4) (f : Frame)
  /-- A port retrains after repeated replays or loss of frame lock (R354). -/
  | fabPortRetrain (port : BitVec 4) (why : RetrainCause)
  /-- A retrain ends with a replay, or the port enters FAILED after 3 failures (R354). -/
  | fabRetrainDone (port : BitVec 4) (ok : Bool)
  /-- Firmware writes RETRAIN to a port (R397). -/
  | fabPortRetrainCmd (ag : RegAgent) (port : BitVec 4)
  /-- Fabric receive takes a WR packet and performs it in flow order (R369). -/
  | fabWr (port : BitVec 4)
  /-- Fabric receive takes a masked-write packet (R369). -/
  | fabWrm (port : BitVec 4)
  /-- Fabric receive takes a read packet and answers RDD (R369). -/
  | fabRd (port : BitVec 4)
  /-- Prism takes a data chunk packet (R385). -/
  | pzd (port : BitVec 4)
  /-- A sender takes an ACK of a flow through an FSEQ (R370). -/
  | fabAck (port : BitVec 4)
  /-- A sender takes read data answering an RD (R370). -/
  | rdd (port : BitVec 4)
  /-- A sender takes a NAK for REFUSED, WRONGRANK or BUSY (R371). -/
  | fabNak (port : BitVec 4)
  /-- FAB_ACK_TMO passes without an answer, and the packet is resent (R373). -/
  | fabAckTimeout (i : Nat)
  /-- 1 µs after a NAK WRONGRANK or BUSY, the packet is resent (R373). -/
  | fabNakResend (i : Nat)
  /-- A destination gets no answer within 9 × FAB_ACK_TMO and is declared dead (R374). -/
  | fabDestDead (dst : BitVec 16)
  /-- A posted write held for combining is sent after 500 ns (R375). -/
  | fabCombineTimeout (i : Nat)
  /-- A flow-table entry is freed after 500 µs with nothing pending (R369). -/
  | flowEntryFree (src flow : BitVec 16)
  /-- FAB_TAB_CTL INV drops the cached rank and route tables (R364). -/
  | fabTabInv (ag : RegAgent)
  /-- Removes an address from the dead list, or empties the list (R374). -/
  | fabDeadClr (ag : RegAgent) (all : Bool) (addr : BitVec 16)
  /-- Every 1 ms, a follower sends TSY toward its parent (R376). -/
  | tsySend
  /-- A time-synchronisation packet is answered, or the offset is computed and corrected (R376). -/
  | tsy (port : BitVec 4)
  /-- 5 ms with no TSY answer clears LOCK (R377). -/
  | tsLockTimeout
  /-- PRZ_TREE_CTL LOAD loads a tree entry and sets its SEQ to 0 (R379). -/
  | treeLoad (ag : RegAgent) (t : BitVec 6)
  /-- PRZ_TREE_CTL UNLOAD unloads a tree, aborting a running collective (R379). -/
  | treeUnload (ag : RegAgent) (t : BitVec 6)
  /-- Prism takes READY from a neighbour, permitting data to it (R383). -/
  | przReady (port : BitVec 4)
  /-- Prism takes a heartbeat (R388). -/
  | przHb (port : BitVec 4)
  /-- A node sends HB to a neighbour it has sent nothing in 10 µs (R388). -/
  | przHbTimer (t : BitVec 6) (nb : BitVec 16)
  /-- 50 µs without a packet from a neighbour declares it lost (R388). -/
  | przNeighbourLost (t : BitVec 6) (nb : BitVec 16)
  /-- Prism takes a DONE reporting coverage up the tree (R389). -/
  | przDone (port : BitVec 4)
  /-- A member takes a SUMMARY part, forwards it and completes once it holds every part (R392). -/
  | przSummary (port : BitVec 4)
  /-- An alternate parent takes a JOIN and answers JOINOK and ADOPT (R390). -/
  | join (port : BitVec 4)
  /-- An orphan takes JOINOK from its alternate parent (R390). -/
  | joinok (port : BitVec 4)
  /-- No JOINOK within 50 µs completes the node as ORPHAN (R390). -/
  | joinTimeout (t : BitVec 6)
  /-- A node takes ADOPT and forwards it toward the root (R384). -/
  | adopt (port : BitVec 4)
  /-- A member takes ABORT, forwards it and completes with ROOTLOST (R390). -/
  | przAbort (port : BitVec 4)
  /-- A neighbour takes LEAVE and treats the sender as lost (R387). -/
  | leave (port : BitVec 4)
  /-- 2 µs after an uncovered ADOPT, the root reissues the broadcast phase (R391). -/
  | przReissue (t : BitVec 6)
  /-- 100 µs after the last DONE, ADOPT or lost entry, the root completes and sends SUMMARY (R392). -/
  | rootSettleTimeout (t : BitVec 6)
  /-- A member completes its collective with a status and flags (R387). -/
  | collectiveComplete (t : BitVec 6)
  /-- The host port takes a MemRd and sends RDH asking I, S or A (R410). -/
  | memrd (hpa : BitVec 64) (mv : HostState)
  /-- The host port takes a MemRdData and sends RDH asking S (R410). -/
  | memrddata (hpa : BitVec 64)
  /-- The host port takes a MemWr, as WRH or as HDT of an outstanding snoop (R410). -/
  | memwr (hpa : BitVec 64) (data : BitVec 512) (poison : Bool)
  /-- The host port takes a MemWrPtl, as WRH or as HDT (R410). -/
  | memwrptl (hpa : BitVec 64) (mask : BitVec 64) (data : BitVec 512) (poison : Bool)
  /-- A MemSpecRd is dropped (R410). -/
  | memspecrd (hpa : BitVec 64)
  /-- A MemInv or MemInvNT is answered with Cmp, MetaValue I (R410). -/
  | meminv (hpa : BitVec 64)
  /-- The host port answers BIConflictAck after earlier responses for the line (R411). -/
  | biconflict (hpa : BitVec 64)
  /-- The host port answers an H2D snoop with RspIHitI (R412). -/
  | h2dSnoop (hpa : BitVec 64)
  /-- The host sets Commit in an HDM decoder, and the port checks and commits it (R408). -/
  | hdmCommit (n : BitVec 2)
  /-- The function answers a CXL.io configuration request (R401). -/
  | configRequest (wr : Bool) (reg : BitVec 10) (v : BitVec 32)
  /-- A host BAR2 access decodes to an aperture window and reaches memory, or receives UR (R402). -/
  | bar2Access (wr : Bool) (off : BitVec 40) (len : BitVec 10) (data : List (BitVec 8)) (poison : Bool)
  /-- The port sends Assert_INTA when the interrupt line becomes asserted, after holdoff (R417). -/
  | assertInta
  /-- The port sends Deassert_INTA when the line becomes deasserted (R417). -/
  | deassertInta
  /-- A PMCSR write to D3hot stops commands, and then the cluster PLLs (R418). -/
  | d3hotEntry
  /-- D3cold writes back dirty lines and removes power from the compute dies and fabric ports (R418). -/
  | d3coldEntry
  /-- A return to D0 restores compute (R418). -/
  | d0Return
  /-- After 64 idle IOD cycles, the modules enter L0s (R419). -/
  | l0sEntry
  /-- After HPT_ASPM_IDLE slow cycles with no flit, the link enters L1 (R419). -/
  | l1Entry
  /-- The host link retrains and replays unacknowledged flits (R420). -/
  | hostLinkRetrain (long : Bool)
  /-- Link down, Hot Reset, Link Disable, a long retrain or an unanswered BISnp starts the host-loss timer (R421). -/
  | hostLinkDown (why : LinkDownCause)
  /-- The host-loss timer reaches HPT_BI_TMO, and the host agent is declared dead (R421). -/
  | hostLossTimeout
  /-- Once HOSTRC is set, configuration and decoders are reset, decoder 0 is recommitted, and the link may train (R422). -/
  | hostLinkReinit
  /-- HPT_BIAS_CMD flips pages to device bias without an owner check (R414). -/
  | hptBiasToDevice (ag : RegAgent) (count : BitVec 9)
  /-- HPT_BIAS_CMD flips pages to shared bias without an owner check (R414). -/
  | hptBiasToShared (ag : RegAgent) (count : BitVec 9)
  /-- A host-window transfer from host memory to device memory (R412). -/
  | hwinHostToDevice (ag : RegAgent) (coh : Bool)
  /-- A host-window transfer from device memory to host memory (R412). -/
  | hwinDeviceToHost (ag : RegAgent) (coh : Bool)
  /-- A completion times out after 50 ms, and TIMEOUT is set (R412). -/
  | hwinCompletionTimeout
  /-- Starts a configuration read below the service port (R426). -/
  | svpCfgRead (ag : RegAgent) (a : BitVec 28)
  /-- Starts a configuration write below the service port (R426). -/
  | svpCfgWrite (ag : RegAgent) (a : BitVec 28)
  /-- A configuration request completes or fails, setting CFGDONE or CFGERR (R426). -/
  | svpCfgComplete (ok : Bool) (v : BitVec 32)
  /-- Filtered presence changes, setting PRESENT and PDC (R427). -/
  | svpPresenceChange (present : Bool)
  /-- A clear of PWR_OFF powers the slot (R427). -/
  | slotPowerOn (ag : RegAgent) (v : BitVec 32)
  /-- Slot power-good is absent after 100 ms; PFD is set and power is cut (R427). -/
  | slotPowerFault
  /-- The service-port link reaches L0, setting LINKUP and DLLSC (R427). -/
  | svpLinkUp (width speed : BitVec 4)
  /-- SVP_PERST_N is deasserted 100 ms after SVP_PWRGD (R524). -/
  | slotResetRelease
  /-- An attention-button press sets ABP (R427). -/
  | attnButton
  /-- Presence or the link is lost unexpectedly; writes drop and reads fail (R428). -/
  | surpriseRemoval (byLink : Bool)
  /-- The devices below the service port are declared dead (R429). -/
  | svpDestDead (why : DeadCause)
  /-- DEADCLR ends a dead declaration (R429). -/
  | svpDeadClear (ag : RegAgent) (v : BitVec 32)
  /-- A device's Assert_INTx sets an INTx level (R430). -/
  | assertIntx (i : BitVec 2)
  /-- A device's Deassert_INTx clears an INTx level (R430). -/
  | deassertIntx (i : BitVec 2)
  /-- An ERR_COR, ERR_NONFATAL or ERR_FATAL message is received (R424). -/
  | svpErrMessage (sev : ErrSev)
  /-- An upstream request decodes to a window and reaches memory, or is refused or receives UR (R431). -/
  | apertureRequest (wr : Bool) (bus : BitVec 64) (len : BitVec 10) (data : List (BitVec 8)) (poison bad : Bool)
  /-- A register agent writes a register that has no behaviour of its own (R441). -/
  | registerWrite (ag : RegAgent) (off : BitVec 26) (v : BitVec 32)
  /-- A write of GO to GCTL_STROBEn sets a strobe pending (R444). -/
  | strobeWrite (ag : RegAgent) (n : BitVec 4) (go : Bool)
  /-- GCTL_STROBE_SET sets several strobes pending for one common edge (R444). -/
  | strobeSet (ag : RegAgent) (set : BitVec 16)
  /-- At a slow edge after its pending writes arrive, a strobe applies every subscriber's pending values (R444). -/
  | strobeApply (n : BitVec 4)
  /-- A write to a G1 address opens a sequence and holds the value (R446). -/
  | g1FirstWrite (ag : RegAgent) (off : BitVec 26) (v : BitVec 32)
  /-- A complement write accepts the held value, or fails the sequence (R446). -/
  | g1ComplementWrite (ag : RegAgent) (off : BitVec 26) (v : BitVec 32)
  /-- An open G1 sequence expires after 64 slow cycles and sets G1ERR (R446). -/
  | g1Timeout (ag : RegAgent)
  /-- A key write opens the agent's G2 lock, or closes it and sets G2ERR (R447). -/
  | gctlUnlock (ag : RegAgent) (key : BitVec 16)
  /-- An open G2 lock closes 1,024 slow cycles after opening (R447). -/
  | g2LockTimeout (ag : RegAgent)
  /-- A write to an SQC register clears its flags when SEQ matches, or counts a stale write (R448). -/
  | sqcClearWrite (ag : RegAgent) (off : BitVec 26) (v : BitVec 32)
  /-- A copy of a triplicated field that disagrees is corrected, or the field takes its safe value (R449). -/
  | triplicateVote (f : TriField) (u0 u1 u2 : BitVec 32)
  /-- A read of a 64-bit _LO word latches the high word into the agent's shadow (R450). -/
  | shadowLoRead (ag : RegAgent) (off : BitVec 26)
  /-- A G1 write clears every counter of a BAR0 map row (R451). -/
  | gctlCntReset (ag : RegAgent) (row : BitVec 5)
  /-- A die link receives a flit, accepting it or answering NAK for a replay (R461). -/
  | dieLinkFlit (link : BitVec 2) (up : Bool) (f : Flit)
  /-- The IOD starts a handshake on a die link (R464). -/
  | linkHandshake (link : BitVec 2)
  /-- After a 2 µs wait, a new handshake attempt runs its steps (R464). -/
  | handshakeAttempt (link : BitVec 2) (m : LaneReport)
  /-- A handshake step exceeds its limit and fails the attempt (R464). -/
  | handshakeStepTimeout (link : BitVec 2) (st : BitVec 4)
  /-- A G1 write of 0 to HOLD releases a held link and starts a handshake (R468). -/
  | linkHoldRelease (ag : RegAgent) (link : BitVec 2)
  /-- A G1 write of 1 to HOLD holds both ends (R472). -/
  | linkHoldCmd (ag : RegAgent) (link : BitVec 2)
  /-- A write of RESET resets one end's link layer alone (R461). -/
  | d2dReset (ag : RegAgent) (link : BitVec 2) (far : Bool)
  /-- A write of RETRAIN starts a handshake (R472). -/
  | d2dRetrain (ag : RegAgent) (link : BitVec 2)
  /-- One end sees the other's state wire drop and leaves up (R461). -/
  | sbsDrop (link : BitVec 2)
  /-- A TEST write sets a near-end or far-end loopback mode (R470). -/
  | d2dTestMode (ag : RegAgent) (link : BitVec 2) (far : Bool) (mode : BitVec 2)
  /-- A hybrid-bond transfer fails parity and is repeated, or the cluster is isolated (R469). -/
  | bondParityError (cl : BitVec 6) (repeatOk : Bool)
  /-- Every 2^20 ticks, SBY loads the base die's TS64 repeater (R462). -/
  | timeMark (die : Bool)
  /-- Every 10 µs, the power manager shares the budget and moves steps and caps (R475). -/
  | powerPass (i : PassInput)
  /-- Every 100 ns, the model turns activity counts into rail current (R485). -/
  | activityModelTick (i : ModelInput)
  /-- A telemetry frame updates a rail's gain, or is discarded (R485). -/
  | telemetryFrame (rail : BitVec 5) (crcOk : Bool) (reported modelled rated : Int)
  /-- A rail with no accepted reading for 10 ms makes the model uncalibrated (R486). -/
  | modelUncalibrated
  /-- A die rail reaches its new voltage, and waiting clusters change frequency (R482). -/
  | railSettled (cd : BitVec 2)
  /-- Proofing engages on a die at a fast current fall with many barrier-idle cores (R487). -/
  | proofEngage (cd : BitVec 2)
  /-- Proofing is released by fade, by wake, or by throttle, alert or safe state (R489). -/
  | proofRelease (cd : BitVec 2)
  /-- A write of RELEASE releases proofing on every die (R489). -/
  | proofReleaseCmd (ag : RegAgent)
  /-- A droop detector fires and stretches the cluster clock (R491). -/
  | droopDetect (cl : BitVec 6)
  /-- A droop clears 50 ns after the detector last fired (R491). -/
  | droopClear (cl : BitVec 6)
  /-- A sensor beyond its threshold lowers the cluster's ceiling each pass (R493). -/
  | thermalThrottle (cl : BitVec 6) (base : Bool) (reading : Int)
  /-- Every 100 µs after cooling, the ceiling rises by one step (R493). -/
  | thermalCeilingRaise (cl : BitVec 6) (own base : Int)
  /-- A sensor at its junction limit drives the trip output and forces the safe state (R494). -/
  | thermalTrip (base : Bool) (sensor : BitVec 6) (reading : Int)
  /-- A filtered fall of COOLANT_FLOW_OK forces the safe state (R495). -/
  | coolantFlowLoss
  /-- Flow frequency below MIN for 100 ms applies a 1,600 W limit (R495). -/
  | coolantFlowLow (hz : BitVec 16)
  /-- Flow at or above MIN for 1 s lifts the reduced limit (R495). -/
  | coolantFlowRestored (hz : BitVec 16)
  /-- VR_ALERT_N asserts, forcing step 0 or setting ALERT under firmware control (R496). -/
  | regulatorAlert
  /-- The alert deasserts and the force ends (R496). -/
  | regulatorAlertEnd
  /-- The input or the always-on rail falls low; non-volatile writes are refused (R497). -/
  | supplySag (input aon bad : Bool)
  /-- The collector takes an error report, classes it, promotes it and applies its reactions (R505). -/
  | faultReport (r : Report)
  /-- A mirror pair shows equal levels; the gatherer raises 0x2F and polls (R503). -/
  | mirrorPairFault (src : BitVec 16)
  /-- Every 1 µs, the gatherer polls a source behind a broken pair (R503). -/
  | gathererPoll (src : BitVec 16)
  /-- A counting window closes after T and its count returns to 0 (R506). -/
  | faultWindowClose (src : BitVec 16)
  /-- FCL_DEMOTE demotes an instance, or all instances (R506). -/
  | faultDemote (ag : RegAgent) (all : Bool) (src : BitVec 16)
  /-- The complex forces the safe state across all dies within 1 µs (R510). -/
  | safeStateEntry
  /-- The reader advances the crumb read position (R514). -/
  | fclCrumbRdWrite (ag : RegAgent) (v : BitVec 32)
  /-- At each sample instant, each die snapshots its counters into the telemetry ring (R520). -/
  | loupeSample (i : List LoupeRow)
  /-- Every 100 ms, a stack channel is recalibrated (R518). -/
  | stackRecalibration (far : Bool) (stack : BitVec 3) (chan : BitVec 6)
  /-- Every 1 s, the sensors are calibrated against a reference (R518). -/
  | sensorCalibration
  /-- CAL_CMD COMMIT writes and verifies the next slot (R538). -/
  | calCommit (ag : RegAgent)
  /-- CAL_CMD RELOAD copies the committed set into the staging buffer (R538). -/
  | calReload (ag : RegAgent)
  /-- The erase of the previous slot ends, and a waiting commit may proceed (R519). -/
  | calEraseDone
  /-- A CAL_WIN_DATA access reads or writes a word and advances WORD (R539). -/
  | calWinDataAccess (ag : RegAgent) (wr : Bool) (v : BitVec 32)
  /-- The management core reloads the watchdog count (R541). -/
  | wdogKick (ag : RegAgent) (v : BitVec 32)
  /-- The watchdog reaches 0 and restarts the management core (R541). -/
  | wdogExpire
  /-- GCTL_RST_CLUSTER warm-resets one cluster, halting its launch (R529). -/
  | clusterWarmReset (ag : RegAgent) (cl : BitVec 6)
  /-- GCTL_RST_CORE warm-resets one core (R293). -/
  | coreWarmReset (ag : RegAgent) (cl : BitVec 6) (pos : BitVec 8)
  /-- At 2 µs, buffer entries not yet acknowledged are dropped and a DROPPED crumb is written (R293). -/
  | warmResetDrainTimeout (cl : BitVec 6) (pos : BitVec 8)
  /-- A PKG_PWRGOOD fall or PKG_RESET_N low resets every die (R528). -/
  | coldReset (cause : ColdCause)
  /-- A G2 write of GO starts a cold reset (R531). -/
  | gctlColdRst (ag : RegAgent)
  /-- The rise of PKG_RESET_N starts the boot sequence (R532). -/
  | bootStart (testEn : Bool)
  /-- A boot step ends, and the next begins (R532). -/
  | bootStepDone (r : BootResult)
  /-- A boot step exceeds its limit, with its stated outcome (R532). -/
  | bootStepTimeout
  /-- The ROM verifies a firmware image (R533). -/
  | imageVerify (image : Bool) (keyOk sigOk digestOk : Bool) (version : Nat)
  /-- A recovery image written over I3C is verified (R533). -/
  | recoveryImage (keyOk sigOk digestOk : Bool) (version : Nat)
  /-- HOST_REL rises once boot steps 0x01 to 0x09 succeed (R534). -/
  | hostRelease
  /-- The always-on PLL locks, and TS64 starts (R525). -/
  | aonPllLock (railLost : Bool)
  /-- Loss of the crystal reference sets REFLOSS, and the PLL holds its frequency (R526). -/
  | refclkLoss
  /-- The reference returns, and the PLL relocks without a TS64 step (R526). -/
  | refclkReturn
  /-- Loss of the 100 MHz reference sets PHYLOSS (R524). -/
  | phyrefLoss
  /-- An I3C private write of 8 bytes performs a register write (R535). -/
  | i3cWrite (bytes : List (BitVec 8))
  /-- An I3C offset write followed by a read performs a register read (R535). -/
  | i3cRead (bytes : List (BitVec 8)) (len : Nat)
  /-- A debug request arriving over the DBG channel restarts a stopped cluster PLL (R59). -/
  | debugRequest (cl : BitVec 6)
  /-- A completion for a downstream read or flush read arrives at the service port, returning data to its requester and advancing the drained-to stamp (R288). -/
  | svpCompletion (id : Nat) (st : CplStatus) (data : BitVec 512) (poison : Bool)
  /-- A CXL.io completion or CXL.cache data response for a host-window transfer arrives; when the last one is in, the data is written and DONE is set (R412). -/
  | hwinCompletion (id : Nat) (st : CplStatus) (data : BitVec 512) (poison : Bool)
  /-- The host link finishes UCIe and CXL training and reaches L0 after a host reset or link loss (R422). -/
  | hostLinkUp (good : BitVec 8)
  /-- The host starts an exit from L0s or L1 because it has a flit to send, and the link returns to L0 (R419). -/
  | aspmExit
  /-- An enabled fabric port finishes its initial training and enters the up state (R397). -/
  | fabPortTrained (port : BitVec 4)
  /-- The service-port link leaves L0, clearing LINKUP and setting DLLSC, and starts the 200 µs dead-destination wait unless PWR_OFF or LNK_DIS is set (R429). -/
  | svpLinkDown
  /-- A write that sets PWR_OFF or LNK_DIS in SVP_SLOT_CTL removes slot power or disables the link, and the link down that follows is not a surprise removal (R430). -/
  | slotPowerOff (ag : RegAgent) (v : BitVec 32)
  /-- SVP_PWRGD rises after the filter, which stops the 100 ms power-fault timer and starts the 100 ms wait before SVP_PERST_N is released (R427). -/
  | slotPowerGood
  /-- The package input and the always-on rail return above their thresholds after the 10 µs filter, ending the refusal of non-volatile writes (R497). -/
  | supplySagEnd (input aon : Bool)
  /-- Edges return on the 100 MHz PHY reference, so the PHYs can lock and train again (R524). -/
  | phyrefReturn
  /-- The filtered COOLANT_FLOW_OK input rises to indicate normal flow (R495). -/
  | coolantFlowOkRise
  /-- A warm reset of a cluster or core ends after its drain, write-back and invalidation; for an isolated cluster ISOLATED clears and a type 0x33 event is raised (R529). -/
  | warmResetDone (cl : BitVec 6) (core : Bool) (pos : BitVec 8)
  /-- A calibration commit or reload finishes writing and verifying, setting DONE or FAIL and starting the erase of the previous slot (R538). -/
  | calCommitDone (verifyOk : Bool)
  deriving DecidableEq, Repr

end Sys2Proof
end

