-- ==== Sys2Proof/Decode.lean ====
section
/-! DEFINITION. The word decoder of the commands. No row of the opcode table gives a command bits, so no word spells a
command; an instruction word of a core is written out for the exception record alone (R67, Machine/Operands.lean). -/

namespace Sys2Proof

/-- The command that a word spells by the table's bits: none, since no row gives bits (log entry 8). -/
def decodeTableWord (_nbits _w : Nat) : Option Instr := none

end Sys2Proof
end

