-- ==== Sys2Proof/Machine/State.lean ====
section
/-! DEFINITION. The state of the block as plain data: one structure per block of the complex (R14), the queue of waiting
commands, and the state after reset. A field's docstring gives its width, the rule that names it and its reset value. -/

namespace Sys2Proof.Machine

/-! ### Cores (chapter 02, 03, 04, 05, 08) -/

/-- Why a core is Gated (R57). -/
inductive Gate where
  | tokWait (k : BitVec 4) (t : Word)
  | strGet (dir : Bool)
  | strPut (dir : Bool)
  | xlt
  deriving DecidableEq, Repr, Inhabited

/-- The core states (R57). -/
inductive CoreState where
  | idle | running
  | gated (g : Gate)
  | waiting | halted
  deriving DecidableEq, Repr, Inhabited

/-- Where a translated access goes (R299 TGT, R262). -/
inductive Dest where
  | device | fabric (rank : BitVec 16) | bus
  deriving DecidableEq, Repr, Inhabited

/-- A reduction add (R93). -/
inductive RedOp where
  | i32 | i64 | f32 | bf16
  deriving DecidableEq, Repr, Inhabited

/-- What a store-buffer entry holds (R278): a store or st.pair, a red, a cache line operation, a fence.rel marker (R271). -/
inductive SbKind where
  | store | red (op : RedOp) | clean | cinv | marker
  deriving DecidableEq, Repr, Inhabited

/-- One store-buffer entry: address, bytes, byte mask, CTX, order ID and marks (R278), the store's own pc (R86), and for
a release or a marker the line moves that precede it (R269). -/
structure SbEntry where
  kind : SbKind
  dest : Dest
  pa : Nat
  va : Word
  mask : Mask
  data : Line
  ctx : Ctx
  attr : BitVec 8
  rel : Bool
  scope : BitVec 2
  oid : BitVec 2
  pc : Word
  word : Word
  launch : Nat
  sent : Bool
  after : BitVec 4
  deriving DecidableEq, Repr, Inhabited

/-- One line of the non-temporal combining buffer (R280); flush: one of the conditions of R280 sends it. -/
structure CbLine where
  flush : Bool
  dest : Dest
  line : Nat
  va : Word
  mask : Mask
  data : Line
  ctx : Ctx
  attr : BitVec 8
  pc : Word
  word : Word
  launch : Nat
  sent : Bool
  deriving DecidableEq, Repr, Inhabited

/-- An outstanding line move (R105 to R108): one done bit and one sent bit per line. -/
structure LineMove where
  out : Bool
  k : BitVec 4
  ls : Nat
  va : Word
  count : Nat
  nt : Bool
  ctx : Ctx
  pc : Word
  word : Word
  launch : Nat
  sent : BitVec 128
  done : BitVec 128
  lost : Bool
  deriving DecidableEq, Repr, Inhabited

/-- A line of the L1, the victim cache or the instruction cache: tagged with physical line and CTX (R180). -/
structure L1Line where
  line : Nat
  ctx : Ctx
  data : Line
  poison : Bool
  deriving DecidableEq, Repr, Inhabited

/-- A load or an instruction fetch that has missed and stalls its core with the clock running (R181, R184). -/
structure PendLoad where
  pa : Nat
  va : Word
  size : Nat
  sext : Bool
  pair : Bool
  d : BitVec 5
  alloc : Bool
  dest : Dest
  nopf : Bool
  ctx : Ctx
  word : Word
  ifetch : Bool
  deriving DecidableEq, Repr, Inhabited

/-- What a core exception puts into its record: code, PC, faulting data address, instruction word (R67). -/
structure Exc where
  code : BitVec 8
  pc : Word
  addr : Word
  word : Word
  deriving DecidableEq, Repr, Inhabited

/-- One core position (What a core holds; R28 to R33, R57). -/
structure CoreSt where
  /-- Core state, one of five (R57); reset idle. -/
  st : CoreState
  /-- A wake event has reached the gated core (R57); reset false. -/
  wake : Bool
  /-- Started by the cluster's running launch (R44, R53); reset false. -/
  started : Bool
  /-- Program counter, 64-bit (R83); reset 0 DESIGN CHOICE (the spec gives a value only at launch start, R45). -/
  pc : Word
  /-- Scalar registers s0 to s31, 64-bit each (R72); reset 0 DESIGN CHOICE. -/
  s : Vector Word 32
  /-- Predicates p0 to p7, 1 bit each; p0 reads 1 whatever its bit (R72); reset 0 DESIGN CHOICE. -/
  p : BitVec 8
  /-- Token counters k0 to k15, 64-bit (R47), held in the cluster's token block; reset 0 DESIGN CHOICE. -/
  k : Vector Word 16
  /-- Sticky overflow bits: [16] cyc, [15:0] k15 to k0 (R32, R33); reset 0 DESIGN CHOICE. -/
  ovf : BitVec 17
  /-- Arithmetic trap enables xcfg[4:0] (R32); reset 0 (R32). -/
  xcfg : BitVec 5
  /-- Floating-point status word fsr[4:0] (R99); reset 0 DESIGN CHOICE (0 at launch start). -/
  fsr : BitVec 5
  /-- Vector status word vsw[7:0] (R135); reset 0 DESIGN CHOICE. -/
  vsw : BitVec 8
  /-- Fence status word fns[0] LOSS (R99); reset false DESIGN CHOICE. -/
  fns : Bool
  /-- Token status word tks[0] OUTSIDE (R99); reset false DESIGN CHOICE. -/
  tks : Bool
  /-- Tile registers t0 to t31, 16 rows of 64 B each (R111); reset 0 DESIGN CHOICE. -/
  t : Vector Tile 32
  /-- Accumulator tiles a0 to a3, 16 rows of 128 B each (R142); reset 0 DESIGN CHOICE. -/
  acc : Vector Acc 4
  /-- Present vector length VL, 1 to 64 (R112); reset 0 DESIGN CHOICE (64 at launch start, R113). -/
  vl : Nat
  /-- Present row length RL, 1 to 16 (R112); reset 0 DESIGN CHOICE (16 at launch start, R113). -/
  rl : Nat
  /-- Local store, 64 KiB, bytes by offset (R28, R178); an unlisted byte reads 0 (cleared at prepare, R43). -/
  ls : List Host.Cell
  /-- L1 data cache, 512 sets direct-mapped, by set (R178, R180); reset empty (R221). -/
  l1 : SMap (Option L1Line)
  /-- Victim cache, 8 entries, most recently used first (R182); reset empty (R221). -/
  victim : List L1Line
  /-- Instruction cache, 128 sets of two ways, most recently used first, by set (R178, R184); reset empty (R221). -/
  ic : SMap (List L1Line)
  /-- The virtual line number whose instructions the core has fetched and not issued (R184); reset none. -/
  fetched : Option Nat
  /-- Store buffer, 8 entries, oldest first (R278); reset empty. -/
  sb : List SbEntry
  /-- Non-temporal combining buffer, 4 lines, oldest first (R280); reset empty. -/
  cb : List CbLine
  /-- Outstanding line moves, at most 4, by index 0 to 3 (R106); reset none. -/
  lmv : SMap (Option LineMove)
  /-- The reservation: the line that ld.rsv reserved (R94); reset none. -/
  rsv : Option Nat
  /-- The load that stalls the core (R181); reset none. -/
  pend : Option PendLoad
  /-- The first word of a load pair that spans two lines, read and not yet written (R85, R265); reset none. -/
  pairLo : Option Word
  /-- Stream receive buffer from the predecessor, 8 beats, oldest first (R54); reset empty. -/
  rxP : List Line
  /-- Stream receive buffer from the successor (R54); reset empty. -/
  rxN : List Line
  /-- Beats on their way from the predecessor (R55); reset empty. -/
  flyP : List Line
  /-- Beats on their way from the successor (R55); reset empty. -/
  flyN : List Line
  /-- Credits for the channel to the successor, 0 to 8 (R54); reset 0 (8 from prepare). -/
  crN : Nat
  /-- Credits for the channel to the predecessor (R54); reset 0 (8 from prepare). -/
  crP : Nat
  /-- Credits on their way back from the successor (R55); reset 0. -/
  backN : Nat
  /-- Credits on their way back from the predecessor (R55); reset 0. -/
  backP : Nat
  /-- Beats already moved by a tile stream form that waits between beats (R104); reset 0. -/
  strDone : Nat
  /-- What the record names if the translation that the core waits on ends fatal (R62, R320), or the ownership an atomic
  asked for is refused (R86, R92); reset none. -/
  xwait : Option Exc
  /-- Its warm reset runs, from this stamp (R528, R529); reset none. -/
  rst : Option Stamp
  deriving DecidableEq, Repr, Inhabited

/-! ### Clusters (chapters 02, 06, 07, 09) -/

/-- The states of a line that a cluster L2 way holds (R235; FP and WB lines stand in the miss list and the write-back buffer). -/
inductive L2State where
  | S | E | M | KE | UP
  deriving DecidableEq, Repr, Inhabited

/-- One valid way of a cluster L2 (R185, R186, R235), with the write-through copies that await CMP. -/
structure L2Way where
  st : L2State
  line : Nat
  ctx : Ctx
  data : Line
  poison : Bool
  used : Bool
  vck : Nat
  hold : Option (BitVec 8)
  holdTs : Stamp
  cinv : Bool
  deriving DecidableEq, Repr, Inhabited

/-- A line in WB: its VCD awaits CMP (R235). -/
structure WbLine where
  line : Nat
  data : Line
  poison : Bool
  deriving DecidableEq, Repr, Inhabited

/-- What an L2 miss asked for (R235 FP). -/
inductive MissKind where
  | rds | rdx | rdc
  deriving DecidableEq, Repr, Inhabited

/-- A line in FP: a REQ awaits its reply (R235). core is the core that raised it; pf marks a prefetch. -/
structure Miss where
  kind : MissKind
  line : Nat
  ctx : Ctx
  core : BitVec 8
  pf : Bool
  l1pf : Bool
  stream : Bool
  deriving DecidableEq, Repr, Inhabited

/-- Which buffer of a core a write came from; dropped: the core has forgotten it in a warm reset (R293). -/
inductive OutSrc where
  | store | nt | lmv (i : Nat) (b : Nat) | wt | dropped
  deriving DecidableEq, Repr, Inhabited

/-- A write that the cluster L2 has sent to a home or a posted path and whose answer is outstanding (R277). -/
structure OutWrite where
  tag : Nat
  core : BitVec 8
  src : OutSrc
  dest : Dest
  line : Nat
  mask : Mask
  data : Line
  ctx : Ctx
  va : Word
  pc : Word
  word : Word
  launch : Nat
  keep : Bool
  devo : Bool
  deriving DecidableEq, Repr, Inhabited

/-- A token on its way to, or held at, a cluster's token block (R47, R50): its sender's launch for a core's token. -/
structure TokMsg where
  ctx : Ctx
  lseq : Option (BitVec 16)
  lidx : Nat
  k : BitVec 4
  inc : Word
  deriving DecidableEq, Repr, Inhabited

/-- The permissions and target of a translation (R299). -/
structure Leaf where
  addr : Nat
  tgt : BitVec 2
  rank : BitVec 16
  region : BitVec 4
  x : Bool
  w : Bool
  rd : Bool
  big : Bool
  deriving DecidableEq, Repr, Inhabited

/-- A TLB entry: CTX, virtual page number VA[51:25] (of 16 GiB pages VA[51:34]) and the leaf (R302). -/
structure TlbEnt where
  ctx : Ctx
  vpn : Nat
  leaf : Leaf
  deriving DecidableEq, Repr, Inhabited

/-- The launch a cluster runs: the values of R32 that describe it. -/
structure RunInfo where
  id : Nat
  ctx : Ctx
  lseq : BitVec 16
  gidx : Nat
  gsize : Nat
  nrun : Nat
  arg : Word
  deriving DecidableEq, Repr, Inhabited

/-- A cluster PLL (R17, R58, R59). -/
inductive Pll where
  | stopped | locking | running
  deriving DecidableEq, Repr, Inhabited

/-- A cluster's share of a launch prepare (R43). -/
inductive Prep where
  | none | clearing (id : Nat) | ready (id : Nat)
  deriving DecidableEq, Repr, Inhabited

/-- One cluster: caching agent, token block, TLB, clock (R34 to R37, R47, R58). -/
structure ClusterSt where
  /-- Cluster PLL: stopped, locking or running (R17); reset stopped (R526). -/
  pll : Pll
  /-- TS64 since which the stop conditions have held (R58); reset none. -/
  idleTs : Option Stamp
  /-- Launch prepare in progress (R43, R58); reset none. -/
  prep : Prep
  /-- The running launch (R40); reset none. -/
  run : Option RunInfo
  /-- Cluster L2, by (slice × 1024 + set) × 8 + way (R178, R185); reset empty (R221). -/
  l2 : SMap (Option L2Way)
  /-- Write-back buffer: lines in WB (R235); reset empty. -/
  wb : List WbLine
  /-- Outstanding misses: lines in FP (R187, R235); reset empty. -/
  miss : List Miss
  /-- Writes sent and not answered (R277); reset empty. -/
  outw : List OutWrite
  /-- VIC credits in use, by home slice, 0 to 2 (R241); reset 0. -/
  vicUsed : SMap Nat
  /-- Cluster TLB, 128 sets of 8 ways, by set × 8 + way (R302); reset empty. -/
  tlb : SMap (Option TlbEnt)
  /-- Tokens that have reached the token block, in arrival order (R47); reset empty. -/
  tokq : List TokMsg
  /-- Tokens held for a launch in prepare (R50); reset empty. -/
  tokHeld : List TokMsg
  /-- Tokens dropped, 64-bit saturating (R49); reset 0. -/
  tokDrop : BitVec 64
  /-- ISOLATED of FCL_CLG_STATE (R508); reset false. -/
  isolated : Bool
  /-- Warm reset running, from this stamp (R529); reset none. -/
  rst : Option Stamp
  /-- Step of the cluster clock, 0 to 37 (R481); reset 0 (R526). -/
  step : Nat
  /-- Steps taken off the ceiling by thermal throttling (R493); reset 0. -/
  thermDown : Nat
  /-- A throttling sensor is above its clearing point (R493); reset false. -/
  throttled : Bool
  /-- TS64 of the last change of the ceiling by a throttle (R493); reset none. -/
  thermTs : Option Stamp
  /-- A droop is in force (R491); reset false. -/
  droop : Bool
  /-- TS64 at which the last droop cleared (R492); reset none. -/
  droopTs : Option Stamp
  deriving DecidableEq, Repr, Inhabited

/-! ### Coherence messages and homes (chapter 07) -/

/-- The messages of the protocol (R238). -/
inductive MsgKind where
  | rds | rdx | rdc | wrp | red | rdh | wrh
  | vcd | vck | vcn
  | fsh | fex | frc | inv | bis
  | cmp | gnt | ack | fak | iak | npr | npd | vpd | bir | ncx | rty | crg
  | dat | fdt | hdt
  deriving DecidableEq, Repr, Inhabited

/-- The message classes (R238). -/
inductive MsgClass where
  | req | vic | fwd | rsp | dat
  deriving DecidableEq, Repr, Inhabited

/-- The back-invalidation snoops of CXL (R238 BIS). -/
inductive BisKind where
  | cur | data | inv
  deriving DecidableEq, Repr, Inhabited

/-- The state a DAT grants (R238). -/
inductive Grant where
  | none | S | E | M | hostI | hostS | hostA
  deriving DecidableEq, Repr, Inhabited

/-- Who made a request inside its source, so that the answer finds it. -/
inductive ReqTag where
  | none | miss | write (tag : Nat) | vic | dma (q : BitVec 5) (n : Nat) | host (i : Nat) | agent
  deriving DecidableEq, Repr, Inhabited

/-- A coherence message (R238). -/
structure Msg where
  kind : MsgKind
  src : Agent
  dst : Agent
  line : Nat
  ctx : Ctx
  cls : BitVec 4
  stream : Bool
  u : Bool
  k : Bool
  mask : Mask
  data : Line
  poison : Bool
  grant : Grant
  flag : Bool
  hst : HostState
  bis : BisKind
  red : RedOp
  off : Nat
  req : Agent
  tag : ReqTag
  orig : MsgKind
  deriving DecidableEq, Repr, Inhabited

/-- Directory cluster state (R232 CST). -/
inductive Cst where
  | N | S | X
  deriving DecidableEq, Repr, Inhabited

/-- A directory entry (R232). -/
structure DirEntry where
  cst : Cst
  hst : HostState
  used : Bool
  line : Nat
  sharers : BitVec 64
  deriving DecidableEq, Repr, Inhabited

/-- The phase a home transaction is in. -/
inductive Phase where
  | recall | snoop | expand | nmu | ack
  deriving DecidableEq, Repr, Inhabited

/-- A running home transaction (R228): its request and the responses it awaits. -/
structure Txn where
  line : Nat
  req : Msg
  entry : Bool
  phase : Phase
  old : Option Nat
  way : Option Nat
  wait : List (BitVec 6)
  bis : Option BisKind
  bisNew : HostState
  fdtWait : List (BitVec 6)
  fdtGot : List (BitVec 6)
  vcd : List (BitVec 6)
  npr : List (BitVec 6)
  sent : Bool
  fwdTs : Stamp
  scan : Bool
  deriving DecidableEq, Repr, Inhabited

/-- A queued request and whether it took a shared entry (R241, R242). -/
structure QEntry where
  msg : Msg
  shared : Bool
  deriving DecidableEq, Repr, Inhabited

/-- One home slice (R228, R241). -/
structure HomeSt where
  /-- Request queue, arrival order, 216 entries (R241); reset empty. -/
  queue : List QEntry
  /-- Transaction table (R241); reset empty. -/
  txns : List Txn
  /-- VIC messages waiting behind a busy line, arrival order (R230); reset empty. -/
  vic : List Msg
  /-- Retry order, oldest first (R242); reset empty. -/
  retry : List Agent
  /-- Entries held for a requester that was sent CRG, and whether shared (R242); reset empty. -/
  granted : List (Agent × Bool)
  /-- Clusters whose reclaim scan is not complete, with whether owned lines are poisoned (R256, R257); reset empty. -/
  reclaim : List (BitVec 6 × Bool)
  /-- Host-agent reclaim scan pending (R258); reset false. -/
  hostReclaim : Bool
  deriving DecidableEq, Repr, Inhabited

/-- One way of a base-cache slice (R199, R200). -/
structure BccWay where
  line : Nat
  dirty : Bool
  age : Nat
  data : Line
  poison : Bool
  deriving DecidableEq, Repr, Inhabited

/-- A range-maintenance engine's operation (R217). -/
inductive RmOp where
  | clean | invalidate | cleanInvalidate
  deriving DecidableEq, Repr, Inhabited

/-- A range-maintenance engine that runs: the snapshot of its command (R219), the lines it has yet to pass once it has
begun, and those whose write it awaits (R218). -/
structure RmRun where
  op : RmOp
  addr : Nat
  len : Nat
  todo : Option (List Nat)
  wrote : List Nat
  deriving DecidableEq, Repr, Inhabited

/-- One decompressor's caches (R212). -/
structure DcxSt where
  /-- Cached PPT entries, by packed page (R212); reset empty. -/
  ppt : SMap (Option (BitVec 64))
  /-- Cached granule entries, by granule (R212); reset empty. -/
  gran : SMap (Option (BitVec 64))
  /-- Last 64 expanded granules, newest first: granule and its 64 lines (R212); reset empty. -/
  exp : List (Nat × List Line)
  deriving DecidableEq, Repr, Inhabited

/-- The memory of the complex and what the homes hold beside it (chapters 06 and 07). -/
structure MemSt where
  /-- Contents of the memory stacks by device physical address, bytes (R192); reset: nothing listed. -/
  cells : List Host.Cell
  /-- Lines whose stack copy carries the poison mark, rising (R516); reset empty DESIGN CHOICE (R221: unspecified). -/
  poison : List Nat
  /-- Base cache, by (slice × 4096 + set) × 16 + way (R199); reset empty (R221). -/
  bcc : SMap (Option BccWay)
  /-- Directory, by (slice × 4096 + set) × 16 + way; a valid entry only (R232, R233); reset empty (R221). -/
  dir : SMap (Option DirEntry)
  /-- Home slices, 0 to 255 (R194). -/
  homes : SMap HomeSt
  /-- Bias tables: bit d, in base die d's table the pages of decoder 0's range hold shared bias (R22, R249); reset 0. -/
  biasEarly : BitVec 2
  /-- Bias tables: pages set since, by die × 2^20 + 32 MiB page; 1 is shared (R249); reset empty. -/
  bias : SMap (Option Bool)
  /-- Pages in the flipping state, with the slices that have reported (R253); reset empty. -/
  flipping : List (Nat × List (BitVec 8))
  /-- Owner tables: owner tags, 20-bit, by die × 2^20 + PA[42:25] (R304); reset 0x0_0000 (R304). -/
  owner : SMap Ctx
  /-- Decompressors, 0 to 7, one per far stack (R212). -/
  dcx : SMap DcxSt
  /-- INVBUSY of DCX_CTRL, by base die (R211); reset false. -/
  dcxBusy : SMap Bool
  /-- Range-maintenance engines that run, by die × 64 + n (R217); reset none. -/
  rm : SMap (Option RmRun)
  /-- Tier mode of the near tier: 0 eight-way, 1 and 2 four-way on a die (R195); reset 0. -/
  nearMode : Nat
  /-- Tier mode of the far tier, 3 absent (R195); reset 0. -/
  farMode : Nat
  /-- Near stacks that passed training, bit n (R195, R405); reset all DESIGN CHOICE. -/
  nearGood : BitVec 8
  /-- Far stacks that passed training (R195, R405); reset all DESIGN CHOICE. -/
  farGood : BitVec 8
  /-- Thousandths of the present scrub pass done, and the next line of it, by die × 8 + stack (R222, R523); reset 0. -/
  scrub : SMap Nat
  /-- HOME_TP counts of the last Loupe sample, by die × 8 + stack (R225); reset 0. -/
  tpLast : SMap (BitVec 64)
  deriving DecidableEq, Repr, Inhabited

/-! ### Translation (chapter 09) -/

/-- The kind of a translated access (R300). -/
inductive Access where
  | read | write | rw | fetch
  deriving DecidableEq, Repr, Inhabited

/-- A translation request on its way to the translation block (R314). -/
structure XltReq where
  wt : Waiter
  ctx : Ctx
  va : Word
  acc : Access
  pf : Bool
  deriving DecidableEq, Repr, Inhabited

/-- A translation fault record (R312). -/
structure FaultRec where
  ctx : Ctx
  vpn : Nat
  cause : BitVec 16
  early : Bool
  ovt : Bool
  va : Word
  access : BitVec 8
  level : BitVec 8
  entry : BitVec 64
  first : Stamp
  last : Stamp
  count : BitVec 64
  waiters : List Waiter
  delivered : Bool
  inBatch : Bool
  resolved : Bool
  deriving DecidableEq, Repr, Inhabited

/-- The translation block. -/
structure XltSt where
  /-- Requests on their way to the block, arrival order (R321); reset empty. -/
  reqs : List XltReq
  /-- Walks in flight and waiting, arrival order; the first 32 run (R303); reset empty. -/
  walks : List XltReq
  /-- Requests stalled with a full overflow table (R318); reset empty. -/
  stalled : List XltReq
  /-- Open fault records, oldest first (R314 to R319); reset empty. -/
  recs : List FaultRec
  /-- The open batch: TS64 at which its first record opened, and whether it holds overflow records (R317, R318); reset none. -/
  batch : Option (Stamp × Bool)
  /-- Records of closed batches whose writes have not all received CMP (R317); reset 0. -/
  writing : Nat
  /-- Second-level TLBs, by die × 16384 + set × 16 + way, the two page sizes in one array (R302); reset empty. -/
  tlb2 : SMap (Option TlbEnt)
  /-- Engine TLB, 256 entries (R302); reset empty. -/
  engTlb : SMap (Option TlbEnt)
  /-- Walk cache, 512 entries by the address of the table entry (R302); reset empty. -/
  walkCache : List (Nat × BitVec 64 × Ctx)
  /-- A running invalidation: CONTEXT or RANGE with first page and page count, and its CTX (R310); reset none. -/
  inv : Option (Bool × Nat × Nat × Ctx)
  /-- Pages whose new translations are held by a migration (R324): CTX and page; reset empty. -/
  held : List (Ctx × Nat)
  deriving DecidableEq, Repr, Inhabited

/-! ### Dispatcher (chapter 10) -/

/-- What the dispatcher remembers of a taken command (R330, R333, R339). -/
structure Cmd where
  ring : BitVec 10
  ctx : Ctx
  idx : BitVec 32
  opc : BitVec 8
  wait : Bool
  tok : Bool
  norec : Bool
  token : BitVec 32
  tag : BitVec 64
  body : BitVec 256
  waitAddr : Word
  waitVal : Word
  step : Option (BitVec 16)
  deriving DecidableEq, Repr, Inhabited

/-- How far a held command has come to its start conditions (R330): its gate and when it was last read (R332), the pages it
names that are translated, by address and access, with the GEN they were translated under (R307, R308). -/
structure HeldCmd where
  cmd : Cmd
  gateMet : Bool
  gateTs : Stamp
  gateWait : Bool
  gen : BitVec 16
  pages : List ((Nat × Access) × Leaf)
  started : Bool
  deriving DecidableEq, Repr, Inhabited

/-- A work ring (R326, R328). -/
structure RingSt where
  /-- DSP_RING_ON bit (R328); reset false. -/
  on : Bool
  /-- DISABLE written: no command is taken (R328); reset false. -/
  closing : Bool
  /-- Ring base, LOG2SIZE, CTX, PRIO and event ring of the entry read at enable (R326); reset 0. -/
  base : Nat
  log2 : Nat
  ctx : Ctx
  prio : Nat
  ev : BitVec 8
  /-- RD: commands taken, 32-bit, wraps (R326); reset 0. -/
  rd : BitVec 32
  /-- The taken command that holds the ring (R330); reset none. -/
  held : Option HeldCmd
  /-- Started commands that have not completed: index, and the step each belongs to (R328, R336, R345); reset empty. -/
  active : List (BitVec 32 × Option (BitVec 16))
  /-- The step open on the ring (R343); reset none. -/
  step : Option (BitVec 16)
  /-- Largest visibility stamp of the ring's completed commands that wrote (R336); reset 0. -/
  maxStamp : Stamp
  /-- Posted paths those commands used (R336); reset 0. -/
  pathMask : BitVec 2
  /-- Some completed command wrote (R336); reset false. -/
  wrote : Bool
  deriving DecidableEq, Repr, Inhabited

/-- An event ring (R326, R329, R341). -/
structure EvSt where
  /-- Bound by an enabled work ring (R329); reset false. -/
  bound : Bool
  /-- The dispatcher's copy of the entry (R329); reset 0. -/
  base : Nat
  log2 : Nat
  /-- WR, 32-bit, wraps (R326); reset 0. -/
  wr : BitVec 32
  /-- Records that wait to be written, oldest first (R341); reset empty. -/
  recs : List Line
  deriving DecidableEq, Repr, Inhabited

/-- The phase of a launch (R43, R46, R64). -/
inductive LaunchPhase where
  | queued | prepare | running | halting
  deriving DecidableEq, Repr, Inhabited

/-- An open exception record of a launch (R66, R67); opened: TS64 at its opening, from which its 4 µs run. -/
structure ExcRec where
  opened : Stamp
  code : BitVec 8
  halt : Bool
  cl : BitVec 6
  pos : BitVec 8
  lidx : Nat
  pc : Word
  addr : Word
  word : Word
  first : Stamp
  last : Stamp
  cores : BitVec 64
  deriving DecidableEq, Repr, Inhabited

/-- A launch from its start by the dispatcher to its completion record (R41 to R46). -/
structure Launch where
  id : Nat
  cmd : Cmd
  mask : BitVec 64
  sel : Nat
  entry : Word
  arg : Word
  nowait : Bool
  lseq : BitVec 16
  phase : LaunchPhase
  status : BitVec 8
  cores : Nat
  recs : List ExcRec
  excWait : List (CoreId × Exc × Stamp)
  path : BitVec 2
  wrote : Bool
  deriving DecidableEq, Repr, Inhabited

/-- A DMA command that has started (R337): lines copied so far, a read below a posted path that it awaits and the line it
returned, its translated pages with their GEN (R307, R308). -/
structure Dma where
  id : Nat
  cmd : Cmd
  src : Word
  dst : Word
  lines : Nat
  next : Nat
  waiting : Bool
  buf : Option (Line × Bool)
  status : BitVec 8
  path : BitVec 2
  stream : Bool
  paused : Bool
  pages : List ((Nat × Access) × Leaf)
  gen : BitVec 16
  deriving DecidableEq, Repr, Inhabited

/-- A declared step that has not ended (R343 to R345). -/
structure Step where
  num : BitVec 16
  ring : BitVec 10
  reads : BitVec 64
  writes : BitVec 64
  started : Bool
  bad : BitVec 64
  deriving DecidableEq, Repr, Inhabited

/-- A context's energy slot and step state, its enabled rings and the ring enabled or closed last (R343, R348, R349). -/
structure CtxSt where
  energy : BitVec 64
  ovf : Bool
  rings : List (BitVec 10)
  last : BitVec 10
  nextStep : Option (BitVec 16)
  steps : List Step
  deriving DecidableEq, Repr, Inhabited

/-- A STEP_END or FENCE that has been taken: the commands it awaits (R345), and for a FENCE the stamp and the posted paths it
drains to and the SEQ of both drain status registers at its start, by which a LOSS during its wait shows (R336). -/
structure Marker where
  cmd : Cmd
  after : List (BitVec 32)
  drain : Bool
  stamp : Stamp
  path : BitVec 2
  seqs : BitVec 32
  deriving DecidableEq, Repr, Inhabited

/-- A BIAS, PREFETCH or ADVISE command that runs (R324, R338): the pages it has yet to do or awaits, those it skipped, and how
far it is with the first page: the phase of a migration, its destination, and the next line. -/
structure PageJob where
  cmd : Cmd
  pages : List Nat
  skipped : List Nat
  phase : Nat
  dest : Nat
  next : Nat
  deriving DecidableEq, Repr, Inhabited

/-- The dispatcher. -/
structure DspSt where
  /-- Work rings, 0 to 1,023 (R326). -/
  rings : SMap RingSt
  /-- Event rings, 0 to 255 (R326). -/
  evs : SMap EvSt
  /-- The ring number after which round robin goes on, by PRIO (R331); reset 0. -/
  rr : SMap Nat
  /-- Launches that have started and not completed (R43); reset empty. -/
  launches : List Launch
  /-- Identity of the next launch, the model's own; reset 0. -/
  nextId : Nat
  /-- The next launch sequence number, 16-bit, wraps (R43); reset 0 DESIGN CHOICE. -/
  nextSeq : BitVec 16
  /-- DMA queues, 0 to 31, oldest command first (R337); reset empty. -/
  dma : SMap (List Dma)
  /-- Energy slots and step state, by CTX; at most 256 (R349); reset empty. -/
  ctxs : SMap (Option CtxSt)
  /-- FENCE and STEP_END commands that have started and not completed (R336, R345); reset empty. -/
  markers : List Marker
  /-- BIAS, PREFETCH and ADVISE commands that run; reset empty. -/
  jobs : List PageJob
  /-- Collectives that run, by tree: the command (R381); reset none. -/
  colls : SMap (Option Cmd)
  deriving DecidableEq, Repr, Inhabited

/-! ### Fabric and Prism (chapter 11) -/

/-- State of a fabric port (R397 FAB_Pn_STATE). -/
inductive PortState where
  | off | training | up | failed
  deriving DecidableEq, Repr, Inhabited

/-- One fabric port (R351 to R356). -/
structure PortSt where
  /-- Port state (R397); reset off. -/
  st : PortState
  /-- Training since the port was enabled, not a retrain (R354); reset false. -/
  fresh : Bool
  /-- FSN of the next frame to send (R352); reset 0. -/
  txFsn : BitVec 16
  /-- Unacknowledged frames, oldest first, with the replays of each; at most 512 (R353); reset empty. -/
  unacked : List (BitVec 16 × Nat)
  /-- FSN of the last frame received good and in order (R352 ASN); reset 0xFFFF DESIGN CHOICE. -/
  rxFsn : BitVec 16
  /-- Waiting for a replay: later frames are discarded (R353); reset false. -/
  await : Bool
  /-- NAK to be sent with the next frame (R353); reset false. -/
  nak : Bool
  /-- Words of a packet that spans frames (R355); reset empty. -/
  part : List (BitVec 128)
  /-- Received packets not yet taken, oldest first, by class RSP, CTL, REQ (R355, R356); reset empty. -/
  rx : List Packet
  /-- Credits at the next hop: RSP, CTL and REQ in 64-byte units (R355); reset 0 (512, 128 and 1,536 when the port trains, PRESUMED from the receive buffers of R355). -/
  crRsp : Nat
  crCtl : Nat
  crReq : Nat
  /-- Retrains that failed in a row (R354); reset 0. -/
  fails : Nat
  deriving DecidableEq, Repr, Inhabited

/-- Who caused a packet, so that its answer finds it (R367). -/
inductive PktSrc where
  | store (c : CoreId) (tag : Nat)
  | load (c : CoreId)
  | lmv (c : CoreId) (i b : Nat)
  | dma (q : BitVec 5) (n : Nat)
  | dmaRead (q : BitVec 5) (n : Nat)
  | gate (r : BitVec 10)
  | prism (t : BitVec 6)
  deriving DecidableEq, Repr, Inhabited

/-- A sequenced packet that awaits its answer (R368, R373). -/
structure SentPkt where
  pkt : Packet
  port : BitVec 4
  first : Stamp
  last : Stamp
  nakTs : Option Stamp
  srcs : List PktSrc
  entry : Stamp
  deriving DecidableEq, Repr, Inhabited

/-- A write held for combining (R375). -/
structure Combine where
  pkt : Packet
  ts : Stamp
  srcs : List PktSrc
  deriving DecidableEq, Repr, Inhabited

/-- Receive-side state of a flow (R369), with the CTX of the packet performed last, which its ACK carries (R360). -/
structure RxFlow where
  src : BitVec 16
  flow : BitVec 16
  next : BitVec 16
  waiting : List Packet
  unacked : Nat
  last : Stamp
  ctx : Ctx
  deriving DecidableEq, Repr, Inhabited

/-- The fabric block. -/
structure FabSt where
  /-- Ports 0 to 11 (R351). -/
  ports : SMap PortSt
  /-- Next FSEQ by (destination, flow) (R368); reset 0. -/
  fseq : List ((BitVec 16 × BitVec 16) × BitVec 16)
  /-- Sequenced packets awaiting answers, oldest first: the retransmit copies of R372; reset empty. -/
  sent : List SentPkt
  /-- Writes held for combining (R375); reset empty. -/
  comb : List Combine
  /-- Receive flow table, at most 16,384 entries (R369); reset empty. -/
  flows : List RxFlow
  /-- Dead list, oldest first, at most 256 (R374); reset empty. -/
  dead : List (BitVec 16)
  /-- Cached rank-table entries (R362, R364); reset empty. -/
  rankTab : SMap (Option (BitVec 32))
  /-- Cached route-table entries (R363, R364); reset empty. -/
  routeTab : SMap (Option (BitVec 16))
  /-- Packets sent, newest last, with their port: the outside of the fabric; reset empty. -/
  tx : List (BitVec 4 × Packet)
  /-- Locked (R377 LOCK); reset false. -/
  lock : Bool
  /-- Exchanges in a row with an offset within 2 ns (R377); reset 0. -/
  good : Nat
  /-- Last measured offset in ps, signed (R397 OFS); reset 0. -/
  ofs : Int
  /-- TS64 of the last answered exchange (R377); reset 0. -/
  tsyTs : Stamp
  /-- Drained-to stamp D of the path as last given, so that it never decreases (R288); reset 0. -/
  drained : Stamp
  deriving DecidableEq, Repr, Inhabited

/-- A chunk of a collective: its number, its lines, and whether it is poisoned (R385). -/
abbrev Chunk := Nat × List Line × Bool

/-- A child of a tree node in a running collective: rank, member index, HI (R379); whether live, whether READY and DONE have
come; the next chunk the root sends it and the chunks that wait for it (R385); its contributions (R386); the entries of a DONE
of which more follows (R389); the last packet from and to it (R388). -/
structure Child where
  rank : BitVec 16
  idx : BitVec 16
  hi : BitVec 16
  live : Bool
  ready : Bool
  done : Bool
  adopted : Bool
  next : Nat
  sendq : List Chunk
  chunks : List Chunk
  part : List (BitVec 16 × BitVec 16)
  partLost : List (BitVec 16 × BitVec 16)
  lastRx : Stamp
  lastTx : Stamp
  deriving DecidableEq, Repr, Inhabited

/-- A collective that runs on a tree (R381 to R392). -/
structure Coll where
  /-- SEQ (R382). -/
  seq : BitVec 32
  src : Word
  dst : Word
  /-- LENGTH in lines (R381). -/
  len : Nat
  op : Nat
  dtype : Nat
  rop : Nat
  unreach : Word
  /-- Translated pages and their GEN; paused by an invalidation (R307, R308). -/
  pages : List ((Nat × Access) × Leaf)
  gen : BitVec 16
  paused : Bool
  kids : List Child
  /-- The parent it has now, and what it knows of it (R383, R388, R390). -/
  parentRank : BitVec 16
  parentReady : Bool
  parentLost : Bool
  joining : Option Stamp
  joined : Bool
  parentRx : Stamp
  parentTx : Stamp
  /-- Chunks that have arrived and are not yet written (R385). -/
  inq : List Chunk
  /-- Chunks written to DST (R385). -/
  wrote : List Nat
  /-- The next chunk of the reduction phase (R386). -/
  upNext : Nat
  /-- Lines of SRC asked for across a posted path, and those that have come. -/
  got : List (Nat × Option (Line × Bool))
  /-- Result chunks that the root of an ALLREDUCE holds (R386). -/
  result : List Chunk
  /-- Covered ranges and lost entries (R389, R392). -/
  covered : List (BitVec 16 × BitVec 16)
  lost : List (BitVec 16 × BitVec 16)
  sentDone : Bool
  /-- An ADOPT that no reissue has covered, and when the first one came (R391). -/
  adopts : Option Stamp
  reissuing : Bool
  /-- The latest DONE, ADOPT or lost entry at the root (R392). -/
  eventTs : Stamp
  /-- The unreached count and the bitmap's halves, as the SUMMARY parts bring them (R392). -/
  summary : Option Nat
  bitLo : Option (List Line)
  bitHi : Option (List Line)
  deriving DecidableEq, Repr, Inhabited

/-- A loaded tree (R379): children as rank, member index and HI; the neighbours whose READY for the next SEQ has come. -/
structure Tree where
  own : BitVec 16
  hi : BitVec 16
  n : Nat
  root : Bool
  parent : BitVec 16
  alt : BitVec 16
  ctx : Ctx
  members : Nat
  kids : List (BitVec 16 × BitVec 16 × BitVec 16)
  seq : BitVec 32
  early : List (BitVec 16)
  coll : Option Coll
  deriving DecidableEq, Repr, Inhabited

/-- The Prism block. -/
structure PrzSt where
  /-- Trees 0 to 63 (R379); reset not loaded. -/
  trees : SMap (Option Tree)
  /-- Control packets that wait to be sent, with their tree, oldest first; reset empty. -/
  out : List (BitVec 6 × Packet)
  deriving DecidableEq, Repr, Inhabited

/-! ### Host port (chapter 12) -/

/-- Host link state (R423 STATE). -/
inductive LinkState where
  | down | training | l0 | retrain | l0s | l1 | held
  deriving DecidableEq, Repr, Inhabited

/-- Device power states (R418). -/
inductive DState where
  | d0 | d3hot | d3cold
  deriving DecidableEq, Repr, Inhabited

/-- An HDM decoder (R408). -/
structure Hdm where
  base : Nat
  size : Nat
  skip : Nat
  dpa : Nat
  ways : BitVec 4
  committed : Bool
  err : Bool
  locked : Bool
  deriving DecidableEq, Repr, Inhabited

/-- A message or completion that the host port has sent to the host. -/
inductive HostMsg where
  | drs (hpa : BitVec 64) (data : Line) (poison : Bool) (st : HostState)
  | cmp (hpa : BitVec 64) (st : HostState)
  | bisnp (hpa : BitVec 64) (k : BisKind)
  | biConflictAck (hpa : BitVec 64)
  | rspIHitI (hpa : BitVec 64)
  | cpl (st : CplStatus) (data : List Byte) (poison : Bool)
  | assertInta | deassertInta | pmPme
  | rdCurr (hpa : BitVec 64) | wrCur (hpa : BitVec 64) (data : Line) (poison : Bool)
  | memRd (hpa : BitVec 64) (len : Nat) | memWr (hpa : BitVec 64) (data : Line) (poison : Bool)
  deriving DecidableEq, Repr, Inhabited

/-- A host request the port has sent to a home (R410); lost: the link went away since, and its response is discarded (R421). -/
structure HostReq where
  id : Nat
  hpa : BitVec 64
  line : Nat
  read : Bool
  lost : Bool
  deriving DecidableEq, Repr, Inhabited

/-- A BISnp outstanding on the port (R411, R420). -/
structure BisOut where
  line : Nat
  hpa : BitVec 64
  kind : BisKind
  ts : Stamp
  hdt : Bool
  deriving DecidableEq, Repr, Inhabited

/-- A host-window transfer (R412). -/
structure Hwin where
  toDev : Bool
  coh : Bool
  hpa : Nat
  dpa : Nat
  lines : Nat
  got : List (Nat × Line × Bool)
  acks : List Nat
  ts : Stamp
  deriving DecidableEq, Repr, Inhabited

/-- The host port. -/
structure HptSt where
  /-- Link state (R423); reset down. -/
  link : LinkState
  /-- Working modules, bit m (R400); reset 0. -/
  good : BitVec 8
  /-- Modules in use: 0, 2, 4 or 8 (R400); reset 0. -/
  width : BitVec 4
  /-- PCIe Command register bits the port uses: Memory Space Enable, Bus Master Enable, Interrupt Disable (R401, R417); reset 0 PRESUMED (PCI). -/
  command : BitVec 16
  /-- Device Control, Link Control (ASPM Control) and PMCSR words by configuration dword (R401, R418, R419); reset 0 PRESUMED (PCI). -/
  cfg : SMap (BitVec 32)
  /-- AER status bits (R415): Unsupported Request, Poisoned TLP, Malformed TLP; reset 0 PRESUMED (PCI). -/
  aer : BitVec 32
  /-- BAR2 size exponent over 1 GiB (R402); reset 0 (R402). -/
  bar2 : Nat
  /-- HDM decoders 0 to 3 (R408, R409); reset uncommitted. -/
  hdm : SMap Hdm
  /-- Requests at homes (R413); reset empty. -/
  reqs : List HostReq
  /-- Identity of the next host request, the model's own; reset 0. -/
  nextReq : Nat
  /-- BISnp outstanding (R413: at most 512); reset empty. -/
  bis : List BisOut
  /-- BIConflicts that await earlier responses: address and the requests (R411); reset empty. -/
  conflicts : List (BitVec 64 × List Nat)
  /-- Assert_INTA sent and not Deassert_INTA (R417); reset false. -/
  inta : Bool
  /-- TS64 of the last Deassert_INTA (R417); reset none. -/
  deassertTs : Option Stamp
  /-- Device state (R418); reset D0. -/
  dstate : DState
  /-- PME_Status (R418); reset false. -/
  pme : Bool
  /-- TS64 at which the host-loss timer started (R421); reset none. -/
  lossTs : Option Stamp
  /-- The host agent is declared dead and its reclaim runs (R258, R422); reset false. -/
  dead : Bool
  /-- TS64 at which the running retrain began (R420); reset none. -/
  retrainTs : Option Stamp
  /-- Running host-window transfer (R412); reset none. -/
  hwin : Option Hwin
  /-- Pages of a running HPT_BIAS_CMD (R414); reset none. -/
  biasJob : Option (List Nat)
  /-- Messages sent to the host, oldest first; reset empty. -/
  out : List HostMsg
  deriving DecidableEq, Repr, Inhabited

/-! ### Service port and aperture (chapter 13) -/

/-- A message that the service port has sent below. -/
inductive SvpMsg where
  | memWr (bus : Nat) (mask : Mask) (data : Line)
  | memRd (id : Nat) (bus : Nat)
  | flushRd (id : Nat)
  | cfgRd (a : BitVec 32) | cfgWr (a : BitVec 32) (v : BitVec 32)
  | cpl (st : CplStatus) (data : List Byte) (poison : Bool)
  deriving DecidableEq, Repr, Inhabited

/-- A posted write or a read outstanding below the port (R288, R429). -/
structure SvpReq where
  id : Nat
  read : Bool
  flush : Bool
  bus : Nat
  ctx : Ctx
  ts : Stamp
  src : Option PktSrc
  deriving DecidableEq, Repr, Inhabited

/-- The service port and the slot. -/
structure SvpSt where
  /-- Filtered presence (R427); reset false. -/
  present : Bool
  /-- Link in L0 or L1 (R435); reset false. -/
  up : Bool
  width : BitVec 4
  speed : BitVec 4
  /-- TS64 at which the link left L0 outside an orderly removal (R429); reset none. -/
  downTs : Option Stamp
  /-- Slot power good (R524 SVP_PWRGD); reset false. -/
  pwrGood : Bool
  /-- TS64 at which the slot was powered on and power-good is awaited (R427); reset none. -/
  pwrTs : Option Stamp
  /-- TS64 of power good, for SVP_PERST_N (R524); reset none. -/
  goodTs : Option Stamp
  /-- SVP_PERST_N is low: slot devices in reset (R524); reset true DESIGN CHOICE. -/
  perst : Bool
  /-- Removed by surprise: writes drop until the link next reaches L0 (R428); reset false. -/
  removed : Bool
  /-- The destination is declared dead (R429); reset false. -/
  dead : Bool
  /-- A hot insertion has happened since the declaration (R429); reset false. -/
  inserted : Bool
  /-- INTA to INTD levels (R430); reset 0. -/
  intx : BitVec 4
  /-- A configuration request runs (R426 CFGBUSY), read or write; reset none. -/
  cfg : Option Bool
  /-- Writes and reads outstanding below the port, oldest first (R288); reset empty. -/
  reqs : List SvpReq
  /-- Identity of the next request, the model's own; reset 0. -/
  nextReq : Nat
  /-- Drained-to stamp D as last given (R288); reset 0. -/
  drained : Stamp
  /-- Requests and completions sent below, oldest first; reset empty. -/
  out : List SvpMsg
  /-- Window generations, 16-bit, by window (R433); reset 0. -/
  gen : SMap (BitVec 16)
  deriving DecidableEq, Repr, Inhabited

/-! ### Power, faults, die links, bring-up (chapters 15 to 18) -/

/-- Proofing engaged on a compute die (R487, R488). -/
structure Proof where
  level : Nat
  ts : Stamp
  deriving DecidableEq, Repr, Inhabited

/-- The power manager. -/
structure PwrSt where
  /-- Voltage step of the rail of compute die 0 to 3 (R482); reset 0. -/
  rail : SMap Nat
  /-- Rail target of a rise in progress and TS64 at which it began (R482); reset none. -/
  railTo : SMap (Option (Nat × Stamp))
  /-- Steps granted to clusters and waiting for rail or droop, by cluster (R482, R492); reset none. -/
  want : SMap (Option Nat)
  /-- Proofing, by compute die (R487); reset none. -/
  proof : SMap (Option Proof)
  /-- Contexts with a launch running on a compute die when proofing last engaged, and the die's clusters that each holds
  (R490); reset empty. -/
  proofCtx : SMap (List (Ctx × Nat))
  /-- Modelled current, mean over 10 µs and fall in mA over 1 µs, by compute die (R485, R487); reset 0. -/
  cur : SMap (Nat × Nat × Nat)
  /-- Gain of each rail, less 1 (R485); reset 0 DESIGN CHOICE. -/
  gain : SMap Rat
  /-- TS64 of the last accepted telemetry reading, by rail (R485); reset none. -/
  telTs : SMap (Option Stamp)
  /-- The model counts as calibrated (R485, R486); reset false. -/
  calibrated : Bool
  /-- Rails accepted since the model became uncalibrated (R486); reset empty. -/
  telOk : List Nat
  /-- Payload-rate cap of each fabric port in eighths (R477); reset 8 of 8. -/
  portCap : SMap Nat
  /-- Access-rate cap of each stack controller in sixteenths, by tier × 8 + stack (R477); reset 16 of 16. -/
  stackCap : SMap Nat
  /-- Base-die sensors that cap their die's stacks at half, by die × 16 + sensor (R471, R493); reset none. -/
  baseHot : SMap Bool
  /-- Flow pulse frequency is below MIN: the 1,600 W limit holds (R495); reset false. -/
  flowLow : Bool
  /-- VR_ALERT_N asserted (R496); reset false. -/
  alert : Bool
  /-- The alert forces the lowest step and the rate floors (R496); reset false. -/
  forced : Bool
  /-- Normal service: firmware has set FWCTL since cold reset (R495); reset false. -/
  service : Bool
  /-- Coolant flow OK, filtered (R495); reset false DESIGN CHOICE. -/
  coolant : Bool
  /-- Package input below 40.0 V, always-on rail below 0.72 V (R497); reset false. -/
  sagIn : Bool
  sagAon : Bool
  deriving DecidableEq, Repr, Inhabited

/-- A counting window of a source instance (R506). -/
structure Window where
  src : BitVec 16
  ts : Stamp
  count : Nat
  deriving DecidableEq, Repr, Inhabited

/-- A crumb (R512). -/
structure Crumb where
  cseq : BitVec 16
  src : BitVec 16
  kind : BitVec 5
  cls : BitVec 3
  ctx : Ctx
  count : BitVec 32
  addr : BitVec 64
  ts : Stamp
  deriving DecidableEq, Repr, Inhabited

/-- The fault collector. -/
structure FclSt where
  /-- Open counting windows (R506); reset empty. -/
  windows : List Window
  /-- Promoted instances (R506); reset empty. -/
  promoted : List (BitVec 16)
  /-- Crumb queue, 32 entries by CSEQ mod 32 (R512); kept through cold reset. -/
  crumbs : SMap (Option Crumb)
  /-- CSEQ of the newest crumb, 16-bit (R522 NEWEST); kept through cold reset; 0 at power-on. -/
  newest : BitVec 16
  /-- A crumb has been written since power-on (R522 ANY); reset false. -/
  any : Bool
  /-- First-error record: source ID, class, CTX, address, stamp (R511); kept through cold reset. -/
  firstSrc : BitVec 16
  firstCls : BitVec 3
  firstCtx : Ctx
  firstAddr : BitVec 64
  firstTs : Stamp
  /-- The complex is in the safe state (R510); reset false. -/
  safe : Bool
  /-- An event whose reactions force the safe state has been taken and the entry is under way: its source and class (R510); reset none. -/
  safeSrc : Option (BitVec 16 × BitVec 3)
  /-- Sources whose mirror pair shows a wire fault (R503); reset empty. -/
  broken : List (BitVec 16)
  /-- Reports that stand behind a broken pair (R503); reset empty. -/
  behind : List Report
  deriving DecidableEq, Repr, Inhabited

/-- State of a die link (R472). -/
inductive D2dState where
  | down | training | up | held
  deriving DecidableEq, Repr, Inhabited

/-- One end of a die link: its link layer (R459 to R461). -/
structure LinkEnd where
  /-- Count of the last flit accepted and of the last sent (R459, R461); reset 0. -/
  rxCount : BitVec 16
  txCount : BitVec 16
  /-- Counts of the flits in the replay buffer, oldest first, at most 128 (R461); reset empty. -/
  replay : List (BitVec 16)
  /-- Replays of the oldest flit (R461); reset 0. -/
  replays : Nat
  /-- Discarding until the replay (R461); reset false. -/
  await : Bool
  /-- Flits accepted since the last ACK (R461); reset 0. -/
  sinceAck : Nat
  /-- Credits held by channel, less those that R460 gives at first; reset 0. -/
  credits : SMap Int
  /-- CTL flits sent, oldest first: whether a NAK, and the count of the last flit accepted (R461); reset empty. -/
  out : List (Bool × BitVec 16)
  /-- Test mode (R470); reset 0. -/
  test : BitVec 2
  deriving DecidableEq, Repr, Inhabited

/-- One die link, both ends (R457 to R473). -/
structure LinkSt where
  /-- Link state (R472); reset down. -/
  st : D2dState
  /-- Width W in bundles (R458); reset 0. -/
  width : Nat
  /-- Good lanes of the map in force, 18 bits a bundle, down and up (R458, R465); reset empty. -/
  down : List (BitVec 18)
  up : List (BitVec 18)
  /-- Map check of the near end and the last one received (R472); reset 0. -/
  near : BitVec 16
  far : BitVec 16
  /-- Attempt running, 0 outside a handshake (R464); reset 0. -/
  attempt : Nat
  /-- Bundles unusable for the rest of the handshake (R464); reset empty. -/
  skip : List Nat
  /-- The end at the IOD, of link 2 at MBD0, and the other end. -/
  a : LinkEnd
  b : LinkEnd
  /-- TS64 at which the link left up (R463); reset none. -/
  downTs : Option Stamp
  deriving DecidableEq, Repr, Inhabited

/-- The calibration store interface (R536 to R539). -/
structure CalSt where
  /-- Slots 0 to 7: contents by word, for slots whose CRC passes (R536); kept through cold reset. -/
  slots : SMap (Option (SMap (BitVec 32)))
  /-- The set in force, loaded at boot step 0x04; none: built-in defaults (R537); reset none. -/
  force : Option (SMap (BitVec 32))
  /-- Committed slot (R539 SLOT); reset 0. -/
  slot : BitVec 3
  /-- Staging buffer by word (R538); reset 0 DESIGN CHOICE. -/
  staging : SMap (BitVec 32)
  /-- Command running: COMMIT true, RELOAD false (R538 BUSY); reset none. -/
  busy : Option Bool
  /-- COMMIT waiting for an erase (R538); reset false. -/
  waiting : Bool
  /-- Slot whose erase runs (R538 ERASING); reset none. -/
  erasing : Option (BitVec 3)
  /-- Built-in defaults in force (R537); reset false. -/
  defaults : Bool
  deriving DecidableEq, Repr, Inhabited

/-- Boot, resets and the management core (chapter 18). -/
structure BootSt where
  /-- Step code of R532; reset 0. -/
  step : Nat
  /-- The boot stopped at that step (R532); reset false. -/
  stopped : Bool
  /-- Image in use: 0 A, 1 B, 2 recovery, 3 none (R540); reset 0. -/
  image : BitVec 2
  /-- The I3C target answers: from the end of boot step 0x02 (R535); reset false. -/
  i3cUp : Bool
  /-- The management core is in its boot ROM and starts an image it accepts (R533, R541); reset false. -/
  rom : Bool
  /-- Image being verified: false A, true B (R533); reset false. -/
  trying : Bool
  /-- TEST_EN as sampled (R530); reset false. -/
  testEn : Bool
  /-- HOST_REL level (R524); reset false. -/
  hostRel : Bool
  /-- Cold reset held: PKG_RESET_N or its equivalent low (R528); reset true. -/
  inReset : Bool
  /-- THERM_TRIP_N driven low (R494); reset false. -/
  trip : Bool
  /-- WAKE_N driven low (R418); reset false. -/
  wakeN : Bool
  /-- GCTL_RST_CAUSE CAUSE (R540); reset 0. -/
  cause : BitVec 3
  /-- TBS_START: TS64 at the rise of PKG_RESET_N (R527); reset 0. -/
  start : Stamp
  /-- TS64 at which the running boot step began; reset 0. -/
  stepTs : Stamp
  /-- TS64 that a base die's repeater loaded at the last mark, by base die (R462); reset 0. -/
  marks : SMap Stamp
  /-- References lost: 25 MHz crystal, 100 MHz (R524, R526); reset false. -/
  refLost : Bool
  phyLost : Bool
  /-- Watchdog count in slow cycles (R541); reset 0. -/
  wdog : Nat
  /-- Minimum security version in fuses (R533); reset 0 DESIGN CHOICE. -/
  minVer : Nat
  /-- Dies without power or held in reset, by die of R504 (R442); reset none. -/
  offDie : List Nat
  deriving DecidableEq, Repr, Inhabited

/-- A G1 sequence or a G2 lock of one agent (R446, R447). -/
structure Guard where
  g1 : Option (Nat × BitVec 32 × Stamp)
  open_ : Option Stamp
  deriving DecidableEq, Repr, Inhabited

/-- Three copies of a field (R449). -/
structure Tri (α : Type) where
  a : α
  b : α
  c : α
  deriving DecidableEq, Repr, Inhabited

/-- The guard state of the four register agents (R446, R447). -/
structure GuardSt where
  host : Guard
  mgc : Guard
  test : Guard
  i3c : Guard
  deriving DecidableEq, Repr, Inhabited

/-- Registers and their guards (chapter 14). -/
structure RegSt where
  /-- Values in force by BAR0 offset; an absent offset holds the reset value of its table. -/
  val : SMap (Option (BitVec 32))
  /-- Pending values of RWP fields, written before the last strobe write (R443, R445); reset none. -/
  pend : SMap (Option (BitVec 32))
  /-- Pending values that arrived after the strobe write (R445); reset none. -/
  late : SMap (Option (BitVec 32))
  /-- Counters, 64-bit, by the BAR0 offset of their low word (R451); reset 0. -/
  cnt : SMap (BitVec 64)
  /-- Strobes written and not yet applied, by the edge they will be applied at (R444; GCTL_PEND is their union); reset none. -/
  strobes : List (BitVec 16)
  /-- G1 sequences and G2 locks of each agent, three copies (R446, R447, R449); reset closed. -/
  guard : Tri GuardSt
  /-- FCL_SAFE_EN, power limits and APW_WIN_EN in force, three copies each (R449). -/
  safeEn : Tri (BitVec 32)
  limSust : Tri (BitVec 32)
  limPeak : Tri (BitVec 32)
  winEn : Tri (BitVec 32)
  /-- 64-bit shadows, by agent and BAR0 offset of the low word (R450); reset 0. -/
  shadow : List ((RegAgent × Nat) × BitVec 32)
  /-- I3C read offset of the last 4-byte private write (R535); reset none. -/
  i3cOff : Option (BitVec 32)
  /-- Data of the last register reads, newest first: agent, offset, value; reset empty. -/
  reads : List (RegAgent × Nat × BitVec 32)
  deriving DecidableEq, Repr, Inhabited

/-- Fuses: bin, enable masks, fused maximum clocks, stepping (R4, R8). -/
structure FuseSt where
  /-- Bin: false ZT4-C10240, true ZT4-C9600 (R4); DESIGN CHOICE false. -/
  small : Bool
  /-- Fused-off positions of each cluster, bit n for position n (R4, R30); DESIGN CHOICE none. -/
  off : SMap (BitVec 160)
  /-- Fused maximum clock of a core in MHz over 2,400, by cluster × 256 + position (R8); DESIGN CHOICE 300 (2,700 MHz). -/
  fmax : SMap (Option Nat)
  /-- Stepping, 16-bit (R401, R404); DESIGN CHOICE 0. -/
  stepping : BitVec 16
  deriving DecidableEq, Repr, Inhabited

/-- How TS64 runs (R377, R525). -/
inductive TsRate where
  | nominal | ppm (p : Int) | half
  deriving DecidableEq, Repr, Inhabited

/-! ### The machine -/

/-- The state of the complex. -/
structure State where
  /-- The commands that are waiting, first in, first out; reset empty. -/
  pending : List Instr
  /-- TS64, 64-bit, 250 ps ticks (R11, R525); 0 at the first lock of the always-on PLL. -/
  ts : Stamp
  /-- Sub-tick remainder of the rate correction, in millionths of a tick (R377); reset 0. -/
  tsFrac : Nat
  /-- Rate of TS64 (R377); reset nominal. -/
  tsRate : TsRate
  /-- The always-on PLL has locked (R525); reset false. -/
  aonUp : Bool
  /-- Draws made from the free values: the model's own counter; reset 0 DESIGN CHOICE. -/
  free : Nat
  /-- Fuses (R4, R8). -/
  fuse : FuseSt
  /-- Registers (chapter 14). -/
  regs : RegSt
  /-- Memory, directory, homes (chapters 06, 07). -/
  mem : MemSt
  /-- Coherence messages in flight, oldest first (R231); reset empty. -/
  net : List Msg
  /-- Requests answered RTY that their requesters hold until CRG, in age order (R242); reset empty. -/
  retried : List Msg
  /-- Lines whose host copy a home has snooped for a non-caching agent that has yet to take the line, the model's own (R245); reset
  empty. -/
  snooped : List (Agent × Nat)
  /-- Clusters 0 to 63 (R34). -/
  clus : SMap ClusterSt
  /-- Cores, by cluster × 256 + position (R30). -/
  cores : SMap CoreSt
  /-- Identity of the next outstanding write, the model's own; reset 0. -/
  nextTag : Nat
  /-- Translation block (chapter 09). -/
  xlt : XltSt
  /-- Dispatcher (chapter 10). -/
  dsp : DspSt
  /-- Fabric ports (chapter 11). -/
  fab : FabSt
  /-- Prism (chapter 11). -/
  prz : PrzSt
  /-- Host port (chapter 12). -/
  hpt : HptSt
  /-- Service port and aperture windows (chapter 13). -/
  svp : SvpSt
  /-- Power manager (chapter 16). -/
  pwr : PwrSt
  /-- Fault collector (chapter 17). -/
  fcl : FclSt
  /-- Die links 0 to 2 (chapter 15). -/
  d2d : SMap LinkSt
  /-- Calibration store (chapter 18). -/
  cal : CalSt
  /-- Boot and resets (chapter 18). -/
  boot : BootSt
  deriving DecidableEq, Repr, Inhabited

/-- Why the machine stops with a fault. -/
inductive Fault where
  /-- Raised by FEX and FRC at a line the cluster holds in S or UP (R247), and by a VCD from a cluster that is not the
  owner (R246): the spec calls these rows not possible and gives them no effect. Safe: no state that keeps the directory
  invariant reaches them. -/
  | notPossible
  deriving DecidableEq, Repr

/-- Why the machine refuses a command. -/
inductive Refusal where
  /-- Raised by the dispatch for a command that has no meaning yet. Safe. -/
  | notModelled (mnemonic : String)
  deriving DecidableEq, Repr

/-- The state after reset: power has just been applied, the always-on PLL has not locked, the complex is held in cold
reset (R524, R525, R528); every register reads the reset value of its table. -/
def State.reset : State :=
  let d : State := default
  { d with
    boot := { d.boot with inReset := true }
    regs := { d.regs with
      safeEn := ⟨0x10, 0x10, 0x10⟩
      limSust := ⟨2400, 2400, 2400⟩
      limPeak := ⟨3000, 3000, 3000⟩ }
    mem := { d.mem with nearGood := 0xFF, farGood := 0xFF }
    svp := { d.svp with perst := true } }

end Sys2Proof.Machine
end

