-- ==== Sys2Proof/Machine/Ops.lean ====
section
/-! DEFINITION. The named operations over the state: sparse tables, memory as a canonical byte list, lines, the device
physical address map (R192 to R195), and the accessors of cores, clusters, homes and blocks. -/

namespace Sys2Proof.Machine

/-! ### Sparse tables -/

/-- The entry of a key, or the given value where the table has none. -/
def mgetD {β : Type} (d : β) : SMap β → Nat → β
  | [], _ => d
  | (j, v) :: t, k => if j = k then v else mgetD d t k

/-- The entry of a key; an absent key reads as the default. -/
def mget {β : Type} [Inhabited β] (m : SMap β) (k : Nat) : β := mgetD default m k

/-- The table with one entry written; keys stay in rising order. -/
def mset {β : Type} : SMap β → Nat → β → SMap β
  | [], k, v => [(k, v)]
  | (j, w) :: t, k, v =>
    if k < j then (k, v) :: (j, w) :: t
    else if j = k then (k, v) :: t
    else (j, w) :: mset t k v

/-- The table with one entry changed by a function. -/
def mmod {β : Type} [Inhabited β] (m : SMap β) (k : Nat) (f : β → β) : SMap β := mset m k (f (mget m k))

/-- Replace every entry by its image. -/
def mmap {β : Type} (m : SMap β) (f : Nat → β → β) : SMap β := m.map fun e => (e.1, f e.1 e.2)

/-- Insert a number into a rising list without repeats. -/
def insertNat (l : List Nat) (n : Nat) : List Nat :=
  match l with
  | [] => [n]
  | x :: t => if n < x then n :: x :: t else if n = x then x :: t else x :: insertNat t n

/-- The element at a position replaced. -/
def setAt {β : Type} (l : List β) (i : Nat) (v : β) : List β := l.set i v

/-- The first element that satisfies p, with the list without it. -/
def takeFirst {β : Type} (p : β → Bool) : List β → Option (β × List β)
  | [] => none
  | x :: t => if p x then some (x, t) else
    match takeFirst p t with
    | some (y, r) => some (y, x :: r)
    | none => none

/-- Apply a function to the first element that satisfies p. -/
def modFirst {β : Type} (p : β → Bool) (f : β → β) : List β → List β
  | [] => []
  | x :: t => if p x then f x :: t else x :: modFirst p f t

/-- Insert an element before the first one that it does not exceed. -/
def insertBy {β : Type} (le : β → β → Bool) (x : β) : List β → List β
  | [] => [x]
  | y :: t => if le x y then x :: y :: t else y :: insertBy le x t

/-- A list in order, equal elements in their first order. -/
def sortBy {β : Type} (le : β → β → Bool) (l : List β) : List β := l.foldr (insertBy le) []

/-! ### Memory as bytes -/

/-- The value of one byte; an address that no cell lists reads 0 (log entry 1). -/
def rdByte (m : List Host.Cell) (a : Nat) : Byte := mgetD 0 m a

/-- Write one byte, keeping the canonical form: a 0 removes the cell. -/
def wrByte : List Host.Cell → Nat → Byte → List Host.Cell
  | [], a, b => if b = 0 then [] else [(a, b)]
  | (j, c) :: t, a, b =>
    if a < j then (if b = 0 then (j, c) :: t else (a, b) :: (j, c) :: t)
    else if a = j then (if b = 0 then t else (a, b) :: t)
    else (j, c) :: wrByte t a b

/-- The canonical form: addresses strictly rising, no cell equal to what an unlisted address reads as. -/
def Memory.wf : List Host.Cell → Bool
  | [] => true
  | [(_, b)] => b != 0
  | (a, b) :: (a', b') :: t => b != 0 && a < a' && Memory.wf ((a', b') :: t)

/-- n bytes from an address, little-endian (R68, R111). -/
def rdBytes (m : List Host.Cell) (a : Nat) : Nat → Nat
  | 0 => 0
  | n + 1 => (rdByte m a).toNat + 256 * rdBytes m (a + 1) n

/-- Write the low n bytes of v from an address, little-endian. -/
def wrBytes (m : List Host.Cell) (a : Nat) : Nat → Nat → List Host.Cell
  | 0, _ => m
  | n + 1, v => wrBytes (wrByte m a (BitVec.ofNat 8 v)) (a + 1) n (v / 256)

/-- The 64 bytes of a line. -/
def rdLine (m : List Host.Cell) (line : Nat) : Line := BitVec.ofNat 512 (rdBytes m (line * 64) 64)

/-- Write a whole line. -/
def wrLine (m : List Host.Cell) (line : Nat) (d : Line) : List Host.Cell := wrBytes m (line * 64) 64 d.toNat

/-! ### Lines and bit fields -/

/-- Byte k of a line. -/
def lineByte (d : Line) (k : Nat) : Byte := d.extractLsb' (8 * k) 8

/-- n bytes of a line from offset k, as a number. -/
def lineNat (d : Line) (k n : Nat) : Nat := (d.toNat / 2 ^ (8 * k)) % 2 ^ (8 * n)

/-- n bytes of a line from offset k, as a 64-bit word. -/
def lineWord (d : Line) (k n : Nat) : Word := BitVec.ofNat 64 (lineNat d k n)

/-- A line that holds v in the n bytes from offset k, zero elsewhere. -/
def lineAt (k n : Nat) (v : Nat) : Line := BitVec.ofNat 512 ((v % 2 ^ (8 * n)) * 2 ^ (8 * k))

/-- The byte mask of n bytes from offset k. -/
def maskAt (k n : Nat) : Mask := BitVec.ofNat 64 ((2 ^ n - 1) * 2 ^ k)

/-- A byte mask spread to bits: all ones in byte k of the line where mask bit k is set. -/
def maskBits (m : Mask) : Line :=
  BitVec.ofNat 512 (go 64)
where
  /-- The low n bytes. -/
  go : Nat → Nat
    | 0 => 0
    | n + 1 => go n + (if m.getLsbD n then 255 * 2 ^ (8 * n) else 0)

/-- Merge the masked bytes of new into old (R238 WRP). -/
def mergeLine (old : Line) (m : Mask) (new : Line) : Line :=
  let b := maskBits m
  (new &&& b) ||| (old &&& ~~~b)

/-- Bits lo to lo + w − 1 of a number. -/
def bitsN (v lo w : Nat) : Nat := (v / 2 ^ lo) % 2 ^ w

/-- Sign-extend the low n bits of a number to 64 bits. -/
def sext64 (n : Nat) (v : Nat) : Word := ((BitVec.ofNat n v).signExtend 64)

/-- Bits of a 64-bit mask that are set below a position. -/
def popBelow (m : Nat) : Nat → Nat
  | 0 => 0
  | n + 1 => popBelow m n + (if m.testBit n then 1 else 0)

/-- Add to a 64-bit saturating counter (R451). -/
def satAdd (c : BitVec 64) (n : Nat) : BitVec 64 :=
  if c.toNat + n ≥ 2 ^ 64 then BitVec.allOnes 64 else c + BitVec.ofNat 64 n

/-! ### Addresses (R192 to R195) -/

/-- The three ranges of device physical addresses (R192). -/
inductive Tier where
  | near | far | packed
  deriving DecidableEq, Repr, Inhabited

/-- Base address of a range (R193). -/
def tierBase : Tier → Nat
  | .near => 0
  | .far => 0x010000000000
  | .packed => 0x040000000000

/-- Size of a range when its tier runs in eight-way mode (R192). -/
def tierSize : Tier → Nat
  | .near => 0x00C000000000
  | .far => 0x030000000000
  | .packed => 0x040000000000

/-- Mode in force for a range: packed space follows the far tier (R195). -/
def tierMode (m : MemSt) : Tier → Nat
  | .near => m.nearMode
  | _ => m.farMode

/-- Bytes of a range that exist: the upper half is reserved in four-way mode, all of it when the tier is absent (R195). -/
def tierLimit (m : MemSt) (t : Tier) : Nat :=
  match tierMode m t with
  | 0 => tierSize t
  | 1 => tierSize t / 2
  | 2 => tierSize t / 2
  | _ => 0

/-- The range and offset A of a device physical address; none for a reserved address (R192). -/
def locate (m : MemSt) (pa : Nat) : Option (Tier × Nat) :=
  if pa < tierLimit m .near then some (.near, pa)
  else if tierBase .far ≤ pa ∧ pa < tierBase .far + tierLimit m .far then some (.far, pa - tierBase .far)
  else if tierBase .packed ≤ pa ∧ pa < tierBase .packed + tierLimit m .packed then some (.packed, pa - tierBase .packed)
  else none

/-- Xor of four bit fields. -/
def xor4 (a b c d : Nat) : Nat := ((a ^^^ b) ^^^ c) ^^^ d

/-- Stack position n of an offset A (R193). -/
def stackOf (mode A : Nat) : Nat :=
  match mode with
  | 1 => xor4 (bitsN A 12 2) (bitsN A 14 2) (bitsN A 16 2) (bitsN A 18 2)
  | 2 => 4 + xor4 (bitsN A 12 2) (bitsN A 14 2) (bitsN A 16 2) (bitsN A 18 2)
  | _ => xor4 (bitsN A 12 3) (bitsN A 15 3) (bitsN A 18 3) (bitsN A 21 3)

/-- Stack offset O of an offset A (R193). -/
def stackOffset (mode A : Nat) : Nat :=
  match mode with
  | 0 => (A / 2 ^ 15) * 4096 + A % 4096
  | _ => (A / 2 ^ 14) * 4096 + A % 4096

/-- Range, mode and offset of a line as its home computes them; a reserved address maps by the near rule, and its home
refuses it (R192). -/
def homeOffset (m : MemSt) (line : Nat) : Nat × Nat :=
  match locate m (line * 64) with
  | some (t, A) => (tierMode m t, A)
  | none => (0, line * 64 % 2 ^ 43)

/-- Home slice of a line (R194). -/
def homeOf (m : MemSt) (line : Nat) : BitVec 8 :=
  let (mode, A) := homeOffset m line
  BitVec.ofNat 8 (32 * stackOf mode A + (bitsN A 7 5 ^^^ bitsN A 24 5))

/-- Base die of a home slice: bit 7 (R194). -/
def dieOfHome (h : BitVec 8) : Bool := h.getLsbD 7

/-- Directory set of a line: PA[17:6] (R232). -/
def dirSet (line : Nat) : Nat := line % 4096

/-- Base-cache set of a line: O[18:7] xor O[30:19] (R199). -/
def bccSet (m : MemSt) (line : Nat) : Nat :=
  let (mode, A) := homeOffset m line
  let o := stackOffset mode A
  bitsN o 7 12 ^^^ bitsN o 19 12

/-- Cluster L2 slice and set of a line (R185), as one index. -/
def l2Set (line : Nat) : Nat :=
  let pa := line * 64
  xor4 (bitsN pa 6 4) (bitsN pa 16 4) (bitsN pa 26 4) (bitsN pa 36 4) * 1024 + bitsN pa 10 10

/-- Base die above which a cluster sits: clusters 32 to 63 above MBD1 (Where each block lives). -/
def dieOfCluster (c : BitVec 6) : Bool := c.getLsbD 5

/-- Compute die of a cluster: c / 16. -/
def cdOf (c : BitVec 6) : Nat := c.toNat / 16

/-- Hops between two clusters (R237). -/
def hops (a b : BitVec 6) : Nat :=
  if cdOf a = cdOf b then 1 else if dieOfCluster a = dieOfCluster b then 2 else 3

/-! ### Time -/

/-- The given number of ticks has passed since a stamp. -/
def since (s : State) (t : Stamp) (ticks : Nat) : Bool := decide (t.toNat + ticks ≤ s.ts.toNat)

/-! ### Accessors -/

/-- The key of a core. -/
def coreKey (c : CoreId) : Nat := c.cl.toNat * 256 + c.pos.toNat

/-- The state of a core. -/
def State.core (s : State) (c : CoreId) : CoreSt := mget s.cores (coreKey c)
/-- Write the state of a core. -/
def State.setCore (s : State) (c : CoreId) (x : CoreSt) : State := { s with cores := mset s.cores (coreKey c) x }
/-- Change the state of a core. -/
def State.modCore (s : State) (c : CoreId) (f : CoreSt → CoreSt) : State := s.setCore c (f (s.core c))

/-- The state of a cluster. -/
def State.cluster (s : State) (c : BitVec 6) : ClusterSt := mget s.clus c.toNat
/-- Write the state of a cluster. -/
def State.setCluster (s : State) (c : BitVec 6) (x : ClusterSt) : State := { s with clus := mset s.clus c.toNat x }
/-- Change the state of a cluster. -/
def State.modCluster (s : State) (c : BitVec 6) (f : ClusterSt → ClusterSt) : State := s.setCluster c (f (s.cluster c))

/-- Change the memory side. -/
def State.modMem (s : State) (f : MemSt → MemSt) : State := { s with mem := f s.mem }
/-- The state of a home slice. -/
def State.home (s : State) (h : BitVec 8) : HomeSt := mget s.mem.homes h.toNat
/-- Change a home slice. -/
def State.modHome (s : State) (h : BitVec 8) (f : HomeSt → HomeSt) : State :=
  s.modMem fun m => { m with homes := mmod m.homes h.toNat f }
/-- Change the registers. -/
def State.modRegs (s : State) (f : RegSt → RegSt) : State := { s with regs := f s.regs }
/-- Change the translation block. -/
def State.modXlt (s : State) (f : XltSt → XltSt) : State := { s with xlt := f s.xlt }
/-- Change the dispatcher. -/
def State.modDsp (s : State) (f : DspSt → DspSt) : State := { s with dsp := f s.dsp }
/-- Change the fabric block. -/
def State.modFab (s : State) (f : FabSt → FabSt) : State := { s with fab := f s.fab }
/-- Change the host port. -/
def State.modHpt (s : State) (f : HptSt → HptSt) : State := { s with hpt := f s.hpt }
/-- Change the service port. -/
def State.modSvp (s : State) (f : SvpSt → SvpSt) : State := { s with svp := f s.svp }
/-- Change the power manager. -/
def State.modPwr (s : State) (f : PwrSt → PwrSt) : State := { s with pwr := f s.pwr }
/-- Change the fault collector. -/
def State.modFcl (s : State) (f : FclSt → FclSt) : State := { s with fcl := f s.fcl }
/-- Change the calibration store. -/
def State.modCal (s : State) (f : CalSt → CalSt) : State := { s with cal := f s.cal }
/-- Change boot and resets. -/
def State.modBoot (s : State) (f : BootSt → BootSt) : State := { s with boot := f s.boot }
/-- The state of a die link. -/
def State.link (s : State) (n : Nat) : LinkSt := mget s.d2d n
/-- Change a die link. -/
def State.modLink (s : State) (n : Nat) (f : LinkSt → LinkSt) : State := { s with d2d := mmod s.d2d n f }

/-- Take one draw of a free value: the draw's number and the state with the counter advanced. -/
def State.draw (s : State) : Nat × State := (s.free, { s with free := s.free + 1 })

/-- The outcome of a command; one whose conditions do not hold changes nothing (log entry 3). -/
abbrev Out := Host.Outcome State Fault Refusal

/-! ### Fuses (R4, R5, R30, R31, R8) -/

/-- A core position is enabled: below 160 and not fused off (R4). -/
def enabledPos (s : State) (cl : BitVec 6) (pos : Nat) : Bool :=
  decide (pos < Config.positions) && !(mgetD 0 s.fuse.off cl.toNat).getLsbD pos

/-- Enabled positions below a position: the logical index of an enabled core (R31). -/
def logicalIndex (s : State) (cl : BitVec 6) : Nat → Nat
  | 0 => 0
  | n + 1 => logicalIndex s cl n + (if enabledPos s cl n then 1 else 0)

/-- Enabled cores of a cluster (R32 ncore). -/
def enabledCount (s : State) (cl : BitVec 6) : Nat := logicalIndex s cl Config.positions

/-- The positions of the enabled cores of a cluster, in logical order. -/
def enabledList (s : State) (cl : BitVec 6) : List (BitVec 8) :=
  ((List.range Config.positions).filter (enabledPos s cl)).map (BitVec.ofNat 8)

/-- The position of a logical index (R31). -/
def posOf (s : State) (cl : BitVec 6) (i : Nat) : Option (BitVec 8) := (enabledList s cl)[i]?

/-- Fused maximum clock in MHz (R8). -/
def fmaxOf (s : State) (c : CoreId) : Nat := 2400 + (mgetD none s.fuse.fmax (coreKey c)).getD 300

/-- Apply a function to every enabled core of a cluster. -/
def forCores (s : State) (cl : BitVec 6) (f : CoreId → CoreSt → CoreSt) : State :=
  (enabledList s cl).foldl (fun s p => s.modCore ⟨cl, p⟩ (f ⟨cl, p⟩)) s

/-- The clusters whose bit a mask sets, lowest first (R41). -/
def clustersOf (m : BitVec 64) : List (BitVec 6) :=
  ((List.range 64).filter fun c => m.getLsbD c).map (BitVec.ofNat 6)

end Sys2Proof.Machine
end

