-- ==== Sys2Proof/Machine/Regs.lean ====
section
/-! DEFINITION. The registers as data: the access codes, reset values and strobes of every BAR0 offset (R13, R443, R453 to
R456, and the register tables of the chapters), the value in force, sequence-clear flags (R448) and counters (R451). -/

namespace Sys2Proof.Machine

/-- How the fields of one register word are reached (R13). -/
structure RegInfo where
  /-- Bits written at once. -/
  rw : BitVec 32 := 0
  /-- Bits held pending until the strobe (RWP, or guarded fields that subscribe to one). -/
  rwp : BitVec 32 := 0
  /-- The strobe the register subscribes to (R443). -/
  strobe : Nat := 15
  /-- First word of a G1 pair (R446). -/
  g1 : Bool := false
  /-- A G2 register (R447). -/
  g2 : Bool := false
  /-- A sequence-clear register (R448). -/
  sqc : Bool := false
  /-- A counter pair word: low 1, high 2 (R451). -/
  cnt : Nat := 0
  /-- Another RO pair: low 1, high 2 (R450). -/
  pair : Nat := 0
  /-- Reset value. -/
  reset : BitVec 32 := 0
  deriving DecidableEq, Repr, Inhabited

/-! ### Offsets of the registers that other operations name -/

namespace Reg
def gctlUnlock : Nat := 0x010000
def gctlStat : Nat := 0x010004
def gctlPend : Nat := 0x010008
def gctlStrobeSet : Nat := 0x01000C
def gctlCntReset : Nat := 0x010010
def gctlStaleClr : Nat := 0x010018
def gctlVote : Nat := 0x010020
def gctlStaleAddr : Nat := 0x010028
def gctlCntOvf : Nat := 0x01002C
def gctlStrobe : Nat := 0x010040
def gctlColdRst : Nat := 0x010100
def gctlRstCluster : Nat := 0x010104
def gctlRstCore : Nat := 0x010108
def gctlBootStat : Nat := 0x01010C
def gctlRstCause : Nat := 0x010110
def gctlRstStat : Nat := 0x010114
def gctlWdog : Nat := 0x010118
def gctlWdogKick : Nat := 0x01011C
def gctlWdogStat : Nat := 0x010120
def tbsNow : Nat := 0x020000
def tbsStart : Nat := 0x020008
def fclStat : Nat := 0x030000
def fclReact : Nat := 0x030004
def fclSafeEn : Nat := 0x030008
def fclFirstStat : Nat := 0x030010
def fclCrumbRd : Nat := 0x030034
def fclCrumbLost : Nat := 0x030038
def fclDemote : Nat := 0x030040
def fclLpCtl : Nat := 0x030070
def fclLpBaseLo : Nat := 0x030078
def fclLpBaseHi : Nat := 0x03007C
def fclLpWr : Nat := 0x030080
def fclLpRd : Nat := 0x030084
def fclLpLost : Nat := 0x030088
/-- FCL_TYPEt_CFG. -/
def fclType (t : Nat) : Nat := 0x030400 + 4 * t
/-- FCL_CNTt low word. -/
def fclCnt (t : Nat) : Nat := 0x030800 + 8 * t
def pwrLimSust : Nat := 0x040000
def pwrLimPeak : Nat := 0x040004
def pwrPrio : Nat := 0x040008
def pwrCtl : Nat := 0x04000C
def pwrProof : Nat := 0x040010
def pwrTherm : Nat := 0x040014
def pwrFlow : Nat := 0x040018
def pwrStat : Nat := 0x04001C
def pwrPower : Nat := 0x040020
def pwrDroop : Nat := 0x040080
def pwrTeldrop : Nat := 0x040088
def pwrProofUj : Nat := 0x040090
def pwrPllStop : Nat := 0x040100
def calCmd : Nat := 0x050000
def calStat : Nat := 0x050004
def calWinAddr : Nat := 0x050010
def calWinData : Nat := 0x050014
def hptStat : Nat := 0x060004
def hptInten : Nat := 0x06000C
def hptHoldoff : Nat := 0x060010
def hptBiTmo : Nat := 0x060014
def hptAspmIdle : Nat := 0x060018
def hptEarlyBase : Nat := 0x06001C
def hptBiasPage : Nat := 0x060020
def hptBiasCmd : Nat := 0x060024
def hptBiasStat : Nat := 0x060028
def hptHwinHpa : Nat := 0x060030
def hptHwinDpa : Nat := 0x060038
def hptHwinLen : Nat := 0x060040
def hptHwinCmd : Nat := 0x060044
def hptHwinStat : Nat := 0x060048
def hptUr : Nat := 0x060050
def hptRetrain : Nat := 0x060058
def hptBadop : Nat := 0x060060
/-- APW_WINn word w of the window's registers. -/
def apwWin (n w : Nat) : Nat := 0x070000 + 0x20 * n + w
def apwWinEn : Nat := 0x070080
def apwStat : Nat := 0x070084
def svpSlotCtl : Nat := 0x080004
def svpStat : Nat := 0x080008
def svpEvEn : Nat := 0x080010
def svpCfgAddr : Nat := 0x080014
def svpCfgData : Nat := 0x080018
def svpDrop : Nat := 0x080020
def svpDrained : Nat := 0x080030
def svpDrainStat : Nat := 0x080038
def dspRtabLo : Nat := 0x090000
def dspRtabHi : Nat := 0x090004
def dspEtabLo : Nat := 0x090008
def dspEtabHi : Nat := 0x09000C
def dspRingCtl : Nat := 0x090010
def dspStat : Nat := 0x090014
def dspLaunchCmd : Nat := 0x090018
def dspEnergySel : Nat := 0x09001C
def dspRingOn : Nat := 0x090080
def dspEvInten : Nat := 0x090100
def dspEvCause : Nat := 0x090140
def dspDb : Nat := 0x091000
def dspEvRd : Nat := 0x092000
def dspEvWr : Nat := 0x092400
/-- XLT_REGIONn. -/
def xltRegion (n : Nat) : Nat := 0x0A0000 + 4 * n
def xltCtxtLo : Nat := 0x0A0100
def xltCtxtHi : Nat := 0x0A0104
def xltFqLo : Nat := 0x0A0108
def xltFqHi : Nat := 0x0A010C
def xltFqWr : Nat := 0x0A0110
def xltFqRd : Nat := 0x0A0114
def xltFqStat : Nat := 0x0A0118
def xltFqLate : Nat := 0x0A0120
def xltFqStall : Nat := 0x0A0128
def xltRsvCtx : Nat := 0x0A0200
def xltRsvVaLo : Nat := 0x0A0204
def xltRsvVaHi : Nat := 0x0A0208
def xltRsvCmd : Nat := 0x0A020C
def xltRsvStat : Nat := 0x0A0210
def xltInvCtx : Nat := 0x0A0300
def xltInvVaLo : Nat := 0x0A0304
def xltInvVaHi : Nat := 0x0A0308
def xltInvPages : Nat := 0x0A030C
def xltInvCmd : Nat := 0x0A0310
def xltInvStat : Nat := 0x0A0314
def xltInvStamp : Nat := 0x0A0318
def xltOwnPage : Nat := 0x0A0400
def xltOwnTag : Nat := 0x0A0404
/-- FAB_Pn word w. -/
def fabPort (n w : Nat) : Nat := 0x0B0000 + 0x1000 * n + w
def fabMyaddr : Nat := 0x0BC000
def fabMyrank : Nat := 0x0BC004
def fabRanktab : Nat := 0x0BC008
def fabRtab : Nat := 0x0BC010
def fabRetx : Nat := 0x0BC018
def fabTabCtl : Nat := 0x0BC020
def fabAckTmo : Nat := 0x0BC024
def fabDeadClr : Nat := 0x0BC028
def fabTsCtl : Nat := 0x0BC02C
def fabStat : Nat := 0x0BC034
def fabResend : Nat := 0x0BC038
def fabDiscard : Nat := 0x0BC040
def fabDrained : Nat := 0x0BC050
def fabDrainStat : Nat := 0x0BC058
def przTtabLo : Nat := 0x0C0000
def przTtabHi : Nat := 0x0C0004
def przTreeCtl : Nat := 0x0C0008
def przSeqSel : Nat := 0x0C0014
def przStat : Nat := 0x0C001C
def przDrop : Nat := 0x0C0020
/-- D2D_Ln word w, IOD side. -/
def d2d (n w : Nat) : Nat := 0x0D0000 + 0x1000 * n + w
/-- D2D_Ln word w, base-die side. -/
def d2dFar (die : Bool) (n w : Nat) : Nat := (if die then 0x200000 else 0x100000) + 0xB0000 + 0x1000 * n + w
/-- Offset of a base die's window (R454). -/
def mbd (die : Bool) (o : Nat) : Nat := (if die then 0x200000 else 0x100000) + o
def homeFwdTmo : Nat := 0x00000
def homeStat : Nat := 0x00004
def homeRecall : Nat := 0x00008
def homeRetry : Nat := 0x00010
def homePoison : Nat := 0x00018
def homeTp (n : Nat) : Nat := 0x00040 + 8 * n
def homeTpThr : Nat := 0x00084
def bccWaymask (n : Nat) : Nat := 0x40000 + 4 * n
def bccClassCl (m : Nat) : Nat := 0x40040 + 4 * m
def bccClassAgt : Nat := 0x40060
/-- BCC_RMn word w. -/
def bccRm (n w : Nat) : Nat := 0x40100 + 0x20 * n + w
def nmuDrop : Nat := 0x80000
def dcxPptLo : Nat := 0x90000
def dcxPptHi : Nat := 0x90004
def dcxCtrl : Nat := 0x90008
def dcxStat : Nat := 0x9000C
def scrCtl : Nat := 0xA0000
def scrStat : Nat := 0xA0004
def scrCe : Nat := 0xA0008
def scrUe : Nat := 0xA0010
/-- A register of a cluster's window (R454, R523). -/
def clg (c : BitVec 6) (w : Nat) : Nat := 0x1000000 + 0x400000 * cdOf c + 0x10000 * (c.toNat % 16) + w
end Reg

/-! ### The tables -/

/-- A plain RW register. -/
def rRW (m : BitVec 32) (reset : BitVec 32 := 0) : Option RegInfo := some { rw := m, reset := reset }
/-- An RWP register. -/
def rRWP (st : Nat) (m : BitVec 32) (reset : BitVec 32 := 0) : Option RegInfo :=
  some { rwp := m, strobe := st, reset := reset }
/-- A register with no writable field: RO or WO fields only. -/
def rRO (reset : BitVec 32 := 0) : Option RegInfo := some { reset := reset }
/-- A sequence-clear register. -/
def rSQC : Option RegInfo := some { sqc := true }
/-- A counter pair at offset base. -/
def rCnt (o base : Nat) : Option RegInfo := some { cnt := if o = base then 1 else 2 }
/-- Another RO pair at offset base. -/
def rPair (o base : Nat) : Option RegInfo := some { pair := if o = base then 1 else 2 }

/-- GCTL (R453, R540, R541). -/
def regGctl (o : Nat) : Option RegInfo :=
  if 0x40 ≤ o ∧ o < 0x80 then rRO else
  match o with
  | 0x00 => rRO | 0x04 => rSQC | 0x08 => rRO | 0x0C => rRO
  | 0x10 => some { g1 := true } | 0x14 => rRO
  | 0x18 | 0x1C => rCnt o 0x18
  | 0x20 | 0x24 => rCnt o 0x20
  | 0x28 => rRO | 0x2C => rRO
  | 0x100 => some { g2 := true } | 0x104 => rRO | 0x108 => rRO | 0x10C => rRO | 0x110 => rRO | 0x114 => rSQC
  | 0x118 => some { rw := 0x0000FFFF, reset := 10000 } | 0x11C => rRO | 0x120 => rSQC
  | _ => none

/-- TBS (R527). -/
def regTbs (o : Nat) : Option RegInfo :=
  match o with
  | 0x0 | 0x4 => rPair o 0 | 0x8 | 0xC => rPair o 8 | _ => none

/-- Default class and N of an event type (R505): 0 notice, 1 correctable, 2 degraded, 3 severe, 4 fatal. -/
def typeDefault (t : Nat) : Nat × Nat :=
  match t with
  | 0x01 | 0x03 | 0x05 | 0x07 | 0x09 | 0x0B | 0x0D | 0x0E | 0x11 | 0x14 | 0x17 | 0x18 | 0x1B | 0x1F => (1, 16)
  | 0x02 | 0x04 | 0x08 | 0x0C | 0x15 | 0x19 | 0x1A | 0x1E | 0x2B | 0x2C | 0x2D | 0x2F | 0x30 => (2, 16)
  | 0x0F | 0x10 | 0x12 | 0x13 | 0x16 | 0x1C | 0x21 | 0x32 => (3, 0)
  | 0x06 | 0x0A | 0x1D | 0x29 | 0x2A | 0x31 => (4, 0)
  | _ => (0, 0)

/-- FCL (R522). -/
def regFcl (o : Nat) : Option RegInfo :=
  if 0x400 ≤ o ∧ o < 0x400 + 4 * 0x34 ∧ o % 4 = 0 then
    let t := (o - 0x400) / 4
    let (c, n) := typeDefault t
    rRWP 1 0xFFFFFF07 (BitVec.ofNat 32 (1000 * 65536 + n * 256 + c))
  else if 0x800 ≤ o ∧ o < 0x800 + 8 * 0x34 then some { cnt := if o % 8 = 0 then 1 else 2 }
  else if 0x1000 ≤ o ∧ o < 0x1400 then rRO
  else match o with
  | 0x00 => rSQC | 0x04 => rRWP 1 0x00007FFF 0x7EC9 | 0x08 => some { rw := 0x1F, g1 := true, reset := 0x10 } | 0x0C => rRO
  | 0x10 => rSQC | 0x14 => rRO | 0x18 => rRO | 0x20 | 0x24 => rPair o 0x20 | 0x28 | 0x2C => rPair o 0x28
  | 0x30 => rRO | 0x34 => rRO | 0x38 | 0x3C => rCnt o 0x38 | 0x40 => rRO
  | 0x50 => rRO | 0x54 => rRO | 0x58 => rRO
  | 0x70 => rRWP 1 0x0001FFFF 0x00010064
  | 0x78 => rRWP 1 0xFFFF001F | 0x7C => rRWP 1 0x00000FFF
  | 0x80 => rRO | 0x84 => rRO | 0x88 | 0x8C => rCnt o 0x88
  | _ => none

/-- PWR (R501, R61). -/
def regPwr (o : Nat) : Option RegInfo :=
  if 0x40 ≤ o ∧ o < 0x80 then rRO else
  match o with
  | 0x00 => some { rwp := 0xFFFF, strobe := 4, g2 := true, reset := 2400 }
  | 0x04 => some { rwp := 0xFFFF, strobe := 4, g2 := true, reset := 3000 }
  | 0x08 => rRWP 4 0x3F 0x24
  | 0x0C => some { rw := 1, rwp := 2, strobe := 4, reset := 2 }
  | 0x10 => rRWP 4 0x1FFFF 0x1323C
  | 0x14 => rRWP 4 0xFFFF 0x645F
  | 0x18 => rRWP 4 0xFFFF0000
  | 0x1C => rSQC | 0x20 => rRO | 0x24 => rRO
  | 0x80 | 0x84 => rCnt o 0x80 | 0x88 | 0x8C => rCnt o 0x88 | 0x90 | 0x94 => rCnt o 0x90
  | 0x98 => rRO | 0xA0 => rRO
  | 0x100 => rRWP 4 0x1FFFF 500
  | _ => none

/-- CAL (R539). -/
def regCal (o : Nat) : Option RegInfo :=
  match o with
  | 0x00 => some { g2 := true } | 0x04 => rSQC | 0x08 => rRO | 0x0C => rRO
  | 0x10 => rRW 0x0001FFFC | 0x14 => rRO | _ => none

/-- HPT (R423, R456). -/
def regHpt (o : Nat) : Option RegInfo :=
  match o with
  | 0x00 => rRO | 0x04 => rSQC | 0x08 => rRO | 0x0C => rRW 0x3F | 0x10 => rRW 0xFFFF
  | 0x14 => rRWP 11 0xFFFF 500 | 0x18 => rRWP 11 0xFFFF 5000
  | 0x1C => some { rw := 0xFFFFF, g2 := true }
  | 0x20 => rRW 0x1FFFF | 0x24 => rRO | 0x28 => rSQC
  | 0x30 => rRW 0xFFFFFFFF | 0x34 => rRW 0xFFFFFFFF | 0x38 => rRW 0xFFFFFFFF | 0x3C => rRW 0xFFFFFFFF
  | 0x40 => rRW 0x1FFF | 0x44 => rRO | 0x48 => rSQC
  | 0x50 | 0x54 => rCnt o 0x50 | 0x58 | 0x5C => rCnt o 0x58 | 0x60 | 0x64 => rCnt o 0x60 | 0x68 => rRO
  | _ => none

/-- APW (R436, R456). -/
def regApw (o : Nat) : Option RegInfo :=
  if o < 0x80 then
    match o % 0x20 with
    | 0x00 => rRWP 12 0xF0000000 | 0x04 => rRWP 12 0x00000FFF
    | 0x08 => rRWP 12 0xF0000000 | 0x0C => rRWP 12 0xFFFFFFFF
    | 0x10 => rRWP 12 0x01FFFFFF | 0x14 => rRO | _ => none
  else match o with
  | 0x80 => some { rwp := 0xF, strobe := 12, g2 := true } | 0x84 => rSQC | _ => none

/-- SVP (R435, R290, R456). -/
def regSvp (o : Nat) : Option RegInfo :=
  match o with
  | 0x00 => rRO | 0x04 => rRW 0x3F 0x3E | 0x08 => rSQC | 0x0C => rRO | 0x10 => rRW 0x1FFF
  | 0x14 => rRW 0x0FFFFFFC | 0x18 => rRW 0xFFFFFFFF
  | 0x20 | 0x24 => rCnt o 0x20 | 0x28 => rRO
  | 0x30 | 0x34 => rPair o 0x30 | 0x38 => rSQC | _ => none

/-- DSP (R350, R456). -/
def regDsp (o : Nat) : Option RegInfo :=
  if 0x80 ≤ o ∧ o < 0x100 then rRO
  else if 0x100 ≤ o ∧ o < 0x120 then rRW 0xFFFFFFFF
  else if 0x140 ≤ o ∧ o < 0x180 then rSQC
  else if 0x1000 ≤ o ∧ o < 0x2000 then rRO
  else if 0x2000 ≤ o ∧ o < 0x2400 then rRO
  else if 0x2400 ≤ o ∧ o < 0x2800 then rRO
  else match o with
  | 0x00 => rRWP 8 0xFFFF0000 | 0x04 => rRWP 8 0x00000FFF | 0x08 => rRWP 8 0xFFFFE000 | 0x0C => rRWP 8 0x00000FFF
  | 0x10 => rRO | 0x14 => rSQC | 0x18 => rRO | 0x1C => rRW 0x000FFFFF | 0x20 | 0x24 => rPair o 0x20 | _ => none

/-- XLT (R189, R325, R456). -/
def regXlt (o : Nat) : Option RegInfo :=
  if o < 0x40 then rRWP 5 0xFC (if o = 0x3C then 0x20 else 0x50)
  else match o with
  | 0x100 => rRWP 5 0xFFF00001 | 0x104 => rRWP 5 0xFFF | 0x108 => rRWP 5 0xFFF00001 | 0x10C => rRWP 5 0xFFF
  | 0x110 => rRO | 0x114 => rRO | 0x118 => rSQC | 0x11C => rRO
  | 0x120 | 0x124 => rCnt o 0x120 | 0x128 | 0x12C => rCnt o 0x128 | 0x130 => rRO
  | 0x200 => rRW 0xFFFFF | 0x204 => rRW 0xFE000000 | 0x208 => rRW 0xFFFFF | 0x20C => rRO | 0x210 => rSQC
  | 0x300 => rRW 0xFFFFF | 0x304 => rRW 0xFE000000 | 0x308 => rRW 0xFFFFF | 0x30C => rRW 0x3FFFF
  | 0x310 => rRO | 0x314 => rSQC | 0x318 | 0x31C => rPair o 0x318
  | 0x400 => rRW 0x3FFFF | 0x404 => rRO | _ => none

/-- FAB (R397, R290, R456). -/
def regFab (o : Nat) : Option RegInfo :=
  if o < 0xC000 then
    match o % 0x1000 with
    | 0x00 => rRWP 9 1 | 0x04 => rRO | 0x08 => rSQC
    | 0x10 => some { cnt := 1 } | 0x14 => some { cnt := 2 } | 0x18 => some { cnt := 1 } | 0x1C => some { cnt := 2 }
    | _ => none
  else match o with
  | 0xC000 => rRWP 9 0xFFFF | 0xC004 => rRWP 9 0x8000FFFF
  | 0xC008 => rRWP 9 0xFFFFF000 | 0xC00C => rRWP 9 0xFFF | 0xC010 => rRWP 9 0xFFFFF000 | 0xC014 => rRWP 9 0xFFF
  | 0xC018 => rRWP 9 0xF0000001 | 0xC01C => rRWP 9 0xFFF
  | 0xC020 => rRO | 0xC024 => rRWP 9 0xFFFF 1250 | 0xC028 => rRO | 0xC02C => rRWP 9 0x3F | 0xC030 => rRO | 0xC034 => rSQC
  | 0xC038 | 0xC03C => rCnt o 0xC038 | 0xC040 | 0xC044 => rCnt o 0xC040 | 0xC048 => rRO
  | 0xC050 | 0xC054 => rPair o 0xC050 | 0xC058 => rSQC | _ => none

/-- PRZ (R398, R456). -/
def regPrz (o : Nat) : Option RegInfo :=
  match o with
  | 0x00 => rRWP 10 0xFFFFF000 | 0x04 => rRWP 10 0xFFF | 0x08 => rRO | 0x0C | 0x10 => rPair o 0x0C
  | 0x14 => rRW 0x3F | 0x18 => rRO | 0x1C => rSQC | 0x20 | 0x24 => rCnt o 0x20 | 0x28 => rRO | _ => none

/-- D2D, IOD side when iod, else a base die's side, where only RESET and TEST are writable (R472, R473). -/
def regD2d (iod : Bool) (o : Nat) : Option RegInfo :=
  if o ≥ 0x3000 then none else
  let w := o % 0x1000
  match w with
  | 0x00 => if iod then rRWP 13 1 1 else rRO 1
  | 0x04 => rRO | 0x08 => rSQC
  | 0x0C => if iod then some { g1 := true } else rRO
  | 0x10 => rRO | 0x14 => rRO | 0x18 => rRW 0x17F | 0x1C => rRO
  | 0x20 | 0x24 => rCnt w 0x20 | 0x28 | 0x2C => rCnt w 0x28 | 0x30 | 0x34 => rCnt w 0x30 | 0x38 => rRO
  | 0x40 | 0x48 => if iod then some { rw := 0xFFFFFFFF, g1 := true } else rRO
  | 0x50 => if iod then some { rw := if o / 0x1000 = 2 then 0 else 0xFFFFFFFF, g1 := true } else rRO
  | 0x44 | 0x4C | 0x54 => rRO
  | 0x60 => some { g1 := true } | 0x64 => rRO
  | _ => none

/-- A base die's window (R455, R456, R260, R202, R211, R219, R523). -/
def regMbd (die : Bool) (o : Nat) : Option RegInfo :=
  if o < 0x40000 then
    if 0x40 ≤ o ∧ o < 0x80 then some { cnt := if o % 8 = 0 then 1 else 2 } else
    match o with
    | 0x00 => rRWP 7 0xFFFF 1000 | 0x04 => rSQC
    | 0x08 | 0x0C => rCnt o 0x08 | 0x10 | 0x14 => rCnt o 0x10 | 0x18 | 0x1C => rCnt o 0x18 | 0x20 => rRO
    | 0x80 => rRO | 0x84 => rRW 0xFFFF 900 | _ => none
  else if o < 0x80000 then
    let w := o - 0x40000
    if w < 0x40 then rRWP 6 0xFFFF 0xFFFF
    else if w < 0x60 then rRWP 6 0xFFFFFFFF
    else if w = 0x60 then rRWP 6 0xFFFFFFFF
    else if w = 0x70 ∨ w = 0x74 then rPair w 0x70
    else if 0x100 ≤ w ∧ w < 0x100 + 0x20 * 33 then
      match (w - 0x100) % 0x20 with
      | 0x00 => rRW 0xFFFFFFFF | 0x04 => rRW 0xFFFFFFFF | 0x08 => rRW 0xFFFFFFFF | 0x0C => rRW 0xFFFFFFFF
      | 0x10 => rRO | 0x14 => rSQC | 0x18 => some { pair := 1 } | 0x1C => some { pair := 2 } | _ => none
    else none
  else if o < 0x90000 then
    match o - 0x80000 with
    | 0x00 => some { cnt := 1 } | 0x04 => some { cnt := 2 } | 0x08 => rRO | _ => none
  else if o < 0xA0000 then
    match o - 0x90000 with
    | 0x00 => rRWP 6 0xFFF00001 | 0x04 => rRWP 6 0xFFF | 0x08 => rRO | 0x0C => rSQC | _ => none
  else if o < 0xB0000 then
    match o - 0xA0000 with
    | 0x00 => rRWP 14 1 1 | 0x04 => rSQC
    | 0x08 => some { cnt := 1 } | 0x0C => some { cnt := 2 } | 0x10 => some { cnt := 1 } | 0x14 => some { cnt := 2 }
    | 0x18 => rRO
    | 0x20 | 0x24 | 0x28 | 0x2C | 0x30 | 0x34 | 0x38 | 0x3C => rRO
    | _ => none
  else
    let w := o - 0xB0000
    if (if die then w / 0x1000 = 1 ∨ w / 0x1000 = 2 else w / 0x1000 = 0 ∨ w / 0x1000 = 2) then regD2d false w else none

/-- A cluster's window (R523). -/
def regClg (o : Nat) : Option RegInfo :=
  match o with
  | 0x00 => rRO | 0x08 | 0x0C => rCnt o 0x08 | 0x10 | 0x14 => rCnt o 0x10 | 0x18 => rRO | _ => none

/-- The row of the BAR0 map that holds an offset (R454). -/
def barRow (off : Nat) : Option Nat :=
  if off < 0x0E0000 then some (off / 0x10000)
  else if 0x100000 ≤ off ∧ off < 0x200000 then some 14
  else if 0x200000 ≤ off ∧ off < 0x300000 then some 15
  else if 0x1000000 ≤ off ∧ off < 0x2000000 then some (16 + (off - 0x1000000) / 0x400000)
  else none

/-- The register at a BAR0 offset; none where no register sits. -/
def regInfo (off : Nat) : Option RegInfo :=
  let o := off % 0x10000
  match barRow off with
  | some 1 => regGctl o
  | some 2 => regTbs o
  | some 3 => regFcl o
  | some 4 => regPwr o
  | some 5 => regCal o
  | some 6 => regHpt o
  | some 7 => regApw o
  | some 8 => regSvp o
  | some 9 => regDsp o
  | some 10 => regXlt o
  | some 11 => regFab o
  | some 12 => regPrz o
  | some 13 => regD2d true o
  | some 14 => regMbd false (off - 0x100000)
  | some 15 => regMbd true (off - 0x200000)
  | some (_ + 16) => regClg o
  | _ => none

/-- Reset value of a register word. -/
def regReset (off : Nat) : BitVec 32 := ((regInfo off).map (·.reset)).getD 0

/-- The value in force of a register word. -/
def State.reg (s : State) (off : Nat) : BitVec 32 := (mgetD none s.regs.val off).getD (regReset off)

/-- Set the value in force of a register word. -/
def State.setReg (s : State) (off : Nat) (v : BitVec 32) : State :=
  s.modRegs fun r => { r with val := mset r.val off (some v) }

/-- A field of a register in force, as a number. -/
def State.fld (s : State) (off lo w : Nat) : Nat := bitsN (s.reg off).toNat lo w

/-- An event sets flags of a sequence-clear register: SEQ advances by 1, modulo 2^16 (R448). -/
def State.setFlags (s : State) (off : Nat) (flags : BitVec 16) : State :=
  let v := s.reg off
  s.setReg off ((v.extractLsb' 16 16 + 1) ++ (v.extractLsb' 0 16 ||| flags))

/-- An event sets one flag. -/
def State.setFlag (s : State) (off bit : Nat) : State := s.setFlags off (1#16 <<< bit)

/-- A flag of a sequence-clear register. -/
def State.flag (s : State) (off bit : Nat) : Bool := (s.reg off).getLsbD bit

/-- A counter (R451). -/
def State.cnt (s : State) (lo : Nat) : BitVec 64 := mget s.regs.cnt lo

/-- Add to a counter without the event of its saturation. -/
def State.bumpRaw (s : State) (lo n : Nat) : State :=
  s.modRegs fun r => { r with cnt := mmod r.cnt lo (satAdd · n) }

end Sys2Proof.Machine
end

