-- ==== Sys2Proof/Machine/Faults.lean ====
section
/-! DEFINITION. The fault collector's operations (chapter 17): reports, classes and promotion, reactions, crumbs, the
first-error record, isolation of a cluster, and counters with the event of their saturation (R451). -/

namespace Sys2Proof.Machine

/-! ### Completion statuses (R340) and halting a launch (R64) -/

def stOK : BitVec 8 := 0x00
def stBadcmd : BitVec 8 := 0x01
def stPages : BitVec 8 := 0x02
def stCorecount : BitVec 8 := 0x03
def stHalted : BitVec 8 := 0x04
def stXltfault : BitVec 8 := 0x05
def stAborted : BitVec 8 := 0x06
def stLoss : BitVec 8 := 0x07
def stPoison : BitVec 8 := 0x08
def stRefused : BitVec 8 := 0x09
def stPartial : BitVec 8 := 0x0A
def stSteperr : BitVec 8 := 0x0B
def stStepfail : BitVec 8 := 0x0C
def stIsolated : BitVec 8 := 0x0D

/-- Begin the halt of a launch; the cause that first halts it sets its completion status (R64). -/
def haltLaunch (s : State) (id : Nat) (status : BitVec 8) : State :=
  let hit := fun l : Launch => l.id == id && l.phase == .running
  let f := fun l : Launch => { l with phase := .halting, status := status }
  s.modDsp fun d => { d with launches := modFirst hit f d.launches }

/-! ### Sources (R504) -/

/-- A source ID: die, instance and type. -/
def srcId (die inst ty : Nat) : BitVec 16 := BitVec.ofNat 16 (die * 8192 + inst * 64 + ty)
/-- The type of a source ID. -/
def srcTy (src : BitVec 16) : Nat := (src.extractLsb' 0 6).toNat
/-- The instance of a source ID. -/
def srcInst (src : BitVec 16) : Nat := (src.extractLsb' 6 7).toNat
/-- The die number of the IOD. -/
def dieIod : Nat := 0
/-- The die number of a base die. -/
def dieMbd (d : Bool) : Nat := if d then 2 else 1
/-- The die number of a cluster's compute die. -/
def dieCd (c : BitVec 6) : Nat := 3 + cdOf c

/-- The types whose instance is a cluster (R505). -/
def clusterType (ty inst : Nat) : Bool :=
  (0x0B ≤ ty && ty ≤ 0x13) || ty == 0x24 || ty == 0x28 || ty == 0x33 || (ty == 0x29 && inst < 64)

/-! ### Crumbs (R512 to R514) -/

/-- CSEQ of the next crumb: NEWEST + 1, and 0 for the first (R512). -/
def nextCseq (s : State) : BitVec 16 := if s.fcl.any then s.fcl.newest + 1 else 0

/-- Unread crumbs: the next CSEQ less RD (R514). -/
def unreadCrumbs (s : State) : Nat := (nextCseq s - (s.reg Reg.fclCrumbRd).extractLsb' 0 16).toNat

/-- Write a crumb: the next CSEQ, its slot modulo 32, the oldest unread one overwritten when 32 are unread (R514). -/
def writeCrumb (s : State) (src : BitVec 16) (kind cls : Nat) (ctx : Ctx) (count : Nat) (addr : BitVec 64)
    (ts : Stamp) : State :=
  let n := nextCseq s
  let c : Crumb := { cseq := n, src := src, kind := BitVec.ofNat 5 kind, cls := BitVec.ofNat 3 cls, ctx := ctx,
                     count := BitVec.ofNat 32 count, addr := addr, ts := ts }
  let s := if unreadCrumbs s = 32 then
      (s.bumpRaw Reg.fclCrumbLost 1).setReg Reg.fclCrumbRd ((((s.reg Reg.fclCrumbRd).extractLsb' 0 16) + 1).setWidth 32)
    else s
  s.modFcl fun f => { f with crumbs := mset f.crumbs (n.toNat % 32) (some c), newest := n, any := true }

/-! ### Isolation (R255, R256, R508) -/

/-- Isolate a cluster: its launch halts or, in prepare, ends before any core starts; ISOLATED is set; every home slice
has a reclaim to run (R256, R508). The cores of the cluster count as ended (R46). -/
def isolate (s : State) (cl : BitVec 6) : State :=
  let s := match (s.cluster cl).run with
    | some r => haltLaunch s r.id stHalted
    | none => s
  let s := s.modDsp fun d => { d with launches := d.launches.map fun l =>
    if l.phase == .prepare && l.mask.getLsbD cl.toNat && l.status == stOK then { l with status := stIsolated } else l }
  let s := s.modCluster cl fun c => { c with isolated := true }
  s.modMem fun m => { m with homes := (List.range 256).foldl (fun hs h => mmod hs h fun x =>
    { x with reclaim := x.reclaim ++ [(cl, true)] }) m.homes }

/-! ### PME (R418) -/

/-- The configuration dword of PMCSR (the model's place for it: log entry 30). -/
def cfgPmcsr : Nat := 0x11

/-- PME_Status, PM_PME and the wake output, while PME_En is set (R418). -/
def setPme (s : State) : State :=
  if (mgetD 0 s.hpt.cfg cfgPmcsr).getLsbD 8 then
    (s.modHpt fun h => { h with pme := true, out := h.out ++ [.pmPme] }).modBoot fun b => { b with wakeN := true }
  else s

/-! ### Collecting an event (R505 to R513) -/

/-- The crumb an event's own rule names in place of EVENT: kind, COUNT and ADDR (R513). -/
abbrev CrumbForm := Option (Nat × Nat × BitVec 64)

/-- Class of a type as FCL_TYPEt_CFG raises it: 5 to 7 act as 4, below the default the default (R505, R522). -/
def classOf (s : State) (ty : Nat) : Nat :=
  max (min (s.fld (Reg.fclType ty) 0 3) 4) (typeDefault ty).1

/-- Count an event in its source's window: the state, and whether this event promotes the instance (R506). -/
def countWindow (s : State) (src : BitVec 16) : State × Bool :=
  let ty := srcTy src
  let t := max (s.fld (Reg.fclType ty) 16 16) 1 * Config.msTicks
  let n := s.fld (Reg.fclType ty) 8 8
  let ws := s.fcl.windows.filter fun w => !(w.src == src && since s w.ts t)
  let c := match ws.find? (·.src == src) with
    | some w => w.count + 1
    | none => 1
  let ws := match ws.find? (·.src == src) with
    | some _ => modFirst (·.src == src) (fun w => { w with count := c }) ws
    | none => ws ++ [{ src := src, ts := s.ts, count := 1 }]
  let promote := n ≠ 0 && n ≤ c
  (s.modFcl fun f => { f with windows := ws, promoted := if promote then f.promoted ++ [src] else f.promoted }, promote)

/-- The first-error record (R511). -/
def firstError (s : State) (r : Report) (cls : Nat) : State :=
  if s.flag Reg.fclFirstStat 0 then s.setFlag Reg.fclFirstStat 1
  else (s.modFcl fun f => { f with firstSrc := r.src, firstCls := BitVec.ofNat 3 cls, firstCtx := r.ctx,
                                   firstAddr := r.addr, firstTs := r.ts }).setFlag Reg.fclFirstStat 0

/-- The class enables that force the safe state: the majority copy, the fatal bit always 1 (R449, R507). -/
def safeEnables (s : State) : BitVec 32 := s.regs.safeEn.a ||| 0x10

/-- Collect one report: class, window, promotion, and the reactions of its class (R505 to R513). After entry to the safe
state only LOG and INT are applied (R510). -/
def collect0 (s : State) (r : Report) (form : CrumbForm) : State :=
  let ty := srcTy r.src
  if ty = 0 ∨ 0x34 ≤ ty then s else
  let c0 := classOf s ty
  let was := s.fcl.promoted.contains r.src
  let (s, now) := if c0 ≤ 2 && !was then countWindow s r.src else (s, false)
  let cls := if c0 ≤ 2 && (was || now) then 3 else c0
  let inSafe := s.fcl.safe || s.fcl.safeSrc.isSome
  let react := s.fld Reg.fclReact (3 * cls) 3
  let s := if cls ≥ 2 then firstError s r cls else s
  let s := if react.testBit 0 || now then
      let (k, n, a) := if now then (0x08, s.fld (Reg.fclType ty) 8 8, r.addr) else form.getD (0x01, 0, r.addr)
      writeCrumb s r.src k cls r.ctx n a r.ts
    else s
  let s := if react.testBit 0 then s.bumpRaw (Reg.fclCnt ty) 1 else s
  let s := if react.testBit 1 then s.setFlag Reg.fclStat cls else s
  let s := if cls ≥ 3 then setPme s else s
  let cl := BitVec.ofNat 6 (srcInst r.src)
  let s := if react.testBit 2 && clusterType ty (srcInst r.src) && !inSafe && !(s.cluster cl).isolated then
      let s := isolate s cl
      writeCrumb s r.src 0x09 cls 0 cl.toNat 0 s.ts
    else s
  if ((safeEnables s).getLsbD cls || ty = 0x29 || ty = 0x2A) && !inSafe then
    s.modFcl fun f => { f with safeSrc := some (r.src, BitVec.ofNat 3 cls) }
  else s

/-- The source of the event of a saturated counter (R33, R348, R451): type 0x23, instance 0 of the IOD. -/
def satReport (s : State) : Report := { src := srcId dieIod 0 0x23, ts := s.ts, ctx := 0, addr := 0 }

/-- Some counter of a list has reached all ones by this change. -/
def newlyFull (before after : State) (lo : Nat) : Bool :=
  after.cnt lo == BitVec.allOnes 64 && before.cnt lo != BitVec.allOnes 64

/-- Add to a counter; the event of its saturation is raised once, when it reaches all ones (R451). -/
def State.bump (s : State) (lo n : Nat) : State :=
  let t := s.bumpRaw lo n
  if newlyFull s t lo then collect0 t (satReport t) none else t

/-- The corrected-error counter of a cluster's window counts types 0x0B, 0x0D, 0x0E and 0x11 (R523). -/
def countCe (s : State) (src : BitVec 16) : State :=
  let ty := srcTy src
  if ty = 0x0B ∨ ty = 0x0D ∨ ty = 0x0E ∨ ty = 0x11 then s.bump (Reg.clg (BitVec.ofNat 6 (srcInst src)) 0x10) 1 else s

/-- Collect a report, with the events of the counters it saturates. -/
def collect (s : State) (r : Report) (form : CrumbForm) : State :=
  let t := collect0 s r form
  let t := if newlyFull s t (Reg.fclCnt (srcTy r.src)) || newlyFull s t Reg.fclCrumbLost then
      collect0 t (satReport t) none else t
  countCe t r.src

/-- A source reports: behind a broken mirror pair the report waits for the gatherer's poll (R503). -/
def report (s : State) (r : Report) (form : CrumbForm) : State :=
  if s.fcl.broken.contains r.src then s.modFcl fun f => { f with behind := f.behind ++ [r] }
  else collect s r form

/-- Raise an event of a type at an instance of a die, detected now. -/
def raiseAt (s : State) (die inst ty : Nat) (ctx : Ctx) (addr : BitVec 64) : State :=
  report s { src := srcId die inst ty, ts := s.ts, ctx := ctx, addr := addr } none

/-- Raise an event with the crumb kind its rule names (R513). -/
def raiseAs (s : State) (die inst ty : Nat) (ctx : Ctx) (addr : BitVec 64) (kind count : Nat) (caddr : BitVec 64) : State :=
  report s { src := srcId die inst ty, ts := s.ts, ctx := ctx, addr := addr } (some (kind, count, caddr))

/-- Raise an event of the IOD, instance 0, with no context and no address. -/
def raise (s : State) (ty : Nat) : State := raiseAt s dieIod 0 ty 0 0

/-- Count a discarded token and raise its notice (R49). -/
def addDrop (s : State) (cl : BitVec 6) : State :=
  raiseAt (s.modCluster cl fun c => { c with tokDrop := satAdd c.tokDrop 1 }) (dieCd cl) cl.toNat 0x24 0 0

end Sys2Proof.Machine
end

