-- ==== Sys2Proof/Machine/Exceptions.lean ====
section
/-! DEFINITION. Core exceptions (R62 to R67): the core's state, the coalesced records of its launch, and the halt. -/

namespace Sys2Proof.Machine

/-- The exception codes (R63). -/
def excIllegal : BitVec 8 := 0x01
def excMisaligned : BitVec 8 := 0x02
def excSysreg : BitVec 8 := 0x03
def excContext : BitVec 8 := 0x04
def excPoison : BitVec 8 := 0x05
def excXlt : BitVec 8 := 0x06
def excLsRange : BitVec 8 := 0x07
def excArith : BitVec 8 := 0x08
def excBreak : BitVec 8 := 0x09

/-- The action of a code is HALT; the other action is WAIT (R63). -/
def isHaltCode (code : BitVec 8) : Bool := code != excArith && code != excBreak

/-- The launch with an identity. -/
def findLaunch (s : State) (id : Nat) : Option Launch := s.dsp.launches.find? (·.id == id)

/-- Change a launch. -/
def modLaunch (s : State) (id : Nat) (f : Launch → Launch) : State :=
  s.modDsp fun d => { d with launches := modFirst (·.id == id) f d.launches }

/-- Every line of a core's combining buffer is to be sent (R280); STORE_BUFFER_DRAIN carries it. -/
def flushMark (c : CoreSt) : CoreSt := { c with cb := c.cb.map fun l => { l with flush := true } }

/-- The state a core enters on an exception with HALT or WAIT; its reservation is cleared (R57, R95), its combining lines
are sent (R280). -/
def excState (halt : Bool) (c : CoreSt) : CoreSt :=
  flushMark { c with
    st := if halt then .halted else .waiting
    rsv := none
    wake := false
    pend := none
    xwait := none
    strDone := 0
    pairLo := none }

/-- Whether an exception joins an open record of its launch: same code, same PC (R66). -/
def joins (e : Exc) (r : ExcRec) : Bool := r.code == e.code && r.pc == e.pc

/-- The exception enters a record: it joins an open one, opens one while fewer than 16 are open, or waits (R66). -/
def recordExc (s : State) (core : CoreId) (e : Exc) (at_ : Stamp) (l : Launch) : Launch :=
  let halt := isHaltCode e.code || l.nowait
  if l.recs.any (joins e) then
    let up := fun r : ExcRec => { r with last := at_, cores := satAdd r.cores 1 }
    { l with recs := modFirst (joins e) up l.recs }
  else if l.recs.length < 16 then
    let li := logicalIndex s core.cl core.pos.toNat
    let r : ExcRec := ⟨s.ts, e.code, halt, core.cl, core.pos, li, e.pc, e.addr, e.word, at_, at_, 1⟩
    { l with recs := l.recs ++ [r] }
  else { l with excWait := l.excWait ++ [(core, e, at_)] }

/-- An exception of a launch enters its records, and with HALT halts the launch (R64, R66, R338). -/
def launchExc (s : State) (core : CoreId) (id : Nat) (e : Exc) : State :=
  match findLaunch s id with
  | none => s
  | some l =>
    let s := modLaunch s id (recordExc s core e s.ts)
    if isHaltCode e.code || l.nowait then haltLaunch s id stHalted else s

/-- A core raises an exception: it halts or waits, and its launch records it (R63 to R66). -/
def raiseExc (s : State) (core : CoreId) (code : BitVec 8) (addr word : Word) : State :=
  match (s.cluster core.cl).run with
  | none => s
  | some r =>
    let e : Exc := { code := code, pc := (s.core core).pc, addr := addr, word := word }
    let nowait := ((findLaunch s r.id).map (·.nowait)).getD false
    launchExc (s.modCore core (excState (isHaltCode code || nowait))) core r.id e

/-- A refusal or failure that reaches a core after its instruction has issued (R86, R108): the record names that
instruction; an Idle core stays Idle and a Halted core stays Halted. -/
def raiseLate (s : State) (core : CoreId) (id : Nat) (code : BitVec 8) (pc addr word : Word) : State :=
  let s := s.modCore core fun c => match c.st with
    | .idle => c
    | .halted => c
    | _ => excState true c
  launchExc s core id { code := code, pc := pc, addr := addr, word := word }

/-- A woken core runs again when CORE_WAKE follows (R57). -/
def wakeCore (s : State) (core : CoreId) : State := s.modCore core fun c => { c with wake := true }

end Sys2Proof.Machine
end

