-- ==== Sys2Proof/Machine/Caches.lean ====
section
/-! DEFINITION. The caches above the homes: L1, victim cache and instruction cache of a core (R180 to R184), the cluster L2
(R185 to R187, R227, R235, R236), and the messages a cluster sends (R238, R241). -/

namespace Sys2Proof.Machine

/-! ### L1, victim cache, instruction cache -/

/-- Remove a line from a core's L1, victim cache and instruction cache, and its reservation on that line (R35, R95). -/
def dropCopies (line : Nat) (c : CoreSt) : CoreSt :=
  { c with
    l1 := match mgetD none c.l1 (line % 512) with
      | some x => if x.line = line then mset c.l1 (line % 512) none else c.l1
      | none => c.l1
    victim := c.victim.filter (·.line != line)
    ic := mset c.ic (line % 128) ((mgetD [] c.ic (line % 128)).filter (·.line != line))
    rsv := if c.rsv = some line then none else c.rsv }

/-- Apply a function to every core of a cluster that the state holds. -/
def mapCores (s : State) (cl : BitVec 6) (f : Nat → CoreSt → CoreSt) : State :=
  { s with cores := mmap s.cores fun k c => if k / 256 = cl.toNat then f (k % 256) c else c }

/-- The L2 has lost a line: no L1, victim cache or instruction cache of the cluster keeps it (R35). -/
def dropLine (s : State) (cl : BitVec 6) (line : Nat) : State := mapCores s cl fun _ c => dropCopies line c

/-- A launch has written, and has used posted paths (R284, R285). -/
def launchWrote (s : State) (id : Nat) (path : BitVec 2) : State :=
  modLaunch s id fun l => { l with wrote := true, path := l.path ||| path }

/-- A write of a core reaches the L2: other cores lose their data copies and reservation, every core its instruction copy;
the writing core's copies take the bytes (R183, R95). own is false for a write that never updates the L1. -/
def storeReaches (s : State) (cl : BitVec 6) (pos : Nat) (line : Nat) : State :=
  mapCores (launchWrote s (((s.cluster cl).run.map (·.id)).getD 0) 0) cl fun p c =>
    if p = pos then { c with ic := mset c.ic (line % 128) ((mgetD [] c.ic (line % 128)).filter (·.line != line)) }
    else dropCopies line c

/-- A core's own copies take the masked bytes of a store that hits (R183). -/
def updateL1 (line : Nat) (ctx : Ctx) (m : Mask) (d : Line) (c : CoreSt) : CoreSt :=
  let up := fun x : L1Line => if x.line = line ∧ x.ctx = ctx then { x with data := mergeLine x.data m d } else x
  { c with l1 := mset c.l1 (line % 512) ((mgetD none c.l1 (line % 512)).map up), victim := c.victim.map up }

/-- Put a line into the L1; the valid line it displaces moves to the victim cache, whose oldest entry drops (R182). -/
def fillL1 (x : L1Line) (c : CoreSt) : CoreSt :=
  let old := mgetD none c.l1 (x.line % 512)
  let v := c.victim.filter fun y => !(y.line == x.line && y.ctx == x.ctx)
  let v := match old with
    | some y => if y.line = x.line ∧ y.ctx = x.ctx then v else (y :: v).take 8
    | none => v
  let rsv := match old, c.rsv with
    | some y, some r => if y.line = r ∧ y.line ≠ x.line then none else some r
    | _, r => r
  { c with l1 := mset c.l1 (x.line % 512) (some x), victim := v, rsv := rsv }

/-- Look a line up in the L1 and the victim cache; a victim hit swaps with the occupant of its set (R182). -/
def lookL1 (line : Nat) (ctx : Ctx) (c : CoreSt) : Option (L1Line × CoreSt) :=
  match mgetD none c.l1 (line % 512) with
  | some x => if x.line = line ∧ x.ctx = ctx then some (x, c) else
    match c.victim.find? fun y => y.line == line && y.ctx == ctx with
    | some y => some (y, fillL1 y c)
    | none => none
  | none =>
    match c.victim.find? fun y => y.line == line && y.ctx == ctx with
    | some y => some (y, fillL1 y c)
    | none => none

/-- Whether the L1 or the victim cache holds a line under a context. -/
def inL1 (line : Nat) (ctx : Ctx) (c : CoreSt) : Bool := (lookL1 line ctx c).isSome

/-- Put a line into the instruction cache: two ways, least recently used replaced (R178, R184). -/
def fillIc (x : L1Line) (c : CoreSt) : CoreSt :=
  let old := (mgetD [] c.ic (x.line % 128)).filter fun y => !(y.line == x.line && y.ctx == x.ctx)
  { c with ic := mset c.ic (x.line % 128) ((x :: old).take 2) }

/-- Look a line up in the instruction cache. -/
def lookIc (line : Nat) (ctx : Ctx) (c : CoreSt) : Option L1Line :=
  (mgetD [] c.ic (line % 128)).find? fun y => y.line == line && y.ctx == ctx

/-! ### Cluster L2 -/

/-- The valid way that holds a line, under any context (R227: at most one). -/
def l2Find (c : ClusterSt) (line : Nat) : Option (Nat × L2Way) :=
  (List.range 8).findSome? fun i =>
    match mgetD none c.l2 (l2Set line * 8 + i) with
    | some w => if w.line = line then some (l2Set line * 8 + i, w) else none
    | none => none

/-- Write a way. -/
def setWay (s : State) (cl : BitVec 6) (key : Nat) (w : Option L2Way) : State :=
  s.modCluster cl fun c => { c with l2 := mset c.l2 key w }

/-- Write a way as used; the used bits of the other 7 clear when all 8 would be set (R186). -/
def putWay (s : State) (cl : BitVec 6) (key : Nat) (w : L2Way) : State :=
  let base := key / 8 * 8
  let c := s.cluster cl
  let full := (List.range 8).all fun i => base + i = key || ((mgetD none c.l2 (base + i)).map (·.used)).getD false
  let l2 := if full then (List.range 8).foldl (fun m i =>
      mset m (base + i) ((mgetD none m (base + i)).map fun x => { x with used := false })) c.l2 else c.l2
  s.modCluster cl fun c => { c with l2 := mset l2 key (some { w with used := true }) }

/-- The core that a way is held for: the hold ends when its reservation clears (R282). -/
def holder (s : State) (cl : BitVec 6) (w : L2Way) : Option (BitVec 8) :=
  match w.hold with
  | some p => if (s.core ⟨cl, p⟩).rsv = some w.line then some p else none
  | none => none

/-- A reservation hold is in force on a way for a core other than the given one (R282). -/
def heldFromOthers (s : State) (core : CoreId) (w : L2Way) : Bool :=
  match holder s core.cl w with
  | some p => p != core.pos
  | none => false

/-- A way is stable: not in UP or KE, and not held (R186). -/
def stableWay (s : State) (cl : BitVec 6) (w : L2Way) : Bool :=
  (w.st == .S || w.st == .E || w.st == .M) && (holder s cl w).isNone

/-- The line has a transit state outside the ways: WB or FP (R235). -/
def inTransit (c : ClusterSt) (line : Nat) : Bool := c.wb.any (·.line == line) || c.miss.any (·.line == line)

/-- The slice of a line has a free miss slot, of 32 (R187). -/
def missSlot (c : ClusterSt) (line : Nat) : Bool :=
  decide ((c.miss.filter fun m => l2Set m.line / 1024 == l2Set line / 1024).length < 32)

/-- The slice of a line has a free write-back slot, of 16 (R187), and the cluster a VIC credit, of 2, for its home (R241). -/
def vicSlot (s : State) (cl : BitVec 6) (line : Nat) : Bool :=
  let c := s.cluster cl
  decide ((c.wb.filter fun m => l2Set m.line / 1024 == l2Set line / 1024).length < 16) &&
    decide (mgetD 0 c.vicUsed (homeOf s.mem line).toNat < 2)

/-! ### Messages -/

/-- Put a message in flight; a cluster that is isolated sends nothing (R255). -/
def send (s : State) (m : Msg) : State :=
  match m.src with
  | .cluster c => if (s.cluster c).isolated then s else { s with net := s.net ++ [m] }
  | _ => { s with net := s.net ++ [m] }

/-- Two messages are in one order: same source, destination and class (R231). -/
def msgClass : MsgKind → MsgClass
  | .rds | .rdx | .rdc | .wrp | .red | .rdh | .wrh => .req
  | .vcd | .vck | .vcn => .vic
  | .fsh | .fex | .frc | .inv | .bis => .fwd
  | .dat | .fdt | .hdt => .dat
  | _ => .rsp

/-- The die an agent sits on, numbered as R504 numbers the dies; a cluster's port is on its base die. -/
def dieOfAgent : Agent → Nat
  | .cluster c => if dieOfCluster c then 2 else 1
  | .home h => if dieOfHome h then 2 else 1
  | .dcx n => if n.getLsbD 2 then 2 else 1
  | _ => 0

/-- Messages pass between two dies: the same die, a die link that is up, or a base die that is held, whose requests end at the near
side (R463, R466). -/
def pathUp (s : State) (x y : Nat) : Bool :=
  x == y || (s.link (x + y - 1)).st == .up || s.boot.offDie.contains x || s.boot.offDie.contains y

/-- Take the oldest message of its class from a source to a destination, when it is of the given kind (R231). -/
def takeMsg (s : State) (src dst : Agent) (k : MsgKind) : Option (Msg × State) :=
  match takeFirst (fun m : Msg => m.src == src && m.dst == dst && msgClass m.kind == msgClass k) s.net with
  | some (m, r) =>
    if m.kind = k ∧ pathUp s (dieOfAgent src) (dieOfAgent dst) then some (m, { s with net := r }) else none
  | none => none

/-- Take the oldest message of its class that reaches a destination from any source, when it is of the given kind. -/
def takeAny (s : State) (dst : Agent) (k : MsgKind) : Option (Msg × State) :=
  match takeFirst (fun m : Msg => m.dst == dst && m.kind == k) s.net with
  | some (m, _) => takeMsg s m.src dst k
  | none => none

/-- A message about a line with every other field at rest. -/
def msg (k : MsgKind) (src dst : Agent) (line : Nat) (ctx : Ctx) : Msg :=
  { (default : Msg) with kind := k, src := src, dst := dst, line := line, ctx := ctx, req := src }

/-- A message from a cluster to the home of a line. -/
def toHome (s : State) (k : MsgKind) (cl : BitVec 6) (line : Nat) (ctx : Ctx) : Msg :=
  msg k (.cluster cl) (.home (homeOf s.mem line)) line ctx

/-- Send a VIC message, using one VIC credit of the line's home (R241). -/
def sendVic (s : State) (cl : BitVec 6) (k : MsgKind) (line : Nat) (d : Line) (poison : Bool) (tag : ReqTag) : State :=
  let h := (homeOf s.mem line).toNat
  send (s.modCluster cl fun c => { c with vicUsed := mset c.vicUsed h (mgetD 0 c.vicUsed h + 1) })
    { toHome s k cl line 0 with data := d, poison := poison, mask := Mask.full, tag := tag }

/-- Remove a way's line from the L2 and from the caches above it. -/
def forgetWay (s : State) (cl : BitVec 6) (key : Nat) (line : Nat) : State := dropLine (setWay s cl key none) cl line

/-- Remove a copy: with VCD and the write-back buffer when it is dirty, silently otherwise (R186, R227, R235). -/
def evictWay (s : State) (cl : BitVec 6) (key : Nat) (w : L2Way) (tag : ReqTag) : State :=
  let s := forgetWay s cl key w.line
  if w.st = .M then
    sendVic (s.modCluster cl fun c => { c with wb := c.wb ++ [{ line := w.line, data := w.data, poison := w.poison }] })
      cl .vcd w.line w.data w.poison tag
  else s

/-- A way can be removed now: stable, and, when dirty, with a slot and a credit for its VCD. -/
def evictable (s : State) (cl : BitVec 6) (w : L2Way) : Bool :=
  stableWay s cl w && (w.st != .M || vicSlot s cl w.line)

/-- The way a fill takes: the lowest invalid way, else the lowest stable way whose used bit is clear, else the lowest
stable way (R186). -/
def fillWay (s : State) (cl : BitVec 6) (line : Nat) : Option Nat :=
  let c := s.cluster cl
  let ways := (List.range 8).map fun i => (l2Set line * 8 + i, mgetD none c.l2 (l2Set line * 8 + i))
  match ways.find? (·.2.isNone) with
  | some (k, _) => some k
  | none =>
    let st := ways.filter fun e => (e.2.map (stableWay s cl)).getD false
    match st.find? fun e => !((e.2.map (·.used)).getD false) with
    | some (k, _) => some k
    | none => st.head?.map (·.1)

/-- Install a line in the L2, writing back or dropping the line it replaces; none while the fill must wait (R186). -/
def installLine (s : State) (cl : BitVec 6) (w : L2Way) : Option State :=
  match fillWay s cl w.line with
  | none => none
  | some k =>
    match mgetD none (s.cluster cl).l2 k with
    | none => some (putWay s cl k w)
    | some old => if evictable s cl old then some (putWay (evictWay s cl k old .vic) cl k w) else none

/-- Ask a line's home for a copy: the miss takes a slot and its REQ leaves (R187, R235). -/
def sendReq (s : State) (cl : BitVec 6) (core : BitVec 8) (ctx : Ctx) (line : Nat) (kind : MissKind) (u pf l1pf stream : Bool) :
    State :=
  let mk : MsgKind := match kind with
    | .rds => .rds
    | .rdx => .rdx
    | .rdc => .rdc
  let m : Miss := { kind := kind, line := line, ctx := ctx, core := core, pf := pf, l1pf := l1pf, stream := stream }
  send (s.modCluster cl fun c => { c with miss := c.miss ++ [m] })
    { toHome s mk cl line ctx with u := u, stream := stream, tag := .miss }

/-- What an access to the L2 met. -/
inductive L2Got where
  | hit (key : Nat) (w : L2Way)
  | wait (s : State)
  deriving Repr

/-- Look a line up for a core that needs its data; a miss sends RDS, or RDC where nothing may be allocated. A copy under
another context is removed first, and an access waits for transit states and for a hold (R36, R190, R227, R236, R282). -/
def l2Read (s : State) (core : CoreId) (ctx : Ctx) (line : Nat) (alloc pf l1pf : Bool) (stream : Bool := false) :
    L2Got :=
  let c := s.cluster core.cl
  let ask := fun s : State => if missSlot (s.cluster core.cl) line then
      .wait (sendReq s core.cl core.pos ctx line (if alloc then .rds else .rdc) false pf l1pf stream) else L2Got.wait s
  if inTransit c line then .wait s
  else match l2Find c line with
    | none => ask s
    | some (k, w) =>
      if w.ctx = ctx then (if heldFromOthers s core w then .wait s else .hit k w)
      else if evictable s core.cl w then ask (evictWay s core.cl k w .vic) else .wait s

/-- Packed space is read-only (R203): a copy of its line is never written, so the home is asked and refuses (log entry 9). -/
def isPackedAddr (line : Nat) : Bool := decide (tierBase .packed ≤ line * 64 ∧ line * 64 < tierBase .packed + tierSize .packed)

/-- Look a line up for a core that needs it exclusively: E or M, or KE where one more VCK may follow; S asks with RDX U = 1,
no copy with RDX (R190, R235, R244). -/
def l2Own (s : State) (core : CoreId) (ctx : Ctx) (line : Nat) (keOk : Bool) : L2Got :=
  let c := s.cluster core.cl
  let ask := fun (s : State) (u : Bool) => if missSlot (s.cluster core.cl) line then
      sendReq s core.cl core.pos ctx line .rdx u false false false else s
  if inTransit c line then .wait s
  else match l2Find c line with
    | none => .wait (ask s false)
    | some (k, w) =>
      if isPackedAddr line && stableWay s core.cl w then .wait (ask (evictWay s core.cl k w .vic) false)
      else if w.ctx = ctx then
        if heldFromOthers s core w then .wait s else
        match w.st with
        | .E => .hit k w
        | .M => .hit k w
        | .KE => if keOk then .hit k w else .wait s
        | .UP => .wait s
        | .S =>
          if missSlot c line then .wait (setWay (ask s true) core.cl k (some { w with st := .UP })) else .wait s
      else if evictable s core.cl w then .wait (ask (evictWay s core.cl k w .vic) false) else .wait s

/-- Send the write-through copy of a line just written: the line is KE until its VCKs have their CMPs (R235). -/
def writeThrough (s : State) (cl : BitVec 6) (key : Nat) (w : L2Way) (tag : ReqTag) : State :=
  sendVic (putWay s cl key { w with st := .KE, vck := w.vck + 1 }) cl .vck w.line w.data w.poison tag

end Sys2Proof.Machine
end

