-- ==== Sys2Proof/Machine/HomeMem.lean ====
section
/-! DEFINITION. Memory as a home slice sees it: the base cache with its way masks and ages (R199 to R202), the stacks
beneath, and poison (R259, R516). -/

namespace Sys2Proof.Machine

/-- Whether a line lies in packed space (R192). -/
def isPacked (line : Nat) : Bool := decide (tierBase .packed ≤ line * 64 ∧ line * 64 < tierBase .packed + tierSize .packed)

/-- Whether a line's address is reserved (R192, R195). -/
def isReserved (m : MemSt) (line : Nat) : Bool := (locate m (line * 64)).isNone

/-- The first key of a line's base-cache set (R199). -/
def bccBase (m : MemSt) (line : Nat) : Nat := ((homeOf m line).toNat * 4096 + bccSet m line) * 16

/-- The way that holds a line. -/
def bccFind (m : MemSt) (line : Nat) : Option (Nat × BccWay) :=
  (List.range 16).findSome? fun i =>
    match mgetD none m.bcc (bccBase m line + i) with
    | some w => if w.line = line then some (bccBase m line + i, w) else none
    | none => none

/-- Insert or remove a poison mark of a stack's line (R516). -/
def setPoison (m : MemSt) (line : Nat) (p : Bool) : MemSt :=
  { m with poison := if p then insertNat m.poison line else m.poison.filter (· != line) }

/-- Write a whole line to its stack, with or without the poison mark. -/
def stackWrite (m : MemSt) (line : Nat) (d : Line) (p : Bool) : MemSt :=
  setPoison { m with cells := wrLine m.cells line d } line p

/-- The requester class of an agent's request: of a cluster by BCC_CLASS_CLm, of the others by BCC_CLASS_AGT, on the
line's base die; mark 1 of a dispatcher request is Prism's (R202, R226). -/
def classOfAgent (s : State) (die : Bool) (a : Agent) (mark : BitVec 4) : Nat :=
  let agt := s.reg (Reg.mbd die (0x40000 + 0x60))
  let f := fun i => bitsN agt.toNat (4 * i) 4
  match a with
  | .cluster c => s.fld (Reg.mbd die (0x40040 + 4 * (c.toNat / 8))) (4 * (c.toNat % 8)) 4
  | .hpt => f 0
  | .svp => f 1
  | .fab => f 2
  | .dsp => if mark = 1 then f 4 else f 3
  | .walker => f 5
  | .loupe => f 6
  | .dcx _ => f 7
  | .home _ => 0

/-- The ways a class may fill on a die (R202). -/
def wayMask (s : State) (die : Bool) (cls : Nat) : BitVec 16 := (s.reg (Reg.mbd die (0x40000 + 4 * cls))).extractLsb' 0 16

/-- Ages rise on the masked ways until one is 3; at most three rounds (R200). -/
def ageUp (m : MemSt) (base : Nat) (mask : BitVec 16) : Nat → MemSt
  | 0 => m
  | n + 1 =>
    let hit := (List.range 16).any fun i => mask.getLsbD i && ((mgetD none m.bcc (base + i)).map (·.age)).getD 0 == 3
    if hit then m else
    let up := fun (b : SMap (Option BccWay)) (i : Nat) => if mask.getLsbD i then
        mset b (base + i) ((mgetD none b (base + i)).map fun w => { w with age := min 3 (w.age + 1) }) else b
    ageUp { m with bcc := (List.range 16).foldl up m.bcc } base mask n

/-- The victim way of a fill among the masked ways, with the ages it leaves (R200); none when the mask is 0. -/
def bccVictim (m : MemSt) (base : Nat) (mask : BitVec 16) : Option (Nat × MemSt) :=
  let ways := (List.range 16).filter fun i => mask.getLsbD i
  match ways.find? fun i => (mgetD none m.bcc (base + i)).isNone with
  | some i => some (base + i, m)
  | none =>
    let m := ageUp m base mask 3
    match ways.find? fun i => ((mgetD none m.bcc (base + i)).map (·.age)).getD 0 == 3 with
    | some i => some (base + i, m)
    | none => none

/-- Fill a line into the base cache; a dirty victim goes to its stack, and without a way the line passes through to its
stack when dirty (R200 to R202). -/
def bccFill (s : State) (line : Nat) (d : Line) (poison dirty : Bool) (cls : Nat) (stream : Bool) : State :=
  let m := s.mem
  let mask := wayMask s (dieOfHome (homeOf m line)) cls
  match bccVictim m (bccBase m line) mask with
  | none => if dirty then s.modMem fun m => stackWrite m line d poison else s
  | some (k, m) =>
    let m := match mgetD none m.bcc k with
      | some w => if w.dirty then stackWrite m w.line w.data w.poison else m
      | none => m
    let w : BccWay := ⟨line, dirty, if stream then 3 else 1, d, poison⟩
    { s with mem := { m with bcc := mset m.bcc k (some w) } }

/-- What the home holds of a line, without any effect: its data and poison mark (R199). -/
def memPeek (m : MemSt) (line : Nat) : Line × Bool :=
  match bccFind m line with
  | some (_, w) => (w.data, w.poison)
  | none => (rdLine m.cells line, m.poison.contains line)

/-- A home reads a line for a requester: a hit takes age 0, a miss fills (R199 to R201). -/
def memRead (s : State) (line : Nat) (cls : Nat) (stream : Bool) : Line × Bool × State :=
  match bccFind s.mem line with
  | some (k, w) => (w.data, w.poison, s.modMem fun m => { m with bcc := mset m.bcc k (some { w with age := 0 }) })
  | none =>
    let d := rdLine s.mem.cells line
    let p := s.mem.poison.contains line
    (d, p, bccFill s line d p false cls stream)

/-- The poison mark after a write: set by a poisoned write, cleared by an unpoisoned full line, else kept (R259). -/
def poisonAfter (was set : Bool) (mask : Mask) : Bool := set || (was && mask != Mask.full)

/-- A home writes the masked bytes of a line: a hit updates the line, a miss fills the merged line dirty (R199 to R202,
R259). -/
def memWrite (s : State) (line : Nat) (mask : Mask) (d : Line) (poison : Bool) (cls : Nat) (stream : Bool) : State :=
  match bccFind s.mem line with
  | some (k, w) =>
    let w' : BccWay := ⟨line, true, 0, mergeLine w.data mask d, poisonAfter w.poison poison mask⟩
    s.modMem fun m => { m with bcc := mset m.bcc k (some w') }
  | none =>
    let old := rdLine s.mem.cells line
    bccFill s line (mergeLine old mask d) (poisonAfter (s.mem.poison.contains line) poison mask) true cls stream

/-- Mark a line poisoned where the home holds it (R256, R258). -/
def memPoison (s : State) (line : Nat) : State :=
  match bccFind s.mem line with
  | some (k, w) => s.modMem fun m => { m with bcc := mset m.bcc k (some { w with poison := true, dirty := true }) }
  | none => s.modMem fun m => setPoison m line true

/-! ### Directory (R232 to R234) -/

/-- The first key of a line's directory set. -/
def dirBase (m : MemSt) (line : Nat) : Nat := ((homeOf m line).toNat * 4096 + dirSet line) * 16

/-- The entry of a line. -/
def dirFind (m : MemSt) (line : Nat) : Option (Nat × DirEntry) :=
  (List.range 16).findSome? fun i =>
    match mgetD none m.dir (dirBase m line + i) with
    | some e => if e.line = line then some (dirBase m line + i, e) else none
    | none => none

/-- The entry of a line, or one that names no copy. -/
def dirGet (m : MemSt) (line : Nat) : DirEntry :=
  match dirFind m line with
  | some (_, e) => e
  | none => ⟨.N, .I, false, line, 0⟩

/-- The entry's cluster state that a sharer set gives: none left is N (R233). -/
def cstOf (cst : Cst) (sh : BitVec 64) : Cst := if sh = 0 then .N else cst

/-- Write an entry in a way: an entry that names no copy leaves the way invalid (R233); USED is set, and the other 15 clear
when all 16 would be set (R186, R232). -/
def dirPut (m : MemSt) (key : Nat) (e : DirEntry) : MemSt :=
  if e.cst = .N ∧ e.hst = .I then { m with dir := mset m.dir key none }
  else
    let base := key / 16 * 16
    let full := (List.range 16).all fun i => base + i = key || ((mgetD none m.dir (base + i)).map (·.used)).getD false
    let clear := fun (b : SMap (Option DirEntry)) (i : Nat) =>
      mset b (base + i) ((mgetD none b (base + i)).map fun x => { x with used := false })
    let dir := if full then (List.range 16).foldl clear m.dir else m.dir
    { m with dir := mset dir key (some { e with used := true }) }

/-- Set the entry of a line that has a way, or that needs none. -/
def dirSetLine (m : MemSt) (line : Nat) (way : Option Nat) (e : DirEntry) : MemSt :=
  match dirFind m line with
  | some (k, _) => dirPut m k e
  | none =>
    match way with
    | some k => dirPut m k e
    | none => m

/-- The clusters of a sharer set, lowest first. -/
def sharersOf (sh : BitVec 64) : List (BitVec 6) := clustersOf sh
/-- The bit of a cluster. -/
def clBit (c : BitVec 6) : BitVec 64 := 1#64 <<< c.toNat

/-! ### Bias and owner tags (R249, R304) -/

/-- The 32 MiB page of a line. -/
def pageOf (line : Nat) : Nat := line * 64 / 2 ^ 25

/-- The pages of decoder 0's range, device physical addresses 0 to 64 GiB − 1 (R22, R409). -/
def earlyPage (page : Nat) : Bool := decide (page < 2048)

/-- The key of a page in a base die's bias and owner tables. -/
def tabKey (die : Bool) (page : Nat) : Nat := page + (if die then 2 ^ 20 else 0)

/-- The bias bit of a page in a base die's table: 1 is shared (R249). -/
def sharedAt (m : MemSt) (die : Bool) (page : Nat) : Bool :=
  match mgetD none m.bias (tabKey die page) with
  | some b => b
  | none => m.biasEarly.getLsbD (if die then 1 else 0) && earlyPage page

/-- A page is in shared bias. -/
def sharedBias (m : MemSt) (page : Nat) : Bool := sharedAt m false page || sharedAt m true page

/-- Set the bias bit of a page in both tables. -/
def setBias (m : MemSt) (page : Nat) (shared : Bool) : MemSt :=
  { m with bias := mset (mset m.bias (tabKey false page) (some shared)) (tabKey true page) (some shared) }

/-- The owner tag of a page in a base die's table (R304). -/
def ownerAt (m : MemSt) (die : Bool) (page : Nat) : Ctx := mgetD 0 m.owner (tabKey die page)

/-- The owner tag of a page as the dispatcher compares it: that of the page's first line. -/
def ownerTag (m : MemSt) (page : Nat) : Ctx := ownerAt m (dieOfHome (homeOf m (page * 2 ^ 19))) page

/-- A page is flipping from shared to device (R253). -/
def isFlipping (m : MemSt) (page : Nat) : Bool := m.flipping.any (·.1 == page)

/-- The context check (R304): the tag matches, the page is open, or the request is firmware's. -/
def ctxPasses (m : MemSt) (ctx : Ctx) (line : Nat) : Bool :=
  let tag := ownerAt m (dieOfHome (homeOf m line)) (pageOf line)
  ctx == 0 || tag == ctx || tag == 0xFFFFF

end Sys2Proof.Machine
end

