-- ==== Sys2Proof/Machine/Home.lean ====
section
/-! DEFINITION. The home slice and its arbiter (R228 to R234, R239 to R246, R250 to R259): queue entries and retries, one
transaction per line, the snoops it sends, what it replies, and the victims it takes. -/

namespace Sys2Proof.Machine

/-- The agent of a home slice. -/
def homeAgent (h : BitVec 8) : Agent := .home h

/-- The register window offset of a slice's base die. -/
def homeReg (h : BitVec 8) (o : Nat) : Nat := Reg.mbd (dieOfHome h) o

/-- A line is busy at its home: a transaction runs on it or recalls it (R228, R234). -/
def lineBusy (s : State) (h : BitVec 8) (line : Nat) : Bool :=
  (s.home h).txns.any fun t => t.line == line || t.old == some line

/-! ### Entries and retries (R241, R242) -/

/-- Shared entries of a slice in use, of 64: queued, running, and held for a granted requester. -/
def sharedUsed (x : HomeSt) : Nat :=
  (x.queue.filter (·.shared)).length + (x.txns.filter fun t => t.entry && !t.scan).length + (x.granted.filter (·.2)).length

/-- Reserved entries of a requester in use, of 2. -/
def reservedUsed (x : HomeSt) (a : Agent) : Nat :=
  (x.queue.filter fun q => !q.shared && q.msg.src == a).length +
    (x.txns.filter fun t => !t.entry && !t.scan && t.req.src == a).length +
    (x.granted.filter fun g => !g.2 && g.1 == a).length

/-- A request arrives at a home (R242): its granted entry, a free shared entry, a reserved entry, or RTY. -/
def arrive (s : State) (h : BitVec 8) (m : Msg) : State :=
  let x := s.home h
  let put := fun (s : State) (shared : Bool) => s.modHome h fun x => { x with queue := x.queue ++ [⟨m, shared⟩] }
  match takeFirst (fun g : Agent × Bool => g.1 == m.src) x.granted with
  | some (g, r) => put (s.modHome h fun x => { x with granted := r }) g.2
  | none =>
    if sharedUsed x < 64 then put s true
    else if reservedUsed x m.src < 2 then put s false
    else
      let s := s.bump (homeReg h Reg.homeRetry) 1
      let s := s.modHome h fun x => { x with retry := if x.retry.contains m.src then x.retry else x.retry ++ [m.src] }
      { s with net := s.net ++ [{ m with kind := .rty, src := homeAgent h, dst := m.src, orig := m.kind }] }

/-- A queue entry frees: a reserved one goes to its own requester, a shared one to the oldest requester of the retry
order, which receives CRG (R242). -/
def freeEntry (s : State) (h : BitVec 8) (src : Agent) (shared : Bool) : State :=
  let x := s.home h
  let dst := if shared then x.retry.head? else x.retry.find? (· == src)
  match dst with
  | none => s
  | some a =>
    let s := s.modHome h fun x => { x with retry := x.retry.filter (· != a), granted := x.granted ++ [(a, shared)] }
    { s with net := s.net ++ [msg .crg (homeAgent h) a 0 0] }

/-! ### Replies -/

/-- A message of a home that answers a request: it carries the request's tag. -/
def answer (h : BitVec 8) (m : Msg) (k : MsgKind) : Msg :=
  { msg k (homeAgent h) m.src m.line m.ctx with tag := m.tag, stream := m.stream }

/-- Send a message from a home. -/
def homeSend (s : State) (m : Msg) : State := { s with net := s.net ++ [m] }

/-- The base die of a home is held (R466). -/
def homeHeld (s : State) (h : BitVec 8) : Bool := s.boot.offDie.contains (dieMbd (dieOfHome h))

/-- What a request for a line homed on a held die gets: a read poison, a write nothing but its CMP (R466). -/
def heldAnswer (s : State) (h : BitVec 8) (m : Msg) : State :=
  let dat := fun g : Grant => homeSend s { answer h m .dat with data := Config.poisonData m.line, poison := true, grant := g }
  match m.kind with
  | .rds => dat .E
  | .rdx => dat .E
  | .rdc => dat .none
  | .rdh => dat .hostI
  | .vcd | .vck | .vcn => homeSend s { answer h m .cmp with flag := true, orig := m.kind }
  | _ => homeSend s (answer h m .cmp)

/-! ### Victims (R230, R246) -/

/-- Apply a VIC message at its home: VCD of the owner and VCK of the owner write memory, VCN clears the sharer bit; CMP
returns the credit (R246). -/
def vicApply (s : State) (h : BitVec 8) (m : Msg) : State :=
  let e := dirGet s.mem m.line
  match m.src with
  | .cluster c =>
    let own := e.cst == .X && e.sharers.getLsbD c.toNat
    let cls := classOfAgent s (dieOfHome h) m.src 0
    let s := match m.kind with
      | .vcd => if own then
          let s := memWrite s m.line Mask.full m.data m.poison cls false
          s.modMem fun x => dirSetLine x m.line none { e with cst := .N, sharers := 0 }
        else s
      | .vck => if own then memWrite s m.line Mask.full m.data m.poison cls false else s
      | _ =>
        let sh := e.sharers &&& ~~~clBit c
        s.modMem fun x => dirSetLine x m.line none { e with cst := cstOf e.cst sh, sharers := sh }
    homeSend s { answer h m .cmp with flag := true, orig := m.kind }
  | _ => s

/-- Apply every waiting VIC message of a line, in arrival order (R230). -/
def vicDrain (s : State) (h : BitVec 8) (line : Nat) : State :=
  let hit := (s.home h).vic.filter (·.line == line)
  let s := s.modHome h fun x => { x with vic := x.vic.filter (·.line != line) }
  hit.foldl (fun s m => vicApply s h m) s

/-- A transaction ends: its entry frees, and waiting VIC messages of its lines are applied (R228, R230, R242). -/
def endTxn (s : State) (h : BitVec 8) (t : Txn) : State :=
  let s := s.modHome h fun x => { x with txns := x.txns.filter (·.line != t.line) }
  let s := vicDrain s h t.line
  let s := match t.old with
    | some l => vicDrain s h l
    | none => s
  if t.scan then s else freeEntry s h t.req.src t.entry

/-- Write back a transaction into its slice's table. -/
def putTxn (s : State) (h : BitVec 8) (t : Txn) : State :=
  s.modHome h fun x => { x with txns := x.txns.map fun u => if u.line = t.line then t else u }

/-! ### Completion of a transaction (R244, R245) -/

/-- Reply a line to the requester with a granted state. -/
def sendDat (s : State) (h : BitVec 8) (t : Txn) (g : Grant) (d : Line) (p : Bool) : State :=
  homeSend s { answer h t.req .dat with data := d, poison := p, grant := g }

/-- The directory after a transaction. -/
def setDir (s : State) (t : Txn) (e : DirEntry) : State := s.modMem fun m => dirSetLine m t.line t.way e

/-- Whether a page is served to the host as in shared bias: not device, and not flipping (R250, R253). -/
def hostShared (m : MemSt) (line : Nat) : Bool :=
  sharedAt m (dieOfHome (homeOf m line)) (pageOf line) && !isFlipping m (pageOf line)

/-- The one cluster that sends a request. -/
def reqCluster (m : Msg) : Option (BitVec 6) :=
  match m.src with
  | .cluster c => some c
  | _ => none

/-- Sharers that answered that they hold nothing. -/
def nprBits (t : Txn) : BitVec 64 := t.npr.foldl (fun b c => b ||| clBit c) 0

/-- What a request makes of the line and what it replies, after every snoop has been answered (R244, R245). rd is the line
as a decompressor expanded it, where one did. -/
def finish (s : State) (h : BitVec 8) (t : Txn) (rd : Option (Line × Bool)) : State :=
  let m := t.req
  let e := dirGet s.mem t.line
  let cls := classOfAgent s (dieOfHome h) m.src m.cls
  let cb := match reqCluster m with
    | some c => clBit c
    | none => 0
  let get := fun s : State => match rd with
    | some (d, p) => (d, p, s)
    | none => memRead s t.line cls m.stream
  let dat := fun (s : State) (g : Grant) => let (d, p, s) := get s; sendDat s h t g d p
  let ack := fun s : State => putTxn s h { t with phase := .ack, wait := [] }
  let none' : DirEntry := ⟨.N, .I, e.used, t.line, 0⟩
  match m.kind with
  | .rds =>
    if t.sent then
      let sh := (if e.cst = .X then e.sharers else e.sharers &&& ~~~nprBits t) ||| cb
      ack (setDir s t { e with cst := .S, sharers := sh })
    else match e.cst with
      | .N => if e.hst = .I then ack (dat (setDir s t { e with cst := .X, sharers := cb, hst := .I }) .E)
              else ack (dat (setDir s t { e with cst := .S, sharers := cb, hst := .S }) .S)
      | .S => ack (dat (setDir s t { e with cst := .S, sharers := (e.sharers &&& ~~~nprBits t) ||| cb }) .S)
      | .X => ack (dat (setDir s t { e with cst := .X, sharers := cb }) .E)
  | .rdx =>
    let up := m.u && e.cst == .S && (e.sharers &&& cb) != 0
    let s := setDir s t { e with cst := .X, sharers := cb, hst := .I }
    if t.sent then ack s
    else if up then ack (homeSend s (answer h m .gnt))
    else ack (dat s .E)
  | .rdc =>
    let s := if e.cst = .X ∧ !t.sent then setDir s t { e with cst := .N, sharers := 0 } else s
    if t.sent then endTxn s h t else endTxn (dat s .none) h t
  | .wrp =>
    let keep := m.k && e.cst == .S && (e.sharers &&& cb) != 0
    let s := memWrite s t.line m.mask m.data m.poison cls m.stream
    let s := setDir s t (if keep then { e with sharers := cb, hst := .I } else none')
    endTxn (homeSend s (answer h m .cmp)) h t
  | .wrh =>
    let s := setDir (memWrite s t.line m.mask m.data m.poison cls false) t none'
    endTxn (homeSend s (answer h m .cmp)) h t
  | .red => putTxn (setDir s t none') h { t with phase := .nmu, wait := [] }
  | .rdh =>
    if hostShared s.mem t.line then
      match m.hst with
      | .I =>
        let s := if e.cst = .X ∧ !t.sent then setDir s t { e with cst := .N, sharers := 0 } else s
        if t.sent then ack s else ack (dat s .hostI)
      | .S =>
        if t.sent then ack (setDir s t { e with cst := .S, hst := .S })
        else
          let e := if e.cst = .X then { e with cst := .N, sharers := 0 } else e
          ack (dat (setDir s t { e with hst := .S }) .hostS)
      | .A => ack (dat (setDir s t { none' with hst := .A }) .hostA)
    else
      let s := if e.cst = .X ∧ !t.sent then setDir s t { e with cst := .N, sharers := 0 } else s
      if t.sent then ack s else ack (dat s .hostI)
  | _ => endTxn s h t

/-- Whether the completion reads memory, so that a packed line that the base cache misses goes to its decompressor (R203). -/
def needsExpand (s : State) (t : Txn) : Bool := !t.sent && isPacked t.line && (bccFind s.mem t.line).isNone

/-- Nothing is outstanding on a transaction. -/
def settled (t : Txn) : Bool := t.wait.isEmpty && t.bis.isNone && t.fdtWait.isEmpty && t.vcd.isEmpty

/-- Complete the transaction, or send it to the decompressor. -/
def complete (s : State) (h : BitVec 8) (t : Txn) : State :=
  if needsExpand s t then putTxn s h { t with phase := .expand } else finish s h t none

/-! ### Snoops (R237, R244, R245, R250, R251) -/

/-- Send a FWD to a cluster for a transaction. -/
def sendFwd (s : State) (h : BitVec 8) (t : Txn) (line : Nat) (k : MsgKind) (c : BitVec 6) : State :=
  homeSend s { msg k (homeAgent h) (.cluster c) line t.req.ctx with req := t.req.src, tag := t.req.tag, hst := t.req.hst, orig := t.req.kind }

/-- Send INV to a list of clusters. -/
def sendInvs (s : State) (h : BitVec 8) (t : Txn) (line : Nat) (cs : List (BitVec 6)) : State :=
  cs.foldl (fun s c => sendFwd s h t line .inv c) s

/-- Send a back-invalidation snoop to the host port. -/
def sendBis (s : State) (h : BitVec 8) (line : Nat) (k : BisKind) : State :=
  homeSend s { msg .bis (homeAgent h) .hpt line 0 with bis := k }

/-- The nearest sharer other than the requester, 1 or 2 hops away; the lowest number at equal distance (R237). -/
def nearest (sh : BitVec 64) (c : BitVec 6) : Option (BitVec 6) :=
  let others := (sharersOf sh).filter (· != c)
  match others.find? fun o => hops o c == 1 with
  | some o => some o
  | none => others.find? fun o => hops o c == 2

/-- The snoops of a request: the FWD kind and the clusters it goes to, and the back-invalidation to the host (R244, R245). -/
def snoops (s : State) (t : Txn) : MsgKind × List (BitVec 6) × Option BisKind :=
  let m := t.req
  let e := dirGet s.mem t.line
  let all := sharersOf e.sharers
  let owner := if e.cst = .X then all else []
  let others := match reqCluster m with
    | some c => all.filter (· != c)
    | none => all
  let inv := if e.hst = .I then none else some BisKind.inv
  match m.kind with
  | .rds =>
    match reqCluster m, e.cst with
    | some _, .N => (.fsh, [], if e.hst = .A then some .data else none)
    | some c, .S => (.fsh, (nearest e.sharers c).toList, none)
    | some c, .X => (.fsh, owner.filter (· != c), none)
    | none, _ => (.fsh, [], none)
  | .rdx => if e.cst = .X then (.fex, others, none) else (.inv, others, inv)
  | .rdc => (.frc, owner, if e.hst = .A then some .cur else none)
  | .wrp =>
    let keep := m.k && e.cst == .S && (match reqCluster m with
      | some c => e.sharers.getLsbD c.toNat
      | none => false)
    (.inv, if keep then others else all, inv)
  | .red => (.inv, all, inv)
  | .wrh => (.inv, all, inv)
  | .rdh =>
    if hostShared s.mem t.line then
      match m.hst with
      | .I => (.frc, owner, if e.hst = .A then some .cur else none)
      | .S => (.fsh, owner, none)
      | .A => (.inv, all, none)
    else (.frc, owner, none)
  | _ => (.inv, [], none)

/-- Send a transaction's snoops, or complete it when it needs none. -/
def beginSnoop (s : State) (h : BitVec 8) (t : Txn) : State :=
  let (k, cs, bis) := snoops s t
  let t := { t with phase := .snoop, wait := cs, bis := bis, fwdTs := s.ts, npr := [], sent := false }
  let s := cs.foldl (fun s c => sendFwd s h t t.line k c) (putTxn s h t)
  let s := match bis with
    | some b => sendBis s h t.line b
    | none => s
  if settled t then complete s h t else s

/-- Go on with a transaction once everything it awaited has come: after a recall the old entry's way is free (R234). -/
def progress (s : State) (h : BitVec 8) (t : Txn) : State :=
  if !settled t then putTxn s h t
  else match t.phase with
    | .recall =>
      let s := match t.way with
        | some k => s.modMem fun m => { m with dir := mset m.dir k none }
        | none => s
      let s := s.bump (homeReg h Reg.homeRecall) 1
      let s := match t.old with
        | some l => vicDrain s h l
        | none => s
      beginSnoop (putTxn s h { t with old := none }) h { t with old := none }
    | .snoop => if t.scan then endTxn (putTxn s h t) h t else complete (putTxn s h t) h t
    | _ => putTxn s h t

/-! ### Acceptance (R228 to R230, R234) -/

/-- Whether a request needs a directory entry for its line (R233). -/
def needsEntry (s : State) (m : Msg) : Bool :=
  match m.kind with
  | .rds => true
  | .rdx => true
  | .rdh => hostShared s.mem m.line && m.hst != .I
  | _ => false

/-- The way a new entry takes: the lowest invalid way, else the lowest way whose USED bit is clear and whose line is not
busy (R234). -/
def entryWay (s : State) (h : BitVec 8) (line : Nat) : Option (Nat × Option DirEntry) :=
  let ways := (List.range 16).map fun i => (dirBase s.mem line + i, mgetD none s.mem.dir (dirBase s.mem line + i))
  match ways.find? (·.2.isNone) with
  | some e => some e
  | none =>
    let free := ways.filter fun e => match e.2 with
      | some d => !lineBusy s h d.line
      | none => true
    match free.find? fun e => !((e.2.map (·.used)).getD true) with
    | some e => some e
    | none => free.head?

/-- A home refuses a request that fails the context check, names a reserved address, or would write or own a packed line
(R192, R203, R229): NCX, and nothing changes but the counter of discarded adds (R216). -/
def refuses (s : State) (m : Msg) : Bool :=
  let host := m.kind == .rdh || m.kind == .wrh
  let writes := m.kind == .rdx || m.kind == .wrp || m.kind == .red || m.kind == .wrh
  isReserved s.mem m.line || (isPacked m.line && writes) || (!host && m.src != .hpt && !ctxPasses s.mem m.ctx m.line)

/-- An add that is discarded counts and raises its notice (R216). -/
def nmuDrop (s : State) (h : BitVec 8) : State :=
  raiseAt (s.bump (homeReg h Reg.nmuDrop) 1) (dieMbd (dieOfHome h)) (h.toNat % 128) 0x25 0 0

/-- Accept a request that has left the queue. -/
def acceptReq (s : State) (h : BitVec 8) (q : QEntry) : State :=
  let m := q.msg
  let s := { s with snooped := s.snooped.filter (·.2 != m.line) }
  if refuses s m then
    let s := homeSend s (answer h m .ncx)
    let s := if m.kind = .red then nmuDrop s h else s
    freeEntry s h m.src q.shared
  else
    let t : Txn := { (default : Txn) with line := m.line, req := m, entry := q.shared, phase := .snoop, fwdTs := s.ts }
    let add := fun (s : State) (t : Txn) => s.modHome h fun x => { x with txns := x.txns ++ [t] }
    if needsEntry s m && (dirFind s.mem m.line).isNone then
      match entryWay s h m.line with
      | none => s.modHome h fun x => { x with queue := q :: x.queue }
      | some (k, none) => beginSnoop (add s { t with way := some k }) h { t with way := some k }
      | some (k, some d) =>
        let cs := sharersOf d.sharers
        let bis := if d.hst = .I then none else some BisKind.inv
        let t := { t with way := some k, old := some d.line, phase := .recall, wait := cs, bis := bis }
        let s := sendInvs (add s t) h t d.line cs
        match bis with
        | some b => sendBis s h d.line b
        | none => s
    else beginSnoop (add s t) h t

/-! ### Responses -/

/-- The transaction that awaits something about a line. -/
def txnOf (s : State) (h : BitVec 8) (line : Nat) : Option Txn :=
  (s.home h).txns.find? fun t => t.line == line || t.old == some line

/-- A cluster answered a FWD with data sent: a FDT may follow (R247). -/
def onFak (s : State) (h : BitVec 8) (m : Msg) (c : BitVec 6) : State :=
  match txnOf s h m.line with
  | none => s
  | some t => if !t.wait.contains c then s else
    let got := t.fdtGot.contains c
    progress s h { t with wait := t.wait.filter (· != c), sent := true, fdtGot := t.fdtGot.filter (· != c),
                          fdtWait := if m.flag && !got then c :: t.fdtWait else t.fdtWait }

/-- A cluster answered that it holds nothing. A dead cluster's owned line is poisoned first (R256). -/
def onNpr (s : State) (h : BitVec 8) (m : Msg) (c : BitVec 6) (dead : Bool) : State :=
  match txnOf s h m.line with
  | none => s
  | some t => if !t.wait.contains c && !t.vcd.contains c then s else
    let e := dirGet s.mem m.line
    let s := if dead && e.cst == .X && e.sharers.getLsbD c.toNat then
        (memPoison s m.line).bump (homeReg h Reg.homePoison) 1 else s
    progress s h { t with wait := t.wait.filter (· != c), vcd := t.vcd.filter (· != c), npr := c :: t.npr }

/-- Dirty data came back: it is written to memory; for an INV it is the answer itself (R244, R247). -/
def onFdt (s : State) (h : BitVec 8) (m : Msg) (c : BitVec 6) : State :=
  match txnOf s h m.line with
  | none => s
  | some t =>
    let s := memWrite s m.line Mask.full m.data m.poison (classOfAgent s (dieOfHome h) t.req.src t.req.cls) false
    if m.flag then progress s h { t with wait := t.wait.filter (· != c), npr := c :: t.npr }
    else if t.fdtWait.contains c then progress s h { t with fdtWait := t.fdtWait.filter (· != c) }
    else putTxn s h { t with fdtGot := c :: t.fdtGot }

/-- The line is in the cluster's write-back buffer: its VCD is awaited, or applied at once when it already waits (R244). -/
def onVpd (s : State) (h : BitVec 8) (m : Msg) (c : BitVec 6) : State :=
  match txnOf s h m.line with
  | none => s
  | some t => if !t.wait.contains c then s else
    let t := { t with wait := t.wait.filter (· != c) }
    match takeFirst (fun v : Msg => v.line == m.line && v.src == .cluster c && v.kind == .vcd) (s.home h).vic with
    | some (v, r) => progress (vicApply (s.modHome h fun x => { x with vic := r }) h v) h { t with npr := c :: t.npr }
    | none => putTxn s h { t with vcd := c :: t.vcd }

/-- A VIC message arrives: applied at once when the line is free and no older one waits, applied to a transaction that
awaits it, or left waiting (R230, R246). -/
def onVic (s : State) (h : BitVec 8) (m : Msg) (c : BitVec 6) : State :=
  match txnOf s h m.line with
  | none => if (s.home h).vic.any (·.line == m.line) then s.modHome h fun x => { x with vic := x.vic ++ [m] } else vicApply s h m
  | some t =>
    if m.kind == .vcd && t.vcd.contains c then
      progress (vicApply s h m) h { t with vcd := t.vcd.filter (· != c), npr := c :: t.npr }
    else s.modHome h fun x => { x with vic := x.vic ++ [m] }

/-- Apply every queued host write of a line, in arrival order (R252). -/
def applyQueuedWrh (s : State) (h : BitVec 8) (line : Nat) : State :=
  let hit := (s.home h).queue.filter fun q => q.msg.kind == .wrh && q.msg.line == line
  let s := s.modHome h fun x => { x with queue := x.queue.filter fun q => !(q.msg.kind == .wrh && q.msg.line == line) }
  hit.foldl (fun s q =>
    let s := memWrite s line q.msg.mask q.msg.data q.msg.poison (classOfAgent s (dieOfHome h) .hpt 0) false
    freeEntry (homeSend s (answer h q.msg .cmp)) h q.msg.src q.shared) s

/-- The host's answer to a back-invalidation (R251, R252): the state it is left in, or a bad answer counted. -/
def onBir (s : State) (h : BitVec 8) (line : Nat) (rsp : HostState) (hadHdt : Bool) : State :=
  match txnOf s h line with
  | none => s
  | some t =>
    match t.bis with
    | none => s
    | some k =>
      let e := dirGet s.mem line
      let s := if !hadHdt && e.hst == .A then applyQueuedWrh s h line else s
      let setH := fun (s : State) (x : HostState) => s.modMem fun m => dirSetLine m line none { dirGet m line with hst := x }
      match k, rsp with
      | .inv, .I => progress (setH s .I) h { t with bis := none }
      | .inv, _ => progress (setH (s.bump Reg.hptBadop 1) .I) h { t with bis := none }
      | .data, .A => sendBis (putTxn (s.bump Reg.hptBadop 1) h { t with bis := some .inv }) h line .inv
      | _, r => progress (setH s r) h { t with bis := none }

/-- The host's modified data for a back-invalidation (R252). -/
def onHdt (s : State) (h : BitVec 8) (m : Msg) : State :=
  memWrite s m.line m.mask m.data m.poison (classOfAgent s (dieOfHome h) .hpt 0) false

/-- A grant was received: the transaction ends (R240). -/
def onAck (s : State) (h : BitVec 8) (line : Nat) (src : Agent) : State :=
  match (s.home h).txns.find? fun t => t.line == line && t.phase == .ack && t.req.src == src with
  | some t => endTxn s h t
  | none => s

end Sys2Proof.Machine
end

