-- ==== Sys2Proof/Machine/Agents.lean ====
section
/-! DEFINITION. RDC and WRP of a non-caching agent taken as one step on a line that nothing else is using (R226, R245,
R248): what the home, its snoops and their answers do together. On a line in use the access waits (log entry 5); on one whose
host copy the home must snoop it sends its request there and waits (log entry 23). -/

namespace Sys2Proof.Machine

/-- A request that a waiting access sends to a home, if any. -/
abbrev Ask := Option Msg

/-- What an access as one step met. -/
inductive AgRes (α : Type) where
  | ok (v : α)
  | busy (ask : Ask)
  | refused
  deriving Repr

/-- Nothing is under way on a line: no transaction, no queued request, no message, no waiting victim, no hold, no
write-back. -/
def quietLine (s : State) (line : Nat) : Bool :=
  let h := homeOf s.mem line
  let x := s.home h
  !lineBusy s h line && !(x.queue.any (·.msg.line == line)) && !(x.vic.any (·.line == line)) && !(s.net.any (·.line == line)) &&
    (sharersOf (dirGet s.mem line).sharers).all fun c =>
      !inTransit (s.cluster c) line && !(s.cluster c).isolated &&
        match l2Find (s.cluster c) line with
        | some (_, w) => (holder s c w).isNone && w.st != .UP && w.st != .KE
        | none => true

/-- The access waits, and its request goes to the home (R245). -/
def State.ask (s : State) (a : Ask) : State :=
  match a with
  | none => s
  | some m => homeSend s m

/-- The request by which an access that must wait has the home snoop the host: RDC for a read (BISnpCur); for a write a WRP of no
byte, which clears every copy (BISnpInv) and leaves the bytes to the access itself (R245; log entry 23). None while one is held for
CRG. -/
def askHome (s : State) (a : Agent) (mark : BitVec 4) (ctx : Ctx) (line : Nat) (k : MsgKind) : Ask :=
  if s.retried.any fun m => m.src == a && m.line == line && m.tag == .agent then none
  else some { msg k a (.home (homeOf s.mem line)) line ctx with cls := mark, tag := .agent }

/-- The host copy of a line has been snooped for an agent. -/
def wasSnooped (s : State) (a : Agent) (line : Nat) : Bool := s.snooped.contains (a, line)

/-- An agent has taken the line it had snooped. -/
def dropSnooped (s : State) (a : Agent) (line : Nat) : State := { s with snooped := s.snooped.filter (· != (a, line)) }

/-- The data of a request that an access sent: where the host keeps the line in A, memory holds its data now (R245, R251). -/
def agentDat (s : State) (a : Agent) (line : Nat) : State :=
  if (dirGet s.mem line).hst = .A ∧ !wasSnooped s a line then { s with snooped := s.snooped ++ [(a, line)] } else s

/-- An agent's request can reach a home (R463). -/
def agentPath (s : State) (a : Agent) (h : BitVec 8) : Bool := pathUp s (dieOfAgent a) (dieOfAgent (.home h))

/-- Read one line as RDC (R245): the owner's data, or memory's; a packed line that the base cache misses needs its
decompressor and is busy here. -/
def agentRead (s : State) (a : Agent) (mark : BitVec 4) (ctx : Ctx) (line : Nat) (stream : Bool) : AgRes (Line × Bool × State) :=
  let h := homeOf s.mem line
  if isReserved s.mem line || (a != .hpt && !ctxPasses s.mem ctx line) then .refused
  else if homeHeld s h then .ok (Config.poisonData line, true, s)
  else if !agentPath s a h || !quietLine s line || (isPacked line && (bccFind s.mem line).isNone) then .busy none
  else if (dirGet s.mem line).hst = .A ∧ !wasSnooped s a line then .busy (askHome s a mark ctx line .rdc)
  else
    let s := dropSnooped s a line
    let cls := classOfAgent s (dieOfHome h) a mark
    let e := dirGet s.mem line
    let own := if e.cst = .X then (sharersOf e.sharers).head? else none
    match own with
    | some o =>
      match l2Find (s.cluster o) line with
      | some (_, w) => .ok (w.data, w.poison, s)
      | none => .ok (memRead (s.modMem fun m => dirSetLine m line none { e with cst := .N, sharers := 0 }) line cls stream)
    | none => .ok (memRead s line cls stream)

/-- Take a cluster's copy away, with its dirty data written to memory (R244, R247). -/
def takeCopy (s : State) (line cls : Nat) (c : BitVec 6) : State :=
  match l2Find (s.cluster c) line with
  | none => s
  | some (k, w) =>
    let s := if w.st = .M then memWrite s line Mask.full w.data w.poison cls false else s
    forgetWay s c k line

/-- Write masked bytes of one line as WRP (R244, R245): every copy goes first. -/
def agentWrite (s : State) (a : Agent) (mark : BitVec 4) (ctx : Ctx) (line : Nat) (m : Mask) (d : Line) (poison stream : Bool) :
    AgRes State :=
  let h := homeOf s.mem line
  if isReserved s.mem line || isPacked line || (a != .hpt && !ctxPasses s.mem ctx line) then .refused
  else if homeHeld s h then .ok s
  else if !agentPath s a h || !quietLine s line then .busy none
  else if (dirGet s.mem line).hst ≠ .I then .busy (askHome s a mark ctx line .wrp)
  else
    let cls := classOfAgent s (dieOfHome h) a mark
    let e := dirGet s.mem line
    let s := (sharersOf e.sharers).foldl (fun s c => takeCopy s line cls c) s
    let s := memWrite s line m d poison cls stream
    .ok (s.modMem fun x => dirSetLine x line none ⟨.N, .I, e.used, line, 0⟩)

/-- Read a word of n bytes at an address that does not cross a line, with its poison. -/
def agentWord (s : State) (a : Agent) (ctx : Ctx) (addr n : Nat) : AgRes (Nat × Bool × State) :=
  match agentRead s a 0 ctx (addr / 64) false with
  | .ok (d, p, s) => .ok (lineNat d (addr % 64) n, p, s)
  | .busy q => .busy q
  | .refused => .refused

/-- Write a word of n bytes at an address that does not cross a line. -/
def agentPut (s : State) (a : Agent) (ctx : Ctx) (addr n v : Nat) : AgRes State :=
  agentWrite s a 0 ctx (addr / 64) (maskAt (addr % 64) n) (lineAt (addr % 64) n v) false false

/-- Write whole lines one after another: whether one was refused, and the state; an error when some line is busy. -/
def agentWriteLines (s : State) (a : Agent) (mark : BitVec 4) (ctx : Ctx) (line : Nat) (stream poison : Bool) :
    List Line → Except Ask (Bool × State)
  | [] => .ok (false, s)
  | d :: t =>
    match agentWrite s a mark ctx line Mask.full d poison stream with
    | .busy q => .error q
    | .refused => (agentWriteLines s a mark ctx (line + 1) stream poison t).map fun r => (true, r.2)
    | .ok s => agentWriteLines s a mark ctx (line + 1) stream poison t

/-- Read whole lines one after another, newest last. -/
def agentReadLines (s : State) (a : Agent) (mark : BitVec 4) (ctx : Ctx) (line : Nat) (stream : Bool) :
    Nat → Except Ask (Bool × List (Line × Bool) × State)
  | 0 => .ok (false, [], s)
  | n + 1 =>
    match agentRead s a mark ctx line stream with
    | .busy q => .error q
    | .refused => (agentReadLines s a mark ctx (line + 1) stream n).map fun r => (true, (Config.poisonData line, true) :: r.2.1, r.2.2)
    | .ok (d, p, s) => (agentReadLines s a mark ctx (line + 1) stream n).map fun r => (r.1, (d, p) :: r.2.1, r.2.2)

end Sys2Proof.Machine
end

