-- ==== Sys2Proof/Machine/Posted.lean ====
section
/-! DEFINITION. The two posted paths as their senders use them (R284, R288, R292): the scale fabric with its tables, flows,
credits and combining (R355, R361 to R375), and the service port (R424, R425, R428, R429); and the end of a load. -/

namespace Sys2Proof.Machine

/-! ### A load or fetch ends (R181, R84, R86) -/

/-- The value a load takes from its line (R85, R88). -/
def loadValue (d : Line) (off size : Nat) (sext : Bool) : Word :=
  let v := lineNat d off size
  if sext then sext64 (8 * size) v else BitVec.ofNat 64 v

/-- Write a scalar register; s0 discards (R72). -/
def CoreSt.setS (c : CoreSt) (r : BitVec 5) (v : Word) : CoreSt :=
  if r = 0 then c else { c with s := c.s.setIfInBounds r.toNat v }

/-- Read a scalar register; s0 reads 0 (R72). -/
def CoreSt.rs (c : CoreSt) (r : BitVec 5) : Word := if r = 0 then 0 else c.s[r.toNat]'r.isLt

/-- The program counter moves past an instruction. -/
def CoreSt.adv (c : CoreSt) (n : Nat) : CoreSt := { c with pc := c.pc + BitVec.ofNat 64 n }

/-- The registers a load writes, and the pc's advance; a pair writes two, and one that spans two lines keeps its first word
until the second is here (R85, R265). -/
def loadInto (p : PendLoad) (d : Line) (c : CoreSt) : CoreSt :=
  let off := p.pa % 64
  let v := loadValue d off p.size p.sext
  if !p.pair then (c.setS p.d v).adv 4
  else match c.pairLo with
    | some lo => { ((c.setS p.d lo).setS (p.d + 1) v).adv 4 with pairLo := none }
    | none =>
      if off = 56 then { c with pairLo := some v }
      else ((c.setS p.d v).setS (p.d + 1) (loadValue d (off + 8) 8 false)).adv 4

/-- The line a stalled load or fetch waits for is here: poison raises 0x05, a fetch has its instructions, a load writes its
registers and the core goes on (R84, R86, R181, R184). -/
def finishLoad (s : State) (core : CoreId) (p : PendLoad) (d : Line) (poison : Bool) : State :=
  let s := s.modCore core fun c => { c with pend := none }
  if poison then raiseExc s core excPoison p.va p.word
  else if p.ifetch then s.modCore core fun c => { c with fetched := some (p.va.toNat / 64) }
  else s.modCore core (loadInto p d)

/-- A stalled load or fetch is refused: 0x04 (R86, R84). -/
def refuseLoad (s : State) (core : CoreId) (p : PendLoad) : State :=
  raiseExc (s.modCore core fun c => { c with pend := none }) core excContext p.va p.word

/-! ### Posted writes that end (R288, R292) -/

/-- A write of a core has been performed or lost: it is outstanding no more; a store-buffer entry, a combining line or a
line of a line move that waited for it goes on (R106, R278, R280). -/
def forgetOut (s : State) (cl : BitVec 6) (tag : Nat) : State :=
  match (s.cluster cl).outw.find? (·.tag == tag) with
  | none => s
  | some o =>
    let s := s.modCluster cl fun c => { c with outw := c.outw.filter (·.tag != tag) }
    s.modCore ⟨cl, o.core⟩ fun c => match o.src with
      | .store =>
        match takeFirst (fun e : SbEntry => e.sent && e.dest == o.dest && e.pa / 64 == o.line) c.sb with
        | some (_, r) => { c with sb := r }
        | none => c
      | .nt =>
        match takeFirst (fun l : CbLine => l.sent && l.dest == o.dest && l.line == o.line) c.cb with
        | some (_, r) => { c with cb := r }
        | none => c
      | .lmv i b =>
        { c with lmv := mset c.lmv i ((mgetD none c.lmv i).map fun m => { m with done := m.done ||| (1#128 <<< b) }) }
      | _ => c

/-- The virtual address of line b of a line move. -/
def lmvVa (m : LineMove) (b : Nat) : Word := m.va + BitVec.ofNat 64 (64 * b)

/-- A line of a line move fails: the core raises the exception with the move's address as PC and the failing line as data
address (R108); the line is not moved and the move raises no counter. -/
def lmvFail (s : State) (core : CoreId) (i b : Nat) (code : BitVec 8) : State :=
  match mgetD none (s.core core).lmv i with
  | none => s
  | some m =>
    let m' : LineMove := { m with done := m.done ||| (1#128 <<< b), lost := true }
    raiseLate (s.modCore core fun c => { c with lmv := mset c.lmv i (some m') }) core m.launch code m.pc (lmvVa m b) m.word

/-- A line of an lmv.in is here: its bytes enter the local store, or poison raises 0x05 and leaves them (R106 to R108). -/
def lmvTake (s : State) (core : CoreId) (i b : Nat) (d : Line) (poison : Bool) : State :=
  match mgetD none (s.core core).lmv i with
  | none => s
  | some m =>
    if m.out || m.done.getLsbD b then s
    else if poison then lmvFail s core i b excPoison
    else s.modCore core fun c =>
      { c with ls := wrBytes c.ls (m.ls + 64 * b) 64 d.toNat, lmv := mset c.lmv i (some { m with done := m.done ||| (1#128 <<< b) }) }

/-- A line that a DMA read below a posted path has come: the DMA that awaits it holds it (R337). -/
def dmaData (s : State) (q : BitVec 5) (id : Nat) (d : Line) (poison : Bool) : State :=
  s.modDsp fun x => { x with dma := mmod x.dma q.toNat (modFirst (fun m : Dma => m.id == id && m.waiting) fun m =>
    { m with waiting := false, buf := some (d, poison) }) }

/-- One source of a packet learns that its write was performed or lost; a lost write of a core sets its LOSS bit (R98). -/
def postedDone (s : State) (lost : Bool) (src : PktSrc) : State :=
  match src with
  | .store c tag =>
    let s := forgetOut s c.cl tag
    if lost then s.modCore c fun x => { x with fns := true } else s
  | .load c =>
    match (s.core c).pend with
    | some p => if lost then finishLoad s c p 0 true else s
    | none => s
  | .lmv c i b => if lost then lmvFail s c i b excPoison else s
  | .dmaRead q n => if lost then dmaData s q n (Config.poisonData n) true else s
  | .dma q n =>
    if lost then s.modDsp fun d => { d with dma := mmod d.dma q.toNat (modFirst (·.id == n) fun x =>
      { x with status := if x.status = stOK then stLoss else x.status }) }
    else s
  | _ => s

/-! ### Scale fabric -/

/-- The state of a fabric port. -/
def State.port (s : State) (n : BitVec 4) : PortSt := mget s.fab.ports n.toNat
/-- Change a fabric port. -/
def State.modPort (s : State) (n : BitVec 4) (f : PortSt → PortSt) : State :=
  s.modFab fun b => { b with ports := mmod b.ports n.toNat f }

/-- The base address that a register pair holds. -/
def baseOf (s : State) (lo : Nat) (align : Nat) : Nat :=
  ((s.reg lo).toNat + (s.fld (lo + 4) 0 12) * 2 ^ 32) / 2 ^ align * 2 ^ align

/-- The rank-table entry of a rank, from the cache or the table (R362, R364); an error while the table's line is in use. -/
def rankEntry (s : State) (rank : BitVec 16) : Except Ask (BitVec 32 × State) :=
  match mgetD none s.fab.rankTab rank.toNat with
  | some e => .ok (e, s)
  | none =>
    match agentWord s .fab 0 (baseOf s Reg.fabRanktab 12 + 4 * rank.toNat) 4 with
    | .ok (v, _, s) =>
      let e := BitVec.ofNat 32 v
      .ok (e, s.modFab fun b => { b with rankTab := mset b.rankTab rank.toNat (some e) })
    | .refused => .ok (0, s)
    | .busy q => .error q

/-- The route-table index of a destination (R363). -/
def routeIndex (my dst : BitVec 16) : Nat :=
  if dst.extractLsb' 6 10 ≠ my.extractLsb' 6 10 then (dst.extractLsb' 6 10).toNat else 1024 + (dst.extractLsb' 0 6).toNat

/-- The route-table entry of a destination, from the cache or the table (R363, R364). -/
def routeEntry (s : State) (dst : BitVec 16) : Except Ask (BitVec 16 × State) :=
  let i := routeIndex ((s.reg Reg.fabMyaddr).extractLsb' 0 16) dst
  match mgetD none s.fab.routeTab i with
  | some e => .ok (e, s)
  | none =>
    match agentWord s .fab 0 (baseOf s Reg.fabRtab 12 + 2 * i) 2 with
    | .ok (v, _, s) =>
      let e := BitVec.ofNat 16 v
      .ok (e, s.modFab fun b => { b with routeTab := mset b.routeTab i (some e) })
    | .refused => .ok (0, s)
    | .busy q => .error q

/-- The 64-byte units of a packet, rounded up (R355, R358). -/
def pktUnits (p : Packet) : Nat := p.pay.length + 1

/-- The credits of a packet's class at the next hop. -/
def credits (x : PortSt) (cls : BitVec 2) : Nat :=
  match cls with
  | 0 => x.crRsp
  | 1 => x.crCtl
  | _ => x.crReq

/-- Use credits of a class. -/
def spendCredits (cls : BitVec 2) (n : Nat) (x : PortSt) : PortSt :=
  match cls with
  | 0 => { x with crRsp := x.crRsp - n }
  | 1 => { x with crCtl := x.crCtl - n }
  | _ => { x with crReq := x.crReq - n }

/-- A port can send a packet: up, with credits for it and fewer than 512 unacknowledged frames (R353, R355). -/
def portReady (x : PortSt) (p : Packet) : Bool :=
  x.st == .up && decide (pktUnits p ≤ credits x p.cls) && decide (x.unacked.length < 512)

/-- The port of a mask for a packet: most free credits of its class, the lowest number on a tie (R363). -/
def choosePort (s : State) (mask : BitVec 16) (p : Packet) : Option (BitVec 4) :=
  let up := (List.range 12).filter fun n => mask.getLsbD n && portReady (mget s.fab.ports n) p
  let best := up.foldl (fun b n => max b (credits (mget s.fab.ports n) p.cls)) 0
  (up.find? fun n => credits (mget s.fab.ports n) p.cls == best).map (BitVec.ofNat 4)

/-- The next port of a mask after the port last used, for a resend (R373). -/
def nextPort (s : State) (mask : BitVec 16) (p : Packet) (last : BitVec 4) : Option (BitVec 4) :=
  let order := (List.range 12).map fun i => (last.toNat + 1 + i) % 12
  (order.find? fun n => mask.getLsbD n && portReady (mget s.fab.ports n) p).map (BitVec.ofNat 4)

/-- Put a packet into a frame on a port. -/
def transmit (s : State) (n : BitVec 4) (p : Packet) : State :=
  let s := s.modPort n fun x =>
    spendCredits p.cls (pktUnits p) { x with unacked := x.unacked ++ [(x.txFsn, 0)], txFsn := x.txFsn + 1 }
  s.modFab fun b => { b with tx := b.tx ++ [(n, p)] }

/-- Whether a packet is unsequenced: HB and TSY (R368). -/
def unsequenced (ty : BitVec 8) : Bool := ty == 0x21 || ty == 0x30

/-- What the fabric does with a packet it is given. -/
inductive SendRes where
  | sent (s : State)
  | wait (s : State)
  | dead (s : State)
  deriving Repr

/-- The sequenced packets of a flow to a destination that await answers. -/
def flowOut (s : State) (dst flow : BitVec 16) : List SentPkt :=
  s.fab.sent.filter fun x => x.pkt.dst == dst && x.pkt.flow == flow

/-- A packet as it is first sent: its source and its STAMP (R358); a resend leaves it unchanged (R373). -/
def stamped (s : State) (p : Packet) : Packet :=
  { p with src := (s.reg Reg.fabMyaddr).extractLsb' 0 16, stamp := s.ts.extractLsb' 0 48 }

/-- Send a packet to a physical address: dead list, flow limits, route, credits, FSEQ and BASE (R363, R368, R372, R374). -/
def sendTo (s : State) (p : Packet) (srcs : List PktSrc) (entry : Stamp) : SendRes :=
  if s.fab.dead.contains p.dst then .dead s
  else if p.cls = 2 ∧ ¬ (s.reg Reg.fabRetx).getLsbD 0 then .wait s
  else
    let out := flowOut s p.dst p.flow
    let load := (s.fab.sent.filter (·.pkt.dst == p.dst)).foldl (fun n x => n + 64 * x.pkt.pay.length) 0
    let seq := p.cls != 0 && !unsequenced p.ty
    if seq && (256 ≤ out.length || 4194304 < load + 64 * p.pay.length) then .wait s
    else match routeEntry s p.dst with
      | .error q => .wait (s.ask q)
      | .ok (mask, s) =>
        match choosePort s mask p with
        | none => .wait s
        | some n =>
          if seq then
            let key := (p.dst, p.flow)
            let f := ((s.fab.fseq.find? (·.1 == key)).map (·.2)).getD 0
            let base := (out.head?.map (·.pkt.fseq)).getD f
            let p := stamped s { p with fseq := f, base := base }
            let s := s.modFab fun b => { b with
              fseq := (key, f + 1) :: b.fseq.filter (·.1 != key)
              sent := b.sent ++ [⟨p, n, s.ts, s.ts, none, srcs, entry⟩] }
            .sent (transmit s n p)
          else .sent (transmit s n (stamped s p))

/-- Send a packet to a logical rank: an invalid rank entry is a dead destination (R362). -/
def sendRank (s : State) (p : Packet) (srcs : List PktSrc) (entry : Stamp) : SendRes :=
  match rankEntry s p.drank with
  | .error q => .wait (s.ask q)
  | .ok (e, s) => if e.getLsbD 31 then sendTo s { p with dst := e.extractLsb' 0 16 } srcs entry else .dead s

/-- R292 for writes and reads to a dead destination that are discarded: LOSS of the path, and their sources go on. -/
def fabLoss (s : State) (srcs : List PktSrc) : State :=
  srcs.foldl (fun s x => postedDone s true x) (s.setFlag Reg.fabDrainStat 0)

/-- A WR or WRM packet. -/
def wrPacket (rank flow : BitVec 16) (ctx : Ctx) (addr : Nat) (m : Mask) (d : Line) (poison : Bool) : Packet :=
  let p : Packet := { (default : Packet) with ty := 0x01, cls := 2, drank := rank, flow := flow, ctx := ctx,
                                              poison := poison, arg := BitVec.ofNat 64 addr, pay := [d] }
  if m = Mask.full then p else { p with ty := 0x02, pay := [d, m.setWidth 512] }

/-- Send the held write of a flow, if any (R375). -/
def flushFlow (s : State) (hit : Combine → Bool) : SendRes :=
  match takeFirst hit s.fab.comb with
  | none => .sent s
  | some (c, r) =>
    match sendRank s c.pkt c.srcs c.ts with
    | .sent s => .sent (s.modFab fun b => { b with comb := b.comb.filter fun x => !(hit x) })
    | .wait s => .wait s
    | .dead s => .sent (fabLoss (s.modFab fun b => { b with comb := r }) c.srcs)

/-- A posted write enters the path: a full line may join a held write to the line before it, up to 4 KiB; anything else is
sent after what its flow holds (R275, R284, R375). -/
def fabWrite (s : State) (rank flow : BitVec 16) (ctx : Ctx) (addr : Nat) (m : Mask) (d : Line) (poison : Bool)
    (src : PktSrc) : SendRes :=
  let mine := fun c : Combine => c.pkt.drank == rank && c.pkt.flow == flow
  let joins := fun c : Combine => mine c && c.pkt.ctx == ctx && c.pkt.poison == poison && c.pkt.pay.length < 64 &&
    c.pkt.arg.toNat + 64 * c.pkt.pay.length == addr
  if m = Mask.full ∧ s.fab.comb.any joins then
    let up := fun c : Combine => { c with pkt := { c.pkt with pay := c.pkt.pay ++ [d] }, srcs := c.srcs ++ [src] }
    .sent (s.modFab fun b => { b with comb := modFirst joins up b.comb })
  else match flushFlow s mine with
    | .wait s => .wait s
    | .dead s => .dead s
    | .sent s =>
      let p := wrPacket rank flow ctx addr m d poison
      if m = Mask.full then .sent (s.modFab fun b => { b with comb := b.comb ++ [⟨p, s.ts, [src]⟩] })
      else sendRank s p [src] s.ts

/-- A read packet of some lines, after what its flow holds. -/
def fabRead (s : State) (rank flow : BitVec 16) (ctx : Ctx) (addr lines : Nat) (src : PktSrc) : SendRes :=
  match flushFlow s fun c => c.pkt.drank == rank && c.pkt.flow == flow with
  | .wait s => .wait s
  | .dead s => .dead s
  | .sent s =>
    let p : Packet := { (default : Packet) with ty := 0x03, cls := 2, drank := rank, flow := flow, ctx := ctx, arg := BitVec.ofNat 64 (addr + (lines - 1) * 2 ^ 48) }
    sendRank s p [src] s.ts

/-- The flow of a core's order ID (R367). -/
def coreFlow (core : CoreId) (oid : BitVec 2) : BitVec 16 := (core.cl.setWidth 16 <<< 6) ||| oid.setWidth 16
/-- The flow of a DMA queue (R367). -/
def dmaFlow (q : BitVec 5) : BitVec 16 := 0x1000 ||| q.setWidth 16
/-- The flows of Prism's data and control of a tree (R367). -/
def przFlow (t : BitVec 6) : BitVec 16 := 0x2000 ||| t.setWidth 16
def przCtlFlow (t : BitVec 6) : BitVec 16 := 0x3000 ||| t.setWidth 16

/-! ### Service port -/

/-- Bit of SVP_SLOT_CTL. -/
def slotBit (s : State) (n : Nat) : Bool := (s.reg Reg.svpSlotCtl).getLsbD n

/-- What the service port does with a request of the complex. -/
inductive SvpRes where
  | sent (s : State)
  | wait (s : State)
  | dropped (s : State)
  deriving Repr

/-- A posted write to a bus address: below a removed or dead destination it is dropped with LOSS (R292, R425, R428, R429). -/
def svpWrite (s : State) (ctx : Ctx) (bus : Nat) (m : Mask) (d : Line) (src : PktSrc) : SvpRes :=
  if s.svp.removed then
    .dropped ((s.bump Reg.svpDrop 1).setFlag Reg.svpDrainStat 0)
  else if s.svp.dead then .dropped (s.setFlag Reg.svpDrainStat 0)
  else if !s.svp.up then .wait s
  else .sent (s.modSvp fun v => { v with
    out := v.out ++ [.memWr bus m d], reqs := v.reqs ++ [⟨v.nextReq, false, false, bus, ctx, s.ts, some src⟩],
    nextReq := v.nextReq + 1 })

/-- A read of one line at a bus address; below a removed or dead destination it completes with poison (R428, R429). -/
def svpRead (s : State) (ctx : Ctx) (bus : Nat) (src : PktSrc) : SvpRes :=
  if s.svp.removed || s.svp.dead then .dropped s
  else if !s.svp.up then .wait s
  else .sent (s.modSvp fun v => { v with
    out := v.out ++ [.memRd v.nextReq bus], reqs := v.reqs ++ [⟨v.nextReq, true, false, bus, ctx, s.ts, some src⟩],
    nextReq := v.nextReq + 1 })

/-! ### Drained-to stamps (R288) -/

/-- The oldest entry stamp of a list, below a limit. -/
def oldestStamp (l : List Stamp) : Option Stamp :=
  l.foldl (fun m x => match m with
    | none => some x
    | some y => some (if x.toNat < y.toNat then x else y)) none

/-- A drained-to stamp: the current TS64, or one tick below the oldest outstanding write's entry; never decreasing. -/
def drainedTo (s : State) (out : List Stamp) (last : Stamp) : Stamp :=
  let d := match oldestStamp out with
    | none => s.ts
    | some x => x - 1
  if d.toNat < last.toNat then last else d

/-- D of the scale fabric. -/
def fabDrainedTo (s : State) : Stamp :=
  drainedTo s (((s.fab.sent.filter fun x => x.pkt.ty == 1 || x.pkt.ty == 2 || x.pkt.ty == 8).map (·.entry)) ++ s.fab.comb.map (·.ts))
    s.fab.drained

/-- D of the service port. -/
def svpDrainedTo (s : State) : Stamp := drainedTo s ((s.svp.reqs.filter fun r => !r.read).map (·.ts)) s.svp.drained

end Sys2Proof.Machine
end

