-- ==== Sys2Proof/Machine/Access.lean ====
section
/-! DEFINITION. Translation as an access uses it (R299, R300, R302), the region attributes (R188 to R191), and the gate of
a core whose translation misses (R57, R62). -/

namespace Sys2Proof.Machine

/-! ### Permissions and targets -/

/-- The permission an access needs (R300). -/
def permits (l : Leaf) (a : Access) : Bool :=
  match a with
  | .read => l.rd
  | .write => l.w
  | .rw => l.rd && l.w
  | .fetch => l.x

/-- Where a leaf's accesses go (R299). -/
def destOf (l : Leaf) : Dest :=
  match l.tgt with
  | 0 => .device
  | 1 => .fabric l.rank
  | _ => .bus

/-- The physical, remote or bus address of a virtual address (R297). -/
def physOf (l : Leaf) (va : Nat) : Nat := l.addr + va % (if l.big then 2 ^ 34 else 2 ^ 25)

/-- The attribute byte of a leaf's region as it stands now (R189, R191). -/
def attrOf (s : State) (l : Leaf) : BitVec 8 := (s.reg (Reg.xltRegion l.region.toNat)).extractLsb' 0 8
/-- CACHE. -/
def aCache (a : BitVec 8) : Bool := a.getLsbD 4
/-- DEVO. -/
def aDevo (a : BitVec 8) : Bool := a.getLsbD 5
/-- EWA; it has no effect in a register region (R189). -/
def aEwa (a : BitVec 8) : Bool := a.getLsbD 6 && !(!aCache a && aDevo a)
/-- NOPF. -/
def aNopf (a : BitVec 8) : Bool := a.getLsbD 7
/-- A register region (R189). -/
def aRegister (a : BitVec 8) : Bool := !aCache a && aDevo a
/-- Write-back: CACHE 1 and WPOL 0b00 (R189). -/
def aWriteBack (a : BitVec 8) : Bool := aCache a && a.extractLsb' 2 2 == 0
/-- Write-through. -/
def aWriteThrough (a : BitVec 8) : Bool := aCache a && a.extractLsb' 2 2 == 1

/-! ### TLBs (R302) -/

/-- Bits [51:25] of a virtual address. -/
def vpnOf (va : Nat) : Nat := bitsN va 25 27
/-- The first key of a cluster TLB set. -/
def tlbBase (va : Nat) : Nat := bitsN va 25 7 * 8
/-- The first key of a second-level set, for a 32 MiB or a 16 GiB entry. -/
def tlb2Base (die big : Bool) (va : Nat) : Nat := (if die then 16384 else 0) + (if big then bitsN va 34 10 else bitsN va 25 10) * 16

/-- Whether an entry translates an address of a context. -/
def entHits (e : TlbEnt) (ctx : Ctx) (va : Nat) : Bool :=
  e.ctx == ctx && (if e.leaf.big then e.vpn / 512 == vpnOf va / 512 else e.vpn == vpnOf va)

/-- The key and entry of a set that hits. -/
def setFind (t : SMap (Option TlbEnt)) (base n : Nat) (ctx : Ctx) (va : Nat) : Option (Nat × TlbEnt) :=
  (List.range n).findSome? fun i =>
    match mgetD none t (base + i) with
    | some e => if entHits e ctx va then some (base + i, e) else none
    | none => none

/-- Enter a translation into a set: over the same tag, into a free way, or over the way that a free value names (log
entry 24). -/
def setFill (t : SMap (Option TlbEnt)) (base n : Nat) (e : TlbEnt) (va draw : Nat) : SMap (Option TlbEnt) :=
  match setFind t base n e.ctx va with
  | some (k, _) => mset t k (some e)
  | none =>
    match (List.range n).find? fun i => (mgetD none t (base + i)).isNone with
    | some i => mset t (base + i) (some e)
    | none => mset t (base + Config.tlbVictim draw % n) (some e)

/-- Fill the cluster TLB; a 16 GiB page enters as the 32 MiB part that was used (R302). -/
def fillClusterTlb (s : State) (cl : BitVec 6) (ctx : Ctx) (va : Nat) (l : Leaf) : State :=
  let (n, s) := s.draw
  let leaf := if l.big then { l with addr := l.addr + va % 2 ^ 34 / 2 ^ 25 * 2 ^ 25, big := false } else l
  s.modCluster cl fun c => { c with tlb := setFill c.tlb (tlbBase va) 8 ⟨ctx, vpnOf va, leaf⟩ va n }

/-- Fill the second-level TLB of a die (R302). -/
def fillTlb2 (s : State) (die : Bool) (ctx : Ctx) (va : Nat) (l : Leaf) : State :=
  let (n, s) := s.draw
  s.modXlt fun x => { x with tlb2 := setFill x.tlb2 (tlb2Base die l.big va) 16 ⟨ctx, vpnOf va, l⟩ va n }

/-- Look an address up in the second-level TLB of a die: both sets are probed (R302). -/
def tlb2Find (s : State) (die : Bool) (ctx : Ctx) (va : Nat) : Option (Nat × TlbEnt) :=
  match setFind s.xlt.tlb2 (tlb2Base die false va) 16 ctx va with
  | some r => some r
  | none => setFind s.xlt.tlb2 (tlb2Base die true va) 16 ctx va

/-- Translation is enabled and the address is a device virtual address (R297, R325). -/
def xltAble (s : State) (va : Word) : Bool := (s.reg Reg.xltCtxtLo).getLsbD 0 && va.extractLsb' 52 12 == 0

/-- What a translation met. -/
inductive Xl where
  | ok (l : Leaf) (s : State)
  | miss (s : State)
  deriving Repr

/-- Drop a translation that lacks the permission an access needs: the access walks again (R300). -/
def dropTlb2 (s : State) (die : Bool) (ctx : Ctx) (va : Nat) : State :=
  match tlb2Find s die ctx va with
  | some (k, _) => s.modXlt fun x => { x with tlb2 := mset x.tlb2 k none }
  | none => s

/-- Translate for a core: the cluster TLB, then the second-level TLB of its base die (R300, R302). -/
def translate (s : State) (cl : BitVec 6) (ctx : Ctx) (va : Word) (a : Access) : Xl :=
  if !xltAble s va then .miss s else
  let v := va.toNat
  let die := dieOfCluster cl
  let second := fun s : State => match tlb2Find s die ctx v with
    | some (_, e) => if permits e.leaf a then .ok e.leaf (fillClusterTlb s cl ctx v e.leaf) else Xl.miss (dropTlb2 s die ctx v)
    | none => .miss s
  match setFind (s.cluster cl).tlb (tlbBase v) 8 ctx v with
  | some (k, e) =>
    if permits e.leaf a then .ok e.leaf s
    else second (s.modCluster cl fun c => { c with tlb := mset c.tlb k none })
  | none => second s

/-- An open fault record already holds a waiter for the page of an address (R314). -/
def waitsOn (s : State) (r : XltReq) : Bool :=
  s.xlt.recs.any fun f => !f.resolved && f.ctx == r.ctx && f.vpn == vpnOf r.va.toNat && f.waiters.contains r.wt

/-- Put a request on its way to the translation block, once (R314). -/
def askXlt (s : State) (r : XltReq) : State :=
  if s.xlt.reqs.contains r || s.xlt.walks.contains r || s.xlt.stalled.contains r || waitsOn s r then s
  else s.modXlt fun x => { x with reqs := x.reqs ++ [r] }

/-- Gate a core until its translation is resolved (R57, R62); its reservation clears (R95). -/
def gateXlt (s : State) (core : CoreId) (ctx : Ctx) (va : Word) (a : Access) (word : Word) : State :=
  let gate := fun c : CoreSt => { c with st := .gated .xlt, wake := false, rsv := none, xwait := some ⟨excXlt, c.pc, va, word⟩ }
  askXlt (s.modCore core gate) ⟨.core core, ctx, va, a, false⟩

/-- The order ID of a core's access: 3 in a DEVO region, else the given one (R273). -/
def oidOf (a : BitVec 8) (other : BitVec 2) : BitVec 2 := if aDevo a then 3 else other

/-- Read through a posted path for a core: the load or fetch stalls until its completion; a dead destination gives poison
(R292, R425, R428). none while the path must wait. -/
def remoteRead (s : State) (core : CoreId) (p : PendLoad) (a : BitVec 8) : State :=
  let line := p.pa / 64 * 64
  let wait := fun s : State => s.modCore core fun c => { c with pend := some p }
  match p.dest with
  | .fabric r =>
    match fabRead s r (coreFlow core (oidOf a 0)) p.ctx line 1 (.load core) with
    | .sent s => wait s
    | .wait s => s
    | .dead s => finishLoad s core p 0 true
  | _ =>
    match svpRead s p.ctx line (.load core) with
    | .sent s => wait s
    | .wait s => s
    | .dropped s => finishLoad s core p 0 true

end Sys2Proof.Machine
end

