-- ==== Sys2Proof/Machine/Float.lean ====
section
/-! DEFINITION. Floating point (R80, R81, R121, R152, R153, R156 to R165): exact values, one rounding at the end, the IEEE
flags in the bit order of fsr and vsw: bit 4 inexact, 3 underflow, 2 overflow, 1 divide by zero, 0 invalid (R99). -/

namespace Sys2Proof.Machine

/-- A value: a NaN with its signalling mark, an infinity, or the exact number (−1)^neg × m × 2^e. -/
inductive Fp where
  | nan (sig : Bool)
  | inf (neg : Bool)
  | fin (neg : Bool) (m : Nat) (e : Int)
  deriving DecidableEq, Repr, Inhabited

/-- Which encodings of a format are special (R152). -/
inductive Special where
  | ieee | nanOnly | none
  deriving DecidableEq, Repr

/-- An encoding: exponent and fraction bits, bias, special encodings (R152). -/
structure Fmt where
  eb : Nat
  mb : Nat
  bias : Int
  special : Special
  deriving DecidableEq, Repr

def fmtF64 : Fmt := ⟨11, 52, 1023, .ieee⟩
def fmtF32 : Fmt := ⟨8, 23, 127, .ieee⟩
def fmtF16 : Fmt := ⟨5, 10, 15, .ieee⟩
def fmtBf16 : Fmt := ⟨8, 7, 127, .ieee⟩
def fmtE4m3 : Fmt := ⟨4, 3, 7, .nanOnly⟩
def fmtE5m2 : Fmt := ⟨5, 2, 15, .ieee⟩
def fmtE3m2 : Fmt := ⟨3, 2, 3, .none⟩
def fmtE2m3 : Fmt := ⟨2, 3, 1, .none⟩
def fmtE2m1 : Fmt := ⟨2, 1, 1, .none⟩

/-- The IEEE flags an operation sets. -/
abbrev Flags := BitVec 5
def flagNV : Flags := 1
def flagDZ : Flags := 2
def flagOF : Flags := 4
def flagUF : Flags := 8
def flagNX : Flags := 16

/-- Bits of an encoding. -/
def Fmt.bits (f : Fmt) : Nat := 1 + f.eb + f.mb
/-- The exponent of the smallest normal. -/
def Fmt.emin (f : Fmt) : Int := 1 - f.bias
/-- The magnitude bits of the largest finite value. -/
def Fmt.maxMag (f : Fmt) : Nat :=
  match f.special with
  | .ieee => (2 ^ f.eb - 1) * 2 ^ f.mb - 1
  | .nanOnly => 2 ^ (f.eb + f.mb) - 2
  | .none => 2 ^ (f.eb + f.mb) - 1
/-- The default quiet NaN (R81, R121, R164). -/
def Fmt.nan (f : Fmt) : Nat :=
  match f.special with
  | .ieee => (2 ^ f.eb - 1) * 2 ^ f.mb + 2 ^ (f.mb - 1)
  | _ => 2 ^ (f.eb + f.mb) - 1
/-- Magnitude bits with a sign. -/
def Fmt.sign (f : Fmt) (neg : Bool) (mag : Nat) : Nat := (if neg then 2 ^ (f.eb + f.mb) else 0) + mag
/-- An infinity. -/
def Fmt.inf (f : Fmt) (neg : Bool) : Nat := f.sign neg ((2 ^ f.eb - 1) * 2 ^ f.mb)

/-- The value of an encoding (R152, R153). -/
def decodeFp (f : Fmt) (b : Nat) : Fp :=
  let frac := b % 2 ^ f.mb
  let ex := (b / 2 ^ f.mb) % 2 ^ f.eb
  let neg := (b / 2 ^ (f.eb + f.mb)) % 2 = 1
  let top := 2 ^ f.eb - 1
  if f.special = .ieee ∧ ex = top then
    if frac = 0 then .inf neg else .nan (frac < 2 ^ (f.mb - 1))
  else if f.special = .nanOnly ∧ ex = top ∧ frac = 2 ^ f.mb - 1 then .nan false
  else if ex = 0 then .fin neg frac (f.emin - f.mb)
  else .fin neg (frac + 2 ^ f.mb) (ex - f.bias - f.mb)

/-- A subnormal value of a format counts as a zero of the same sign (R121, R159). -/
def flushIn (f : Fmt) (x : Fp) : Fp :=
  match x with
  | .fin neg m e => if m < 2 ^ f.mb ∧ e = f.emin - f.mb then .fin neg 0 0 else .fin neg m e
  | y => y

/-- The rounding of one operation: RM of R80 and R116, or stochastic with its draw (R163). -/
inductive Rounding where
  | mode (rm : BitVec 2)
  | stochastic (r : BitVec 16)
  deriving DecidableEq, Repr

/-- Whether a truncated magnitude n with remainder rem of 2^k is incremented. -/
def roundsAway (r : Rounding) (neg : Bool) (n rem k : Nat) : Bool :=
  match r with
  | .mode 0 => 2 ^ k < 2 * rem || (2 ^ k == 2 * rem && n % 2 == 1)
  | .mode 1 => false
  | .mode 2 => rem != 0 && !neg
  | .mode _ => rem != 0 && neg
  | .stochastic d => d.toNat < rem * 65536 / 2 ^ k

/-- Round m × 2^e to a multiple of 2^q: the multiple, and whether it is inexact. -/
def roundAt (r : Rounding) (neg : Bool) (m : Nat) (e q : Int) : Nat × Bool :=
  if q ≤ e then (m * 2 ^ (e - q).toNat, false)
  else
    let k := (q - e).toNat
    let n := m / 2 ^ k
    let rem := m % 2 ^ k
    (n + (if roundsAway r neg n rem k then 1 else 0), rem != 0)

/-- How a rounding treats overflow: IEEE, or saturation with or without the overflow flag (R164, R165). -/
inductive Over where
  | ieee | saturate | saturateQuiet
  deriving DecidableEq, Repr

/-- Whether tininess is detected after rounding for certain, or as the implementation decides (R80, R158, R164). -/
inductive Tiny where
  | after | either
  deriving DecidableEq, Repr

/-- The encoding of an overflowed magnitude (R158, IEEE 754). -/
def overflowBits (f : Fmt) (r : Rounding) (neg : Bool) : Nat :=
  match r with
  | .mode 1 => f.sign neg f.maxMag
  | .mode 2 => if neg then f.sign neg f.maxMag else f.inf neg
  | .mode 3 => if neg then f.inf neg else f.sign neg f.maxMag
  | _ => f.inf neg

/-- Round an exact value once to a format: encoding and flags (R80, R121, R157, R162 to R165). -/
def roundFp (f : Fmt) (r : Rounding) (fz : Bool) (ov : Over) (tn : Tiny) (x : Fp) : Nat × Flags :=
  match x with
  | .nan _ => (f.nan, 0)
  | .inf neg =>
    match f.special, ov with
    | .ieee, _ => (f.inf neg, 0)
    | _, _ => (f.sign neg f.maxMag, flagOF ||| flagNX)
  | .fin neg 0 _ => (f.sign neg 0, 0)
  | .fin neg m e =>
    let top : Int := e + m.log2
    let q := max top f.emin - f.mb
    let (n, nx) := roundAt r neg m e q
    let mag := n + (q - (f.emin - f.mb)).toNat * 2 ^ f.mb
    if f.maxMag < mag then
      match ov with
      | .ieee => (overflowBits f r neg, flagOF ||| flagNX)
      | .saturate => (f.sign neg f.maxMag, flagOF ||| flagNX)
      | .saturateQuiet => (f.sign neg f.maxMag, flagNX)
    else if fz ∧ 0 < mag ∧ mag < 2 ^ f.mb then (f.sign neg 0, flagUF ||| flagNX)
    else
      let tinyAfter := (roundAt r neg m e (top - f.mb)).1 < 2 ^ (f.emin - (top - f.mb)).toNat
      let tiny := top < f.emin && (tinyAfter || (tn == .either && Config.tinyBefore))
      let tiny := if nx then tiny else false
      (f.sign neg mag, (if nx then flagNX else 0) ||| (if tiny then flagUF else 0))

/-- Whether a value is a signalling NaN, in a unit that distinguishes them. -/
def isSig : Fp → Bool
  | .nan s => s
  | _ => false
/-- A NaN. -/
def isNan : Fp → Bool
  | .nan _ => true
  | _ => false
/-- The invalid flag for signalling operands. -/
def sigFlag (b : Bool) : Flags := if b then flagNV else 0

/-- The signed integer m of a value at a common exponent. -/
def signedAt (neg : Bool) (m : Nat) (e q : Int) : Int :=
  let v : Int := (m * 2 ^ (e - q).toNat : Nat)
  if neg then -v else v

/-- The exact sum; a zero sum of unlike signs is +0, or −0 when rounding down (IEEE 754). -/
def addFp (down : Bool) (x y : Fp) : Fp × Flags :=
  match x, y with
  | .nan a, y => (.nan false, sigFlag (a || isSig y))
  | x, .nan b => (.nan false, sigFlag (isSig x || b))
  | .inf a, .inf b => if a = b then (.inf a, 0) else (.nan false, flagNV)
  | .inf a, .fin _ _ _ => (.inf a, 0)
  | .fin _ _ _, .inf b => (.inf b, 0)
  | .fin a m e, .fin b n g =>
    if m = 0 ∧ n = 0 then (.fin (if a = b then a else down) 0 0, 0)
    else
      let q := min e g
      let v := signedAt a m e q + signedAt b n g q
      if v = 0 then (.fin down 0 0, 0) else (.fin (v < 0) v.natAbs q, 0)

/-- The value negated. -/
def negFp : Fp → Fp
  | .nan s => .nan s
  | .inf a => .inf (!a)
  | .fin a m e => .fin (!a) m e
/-- The magnitude of a value. -/
def absFp : Fp → Fp
  | .nan s => .nan s
  | .inf _ => .inf false
  | .fin _ m e => .fin false m e

/-- The exact product. -/
def mulFp (x y : Fp) : Fp × Flags :=
  match x, y with
  | .nan a, y => (.nan false, sigFlag (a || isSig y))
  | x, .nan b => (.nan false, sigFlag (isSig x || b))
  | .inf a, .inf b => (.inf (a ^^ b), 0)
  | .inf a, .fin b n _ => if n = 0 then (.nan false, flagNV) else (.inf (a ^^ b), 0)
  | .fin a m _, .inf b => if m = 0 then (.nan false, flagNV) else (.inf (a ^^ b), 0)
  | .fin a m e, .fin b n g => (.fin (a ^^ b) (m * n) (e + g), 0)

/-- The exact a × b + c, rounded by the caller once. -/
def fmaFp (down : Bool) (x y z : Fp) : Fp × Flags :=
  let (p, fp) := mulFp x y
  match p, isNan x || isNan y, z with
  | .nan _, false, .nan s => (.nan false, sigFlag s ||| (if Config.fmaNanInvalid then flagNV else 0))
  | p, _, z =>
    let (r, fr) := addFp down p z
    (r, fp ||| fr)

/-- The quotient, carried to far more bits than any format holds, with a sticky last bit. -/
def divFp (x y : Fp) : Fp × Flags :=
  match x, y with
  | .nan a, y => (.nan false, sigFlag (a || isSig y))
  | x, .nan b => (.nan false, sigFlag (isSig x || b))
  | .inf _, .inf _ => (.nan false, flagNV)
  | .inf a, .fin b _ _ => (.inf (a ^^ b), 0)
  | .fin a _ _, .inf b => (.fin (a ^^ b) 0 0, 0)
  | .fin a m e, .fin b n g =>
    if n = 0 then (if m = 0 then (.nan false, flagNV) else (.inf (a ^^ b), flagDZ))
    else
      let k := 128 + n.log2
      let w := m * 2 ^ k
      (.fin (a ^^ b) (2 * (w / n) + (if w % n = 0 then 0 else 1)) (e - g - k - 1), 0)

/-- The integer square root below 2^n, bit by bit. -/
def isqrt (v : Nat) : Nat → Nat → Nat
  | 0, r => r
  | n + 1, r =>
    let t := r + 2 ^ n
    isqrt v n (if t * t ≤ v then t else r)

/-- The square root, carried to more bits than any format holds, with a sticky last bit. -/
def sqrtFp (x : Fp) : Fp × Flags :=
  match x with
  | .nan a => (.nan false, sigFlag a)
  | .inf a => if a then (.nan false, flagNV) else (.inf false, 0)
  | .fin a m e =>
    if m = 0 then (.fin a 0 0, 0)
    else if a then (.nan false, flagNV)
    else
      let (m, e) := if e % 2 = 0 then (m, e) else (2 * m, e - 1)
      let w := m * 2 ^ 128
      let r := isqrt w 100 0
      (.fin false (2 * r + (if r * r = w then 0 else 1)) (e / 2 - 65), 0)

/-- Numerical order of two values that are no NaNs; equal zeros compare equal. -/
def ltFp (x y : Fp) : Bool :=
  match x, y with
  | .inf a, .inf b => a && !b
  | .inf a, .fin _ _ _ => a
  | .fin _ _ _, .inf b => !b
  | .fin a m e, .fin b n g => signedAt a m e (min e g) < signedAt b n g (min e g)
  | _, _ => false
/-- Numerical equality. -/
def eqFp (x y : Fp) : Bool :=
  match x, y with
  | .inf a, .inf b => a == b
  | .fin a m e, .fin b n g => signedAt a m e (min e g) == signedAt b n g (min e g)
  | _, _ => false
/-- The sign of a value. -/
def signFp : Fp → Bool
  | .nan _ => false
  | .inf a => a
  | .fin a _ _ => a

/-- fmin and fmax: the other operand of one NaN, −0 below +0 (R80). -/
def minFp (x y : Fp) : Fp × Flags :=
  let fl := sigFlag (isSig x || isSig y)
  if isNan x then (if isNan y then .nan false else y, fl)
  else if isNan y then (x, fl)
  else if ltFp x y || (eqFp x y && signFp x) then (x, fl) else (y, fl)
/-- fmax. -/
def maxFp (x y : Fp) : Fp × Flags :=
  let fl := sigFlag (isSig x || isSig y)
  if isNan x then (if isNan y then .nan false else y, fl)
  else if isNan y then (x, fl)
  else if ltFp y x || (eqFp x y && !signFp x) then (x, fl) else (y, fl)

/-- The integer an exact value rounds to, and whether inexact. -/
def roundInt (r : Rounding) (neg : Bool) (m : Nat) (e : Int) : Int × Bool :=
  let (n, nx) := roundAt r neg m e 0
  (if neg then -(n : Int) else n, nx)

/-- Conversion to an integer range: 0 for a NaN, the nearest end outside the range, invalid in each case (R81, R123). -/
def toInt (r : Rounding) (lo hi : Int) (x : Fp) : Int × Flags :=
  match x with
  | .nan _ => (0, flagNV)
  | .inf a => (if a then lo else hi, flagNV)
  | .fin a m e =>
    let (v, nx) := roundInt r a m e
    if v < lo then (lo, flagNV) else if hi < v then (hi, flagNV) else (v, if nx then flagNX else 0)

/-- An integer as an exact value. -/
def ofInt (v : Int) : Fp := .fin (v < 0) v.natAbs 0

/-- A two-operand float operation on encodings of one format with IEEE rounding and flags. -/
def arith2 (f : Fmt) (r : Rounding) (fz : Bool) (op : Fp → Fp → Fp × Flags) (a b : Nat) : Nat × Flags :=
  let g := fun v => if fz then flushIn f (decodeFp f v) else decodeFp f v
  let (x, f1) := op (g a) (g b)
  let (v, f2) := roundFp f r fz .ieee .either x
  (v, f1 ||| f2)

/-- The float adds of the near-memory unit: nearest even, subnormals kept, default NaN, no flags (R93). -/
def nmuAdd (f : Fmt) (a b : Nat) : Nat :=
  (arith2 f (.mode 0) false (addFp false) a b).1

end Sys2Proof.Machine
end

