-- ==== Sys2Proof/Machine/Flags.lean ====
section
/-! DEFINITION. Sticky flags and the arithmetic trap (R81, R99, R135, R137, R171, R172). -/

namespace Sys2Proof.Machine

/-- The sticky flags of the scalar unit gain an operation's flags (R81, R99). -/
def CoreSt.addFsr (c : CoreSt) (f : Flags) : CoreSt := { c with fsr := c.fsr ||| f }

/-- The vector status word gains IEEE flags (R135). -/
def CoreSt.addVsw (c : CoreSt) (f : BitVec 8) : CoreSt := { c with vsw := c.vsw ||| f }

/-- The vsw bits: ISAT, OOR, SHC (R135). -/
def vswISAT : BitVec 8 := 0x20
def vswOOR : BitVec 8 := 0x40
def vswSHC : BitVec 8 := 0x80

/-- The IEEE bits of a vsw update. -/
def ieeeBits (v : BitVec 8) : Flags := v.extractLsb' 0 5

/-- Raise the arithmetic trap when an instruction has set a flag whose enable is set; the result is written already, and a
resumed core goes on with the next instruction (R65, R81, R137, R172). -/
def trapIf (s : State) (core : CoreId) (f : Flags) (word : Word) : State :=
  if f &&& (s.core core).xcfg = 0 then s else raiseExc s core excArith 0 word

end Sys2Proof.Machine
end

