-- ==== Sys2Proof/Machine/Operands.lean ====
section
/-! DEFINITION. The issue of an instruction by a core: its word (R68, R70, R77), fetch (R84, R184), the guard (R71), what is
illegal (R69, R73), and the operand forms that many instructions share. -/

namespace Sys2Proof.Machine

/-! ### Instruction words (R68, R70, R116, R149), for the exception record (R67) -/

/-- Guard and major opcode. -/
def encG (w : Who) (op : BitVec 6) : BitVec 32 :=
  ((BitVec.ofBool w.n).setWidth 32 <<< 31) ||| (w.p.setWidth 32 <<< 28) ||| (op.setWidth 32 <<< 22)
/-- Format R. -/
def encR (w : Who) (op : BitVec 6) (d a b : BitVec 5) (fn : BitVec 7) : Word :=
  (encG w op ||| (d.setWidth 32 <<< 17) ||| (a.setWidth 32 <<< 12) ||| (b.setWidth 32 <<< 7) ||| fn.setWidth 32).setWidth 64
/-- Format I. -/
def encI (w : Who) (op : BitVec 6) (d a : BitVec 5) (imm : BitVec 12) : Word :=
  (encG w op ||| (d.setWidth 32 <<< 17) ||| (a.setWidth 32 <<< 12) ||| imm.setWidth 32).setWidth 64
/-- Format A. -/
def encA (w : Who) (op : BitVec 6) (d a b : BitVec 5) (sc ord : BitVec 2) (fn : BitVec 3) : Word :=
  encR w op d a b (sc ++ ord ++ fn)
/-- Format K: movi. -/
def encK (w : Who) (op : BitVec 6) (d : BitVec 5) (imm : BitVec 17) : Word :=
  (encG w op ||| (d.setWidth 32 <<< 17) ||| imm.setWidth 32).setWidth 64
/-- Format B. -/
def encB (w : Who) (op : BitVec 6) (imm : BitVec 22) : Word := (encG w op ||| imm.setWidth 32).setWidth 64
/-- The first word of a 64-bit instruction: four 5-bit fields and the reserved pair. -/
def encW1 (w : Who) (op : BitVec 6) (x y z v : BitVec 5) (rsv : BitVec 2) : BitVec 32 :=
  encG w op ||| (x ++ y ++ z ++ v ++ rsv).setWidth 32
/-- A tile-vector instruction: the second word above the first (R68, R116). -/
def encTv (w : Who) (op : BitVec 6) (fn : BitVec 8) (f : TvWord) : Word :=
  (fn ++ f.ty ++ f.rm ++ BitVec.ofBool f.sr ++ BitVec.ofBool f.fz ++ BitVec.ofBool f.sat ++ BitVec.ofBool f.me ++ f.mt ++ f.imm)
    ++ encW1 w op f.td f.ta f.tb f.tc f.rsv

/-! ### The issuing core -/

/-- Read a predicate; p0 reads 1 (R72). -/
def CoreSt.rp (c : CoreSt) (i : BitVec 3) : Bool := i == 0 || c.p.getLsbD i.toNat
/-- Write a predicate; p0 discards (R72). -/
def CoreSt.setP (c : CoreSt) (i : BitVec 3) (v : Bool) : CoreSt :=
  if i = 0 then c else
  let bit := 1#8 <<< i.toNat
  { c with p := if v then c.p ||| bit else c.p &&& ~~~bit }
/-- Read a token counter. -/
def CoreSt.rk (c : CoreSt) (i : BitVec 4) : Word := c.k[i.toNat]'i.isLt
/-- Write a token counter. -/
def CoreSt.setK (c : CoreSt) (i : BitVec 4) (v : Word) : CoreSt := { c with k := c.k.setIfInBounds i.toNat v }
/-- Read a tile. -/
def CoreSt.rt (c : CoreSt) (i : BitVec 5) : Tile := c.t[i.toNat]'i.isLt
/-- Write a tile. -/
def CoreSt.setT (c : CoreSt) (i : BitVec 5) (v : Tile) : CoreSt := { c with t := c.t.setIfInBounds i.toNat v }

/-- The context of a core's launch (R39). -/
def ctxOf (s : State) (core : CoreId) : Ctx := ((s.cluster core.cl).run.map (·.ctx)).getD 0
/-- The launch a core's cluster runs. -/
def launchOf (s : State) (core : CoreId) : Nat := ((s.cluster core.cl).run.map (·.id)).getD 0

/-- A core can issue: enabled, Running, no access outstanding, no warm reset, its cluster's clock running, no safe state
(R5, R40, R57, R75, R181, R510). -/
def coreReady (s : State) (core : CoreId) : Bool :=
  let c := s.core core
  let k := s.cluster core.cl
  enabledPos s core.cl core.pos.toNat && c.st == .running && c.pend.isNone && c.rst.isNone && k.rst.isNone &&
    k.run.isSome && k.pll == .running && !k.isolated && !s.fcl.safe

/-- The core holds the line of its pc as fetched and not issued (R184). -/
def fetchedHere (c : CoreSt) : Bool := c.fetched == some (c.pc.toNat / 64)

/-- No line move of a core is outstanding (R106). -/
def noMoves (c : CoreSt) : Bool := (List.range 4).all fun i => (mgetD none c.lmv i).isNone

/-- A fetch is served from the instruction cache, the L2 or the home (R84, R184). -/
def serveFetch (s : State) (core : CoreId) (p : PendLoad) : State :=
  let c := s.core core
  let line := p.pa / 64
  match lookIc line p.ctx c with
  | some x => finishLoad (s.modCore core (fillIc x)) core p x.data x.poison
  | none =>
    match l2Read s core p.ctx line p.alloc false false with
    | .hit k w =>
      let s := putWay s core.cl k w
      let s := if p.alloc && !w.poison then s.modCore core (fillIc ⟨line, p.ctx, w.data, false⟩) else s
      finishLoad s core p w.data w.poison
    | .wait s => s.modCore core fun c => { c with pend := some p }

/-- The line of the pc is fetched (R84, R184): translated as a fetch, from the instruction cache, the L2 or the home. -/
def fetchStep (s : State) (core : CoreId) (word : Word) : State :=
  let c := s.core core
  let ctx := ctxOf s core
  match translate s core.cl ctx c.pc .fetch with
  | .miss s => gateXlt s core ctx c.pc .fetch word
  | .ok l s =>
    let a := attrOf s l
    let pa := physOf l c.pc.toNat
    let p : PendLoad := ⟨pa, c.pc, 4, false, false, 0, aCache a, destOf l, true, ctx, word, true⟩
    match destOf l with
    | .device => serveFetch s core p
    | _ => remoteRead s core p a

/-- The guard reads 1 (R71). -/
def guardOn (c : CoreSt) (w : Who) : Bool := c.rp w.p != w.n

/-- Issue an instruction of some length: fetch, illegal encodings whatever the guard, a false guard skips it, else its
effect (R69, R71, R73, R84). A core that cannot issue is not disturbed (log entry 3). -/
def issue (s : State) (w : Who) (word : Word) (len : Nat) (legal : Bool) (body : State → State) : State :=
  if !coreReady s w.core then s
  else if !fetchedHere (s.core w.core) then fetchStep s w.core word
  else if !legal || (w.n && w.p == 0) || (len == 8 && (s.core w.core).pc.toNat % 8 != 0) then
    raiseExc s w.core excIllegal 0 word
  else if !guardOn (s.core w.core) w then s.modCore w.core fun c => c.adv len
  else body s

/-! ### Shared forms -/

/-- An instruction that changes its core alone and goes on. -/
def coreOp (s : State) (w : Who) (word : Word) (len : Nat) (legal : Bool) (f : CoreSt → CoreSt) : State :=
  issue s w word len legal fun s => s.modCore w.core fun c => (f c).adv len

/-- Format R: d := f a b (R78). -/
def regOp (s : State) (w : Who) (op : BitVec 6) (fn : BitVec 7) (d a b : BitVec 5) (legal : Bool) (f : Word → Word → Word) : State :=
  coreOp s w (encR w op d a b fn) 4 legal fun c => c.setS d (f (c.rs a) (c.rs b))

/-- Format R with one operand: field B must be 0 (R78). -/
def regOp1 (s : State) (w : Who) (op : BitVec 6) (fn : BitVec 7) (d a b : BitVec 5) (f : Word → Word) : State :=
  regOp s w op fn d a b (b == 0) fun x _ => f x

/-- Format I: d := f a sext(imm12) (R79). -/
def immOp (s : State) (w : Who) (op : BitVec 6) (d a : BitVec 5) (imm : BitVec 12) (f : Word → Word → Word) : State :=
  coreOp s w (encI w op d a imm) 4 true fun c => c.setS d (f (c.rs a) (imm.signExtend 64))

/-- The high bits of a field that names a predicate are 0 (R70, R82). -/
def isPred (r : BitVec 5) : Bool := r.extractLsb' 3 2 == 0
/-- The predicate a field names. -/
def predOf (r : BitVec 5) : BitVec 3 := r.extractLsb' 0 3

/-- A compare of two registers: pD := (a cc b) (R82). -/
def cmpOp (s : State) (w : Who) (fn : BitVec 7) (d a b : BitVec 5) (f : Word → Word → Bool) : State :=
  coreOp s w (encR w 0x0F d a b fn) 4 (isPred d) fun c => c.setP (predOf d) (f (c.rs a) (c.rs b))

/-- A compare with an immediate (R82). -/
def cmpImmOp (s : State) (w : Who) (op : BitVec 6) (d a : BitVec 5) (imm : BitVec 12) (f : Word → Word → Bool) : State :=
  coreOp s w (encI w op d a imm) 4 (isPred d) fun c => c.setP (predOf d) (f (c.rs a) (imm.signExtend 64))

/-- Predicate logic: pD := pA op pB (R82). -/
def predOp (s : State) (w : Who) (fn : BitVec 7) (d a b : BitVec 5) (f : Bool → Bool → Bool) : State :=
  coreOp s w (encR w 0x16 d a b fn) 4 (isPred d && isPred a && isPred b) fun c =>
    c.setP (predOf d) (f (c.rp (predOf a)) (c.rp (predOf b)))

end Sys2Proof.Machine
end

