-- ==== Sys2Proof/Machine/CoreMem.lean ====
section
/-! DEFINITION. The memory instructions of a core: loads and stores (R85 to R90), the local store (R88), atomics (R91, R92),
reductions (R93), reserved pairs (R94 to R96), cache line operations (R109), under the buffer rules of R276 to R283. -/

namespace Sys2Proof.Machine

/-! ### What a core's access waits for -/

/-- Translate an address for a core, or gate it (R62, R86). -/
def withXlt (s : State) (core : CoreId) (va : Word) (a : Access) (word : Word) (k : Leaf → State → State) : State :=
  match translate s core.cl (ctxOf s core) va a with
  | .miss s => gateXlt s core (ctxOf s core) va a word
  | .ok l s => k l s

/-- The combining buffer holds a line (R280). -/
def touchesCb (c : CoreSt) (d : Dest) (line : Nat) : Bool := c.cb.any fun l => l.dest == d && l.line == line
/-- Mark a combining line to be sent (R280). -/
def flushLine (d : Dest) (line : Nat) (c : CoreSt) : CoreSt :=
  { c with cb := c.cb.map fun l => if l.dest = d ∧ l.line = line then { l with flush := true } else l }

/-- A store-buffer entry holds some of the masked bytes of a line; an add counts as the whole line (R279). -/
def overlaps (d : Dest) (line : Nat) (m : Mask) (e : SbEntry) : Bool :=
  e.dest == d && e.pa / 64 == line &&
    match e.kind with
    | .store => e.mask &&& m != 0
    | .red _ => true
    | _ => false

/-- A write to a line has been sent and its answer is outstanding, so that an access to the line waits (R277, R279). -/
def outOnLine (s : State) (core : CoreId) (d : Dest) (line : Nat) : Bool :=
  (s.cluster core.cl).outw.any fun o => o.dest == d && o.line == line &&
    (match d with
     | .device => o.src != .wt
     | _ => o.core == core.pos && o.src != .store)

/-- An outstanding line move of the core covers the line of a virtual address; only outward moves where out is set (R263). -/
def moveOn (c : CoreSt) (va : Word) (out : Bool) : Bool :=
  (List.range 4).any fun i => match mgetD none c.lmv i with
    | some m =>
      let n := va.toNat / 64 - m.va.toNat / 64
      (m.out || !out) && decide (m.va.toNat / 64 ≤ va.toNat / 64 ∧ n < m.count) && !m.done.getLsbD n
    | none => false

/-- A DEVO access of the core has not been performed (R276). -/
def devoBefore (s : State) (core : CoreId) : Bool :=
  (s.core core).sb.any (fun e => aDevo e.attr) || (s.cluster core.cl).outw.any fun o => o.core == core.pos && o.devo

/-- Every earlier access of the core is performed at a scope (R262, R269, R271): loads block the core, so that its writes
and line moves remain. -/
def earlierDone (s : State) (core : CoreId) (sc : BitVec 2) : Bool :=
  let c := s.core core
  let out := (s.cluster core.cl).outw.filter fun o => o.core == core.pos
  sc == 0 || (c.sb.isEmpty && c.cb.isEmpty && noMoves c &&
    (if sc = 1 then true else if sc = 2 then out.all fun o => o.dest != .device else out.isEmpty))

/-- Go on once every earlier access is performed at a scope; until then the combining lines are sent and the instruction is
issued again (R271, R280). -/
def afterEarlier (s : State) (core : CoreId) (sc : BitVec 2) (k : State → State) : State :=
  if earlierDone s core sc then k s else s.modCore core flushMark

/-! ### Loads (R85, R86, R181, R279) -/

/-- The next-line prefetch that an L1 miss starts (R181). -/
def prefetchNext (s : State) (core : CoreId) (p : PendLoad) : State :=
  let next := p.pa / 64 + 1
  if p.nopf || !p.alloc || next * 64 / 2 ^ 25 != p.pa / 2 ^ 25 || inL1 next p.ctx (s.core core) then s
  else match l2Read s core p.ctx next true true true with
    | .hit k w => if w.poison then s else (putWay s core.cl k w).modCore core (fillL1 ⟨next, p.ctx, w.data, false⟩)
    | .wait s => s

/-- A load of device memory is served by the L1, the victim cache or the L2, or it stalls the core (R181, R182, R190). -/
def serveLoad (s : State) (core : CoreId) (p : PendLoad) : State :=
  let line := p.pa / 64
  let first := (s.core core).pend.isNone
  match (if p.alloc then lookL1 line p.ctx (s.core core) else none) with
  | some (x, c) => finishLoad (s.setCore core c) core p x.data x.poison
  | none =>
    match l2Read s core p.ctx line p.alloc false false with
    | .hit k w =>
      let s := putWay s core.cl k w
      let s := if p.alloc && !w.poison then s.modCore core (fillL1 ⟨line, p.ctx, w.data, false⟩) else s
      finishLoad (if first then prefetchNext s core p else s) core p w.data w.poison
    | .wait s =>
      let s := s.modCore core fun c => { c with pend := some p }
      if first then prefetchNext s core p else s

/-- A translated load of n bytes: it forwards from the youngest store-buffer entry that covers it, waits for any other
overlap, for a line in the combining buffer, for a line move and for DEVO order, and reads otherwise (R276, R277, R279). -/
def orderedLoad (s : State) (core : CoreId) (p : PendLoad) (a : BitVec 8) (n : Nat) : State :=
  let c := s.core core
  let line := p.pa / 64
  let m := maskAt (p.pa % 64) n
  if touchesCb c p.dest line then s.modCore core (flushLine p.dest line)
  else if moveOn c p.va true || (aDevo a && devoBefore s core) then s
  else match c.sb.reverse.find? (overlaps p.dest line m) with
    | some e => if e.kind == .store && !aDevo a && m &&& ~~~e.mask == 0 then finishLoad s core p e.data false else s
    | none =>
      if outOnLine s core p.dest line then s
      else match p.dest with
        | .device => serveLoad s core p
        | _ => remoteRead s core p a

/-- The effect of a load of one register, or of a pair, from a virtual address (R85, R86). -/
def loadBody (s : State) (core : CoreId) (d : BitVec 5) (va : Word) (size : Nat) (sext pair : Bool) (word : Word) : State :=
  if va.toNat % size ≠ 0 then raiseExc s core excMisaligned va word
  else
    let second := pair && (s.core core).pairLo.isSome
    let va := if second then va + 8 else va
    withXlt s core va .read word fun l s =>
      let a := attrOf s l
      let pa := physOf l va.toNat
      let p : PendLoad := ⟨pa, va, size, sext, pair, d, aCache a, destOf l, aNopf a || aDevo a, ctxOf s core, word, false⟩
      orderedLoad s core p a (if pair && !second && pa % 64 ≤ 48 then 16 else size)

/-- A load in format I (R85). -/
def loadOp (s : State) (w : Who) (op : BitVec 6) (d a : BitVec 5) (imm : BitVec 12) (size : Nat) (sext : Bool) : State :=
  issue s w (encI w op d a imm) 4 true fun s =>
    loadBody s w.core d ((s.core w.core).rs a + imm.signExtend 64) size sext false (encI w op d a imm)

/-! ### Stores (R85 to R87, R278) -/

/-- A store-buffer entry of n bytes at a translated address. -/
def sbEntry (s : State) (core : CoreId) (kind : SbKind) (l : Leaf) (va : Word) (n v : Nat) (rel : Bool) (sc : BitVec 2)
    (word : Word) : SbEntry :=
  let a := attrOf s l
  let pa := physOf l va.toNat
  let c := s.core core
  let moves := (List.range 4).foldl (fun (b : BitVec 4) i => if (mgetD none c.lmv i).isSome then b ||| (1#4 <<< i) else b) 0
  { kind := kind, dest := destOf l, pa := pa, va := va, mask := maskAt (pa % 64) n, data := lineAt (pa % 64) n v,
    ctx := ctxOf s core, attr := a, rel := rel, scope := sc, oid := oidOf a 0, pc := c.pc, word := word,
    launch := launchOf s core, sent := false, after := if rel then moves else 0 }

/-- A line operation of R109 is not a store that clears the reservation (R95). -/
def isMaint (k : SbKind) : Bool := k == .clean || k == .cinv || k == .marker

/-- Entries retire into the store buffer; a write clears the reservation, and a release of cluster scope or wider sends the
combining lines (R95, R278, R280). The instruction waits while the buffer is full or a line is in the combining buffer. -/
def retire (s : State) (core : CoreId) (es : List SbEntry) : State :=
  let c := s.core core
  if es.any fun e => e.kind != .marker && touchesCb c e.dest (e.pa / 64) then
    s.modCore core fun c => es.foldl (fun c e => flushLine e.dest (e.pa / 64) c) c
  else if 8 < c.sb.length + es.length ∨ es.any (fun e => e.kind != .marker && moveOn c e.va false) then s
  else s.modCore core fun c =>
    let c := { c.adv 4 with sb := c.sb ++ es, rsv := if es.all (fun e => isMaint e.kind) then c.rsv else none }
    if es.any fun e => e.rel && e.scope != 0 then flushMark c else c

/-- The effect of a store of n bytes aligned to size: 0x02, translation, then the store buffer; a pair that spans two lines
takes two entries (R85, R86, R265). -/
def storeBody (s : State) (core : CoreId) (va : Word) (size n v : Nat) (rel : Bool) (sc : BitVec 2) (word : Word) : State :=
  if va.toNat % size ≠ 0 then raiseExc s core excMisaligned va word
  else withXlt s core va .write word fun l s =>
    if va.toNat % 64 + n ≤ 64 then retire s core [sbEntry s core .store l va n v rel sc word]
    else withXlt s core (va + 8) .write word fun l2 s =>
      retire s core [sbEntry s core .store l va 8 (v % 2 ^ 64) rel sc word,
                     sbEntry s core .store l2 (va + 8) 8 (v / 2 ^ 64) rel sc word]

/-- A store in format I (R85). -/
def storeOp (s : State) (w : Who) (op : BitVec 6) (d a : BitVec 5) (imm : BitVec 12) (size : Nat) : State :=
  issue s w (encI w op d a imm) 4 true fun s =>
    let c := s.core w.core
    storeBody s w.core (c.rs a + imm.signExtend 64) size size (c.rs d).toNat false 0 (encI w op d a imm)

/-- Place 8 bytes in the combining buffer: they join their line, take a free line, or wait for one (R87, R280). -/
def combine (s : State) (core : CoreId) (e : SbEntry) : State :=
  let c := s.core core
  let line := e.pa / 64
  let busy := c.sb.any (fun x => x.kind == .marker || (x.dest == e.dest && x.pa / 64 == line)) || moveOn c e.va false ||
    ((s.cluster core.cl).outw.any fun o => o.dest == e.dest && o.line == line && o.src != .nt && o.src != .wt)
  if busy then s
  else match c.cb.find? fun l => l.dest == e.dest && l.line == line with
    | some l => if l.sent then s else
      let up := fun l : CbLine => if l.dest = e.dest ∧ l.line = line then
          { l with mask := l.mask ||| e.mask, data := mergeLine l.data e.mask e.data, flush := l.flush || (l.mask ||| e.mask) == Mask.full }
        else l
      s.modCore core fun c => { c.adv 4 with cb := c.cb.map up, rsv := none }
    | none =>
      if c.cb.length < 4 then
        let l : CbLine := ⟨false, e.dest, line, e.va, e.mask, e.data, e.ctx, e.attr, e.pc, e.word, e.launch, false⟩
        s.modCore core fun c => { c.adv 4 with cb := c.cb ++ [l], rsv := none }
      else match c.cb.head? with
        | some l => s.modCore core (flushLine l.dest l.line)
        | none => s

/-- The effect of st.nt: in a DEVO region it acts as st.64 (R87). -/
def ntBody (s : State) (core : CoreId) (va : Word) (v : Nat) (word : Word) : State :=
  if va.toNat % 8 ≠ 0 then raiseExc s core excMisaligned va word
  else withXlt s core va .write word fun l s =>
    let e := sbEntry s core .store l va 8 v false 0 word
    if aDevo e.attr then retire s core [e] else combine s core e

/-! ### Loads and stores -/

/-- ld.s8 (R85). -/
def execLdS8 (w : Who) (d a : BitVec 5) (imm : BitVec 12) (s : State) : Out := .next (loadOp s w 0x20 d a imm 1 true)
/-- ld.u8 (R85). -/
def execLdU8 (w : Who) (d a : BitVec 5) (imm : BitVec 12) (s : State) : Out := .next (loadOp s w 0x21 d a imm 1 false)
/-- ld.s16 (R85). -/
def execLdS16 (w : Who) (d a : BitVec 5) (imm : BitVec 12) (s : State) : Out := .next (loadOp s w 0x22 d a imm 2 true)
/-- ld.u16 (R85). -/
def execLdU16 (w : Who) (d a : BitVec 5) (imm : BitVec 12) (s : State) : Out := .next (loadOp s w 0x23 d a imm 2 false)
/-- ld.s32 (R85). -/
def execLdS32 (w : Who) (d a : BitVec 5) (imm : BitVec 12) (s : State) : Out := .next (loadOp s w 0x24 d a imm 4 true)
/-- ld.u32 (R85). -/
def execLdU32 (w : Who) (d a : BitVec 5) (imm : BitVec 12) (s : State) : Out := .next (loadOp s w 0x25 d a imm 4 false)
/-- ld.64 (R85). -/
def execLd64 (w : Who) (d a : BitVec 5) (imm : BitVec 12) (s : State) : Out := .next (loadOp s w 0x26 d a imm 8 false)
/-- st.8 (R85). -/
def execSt8 (w : Who) (d a : BitVec 5) (imm : BitVec 12) (s : State) : Out := .next (storeOp s w 0x27 d a imm 1)
/-- st.16 (R85). -/
def execSt16 (w : Who) (d a : BitVec 5) (imm : BitVec 12) (s : State) : Out := .next (storeOp s w 0x28 d a imm 2)
/-- st.32 (R85). -/
def execSt32 (w : Who) (d a : BitVec 5) (imm : BitVec 12) (s : State) : Out := .next (storeOp s w 0x29 d a imm 4)
/-- st.64 (R85). -/
def execSt64 (w : Who) (d a : BitVec 5) (imm : BitVec 12) (s : State) : Out := .next (storeOp s w 0x2A d a imm 8)
/-- ld.pair: two words into D and D+1; D must be even (R85). -/
def execLdPair (w : Who) (d a : BitVec 5) (imm : BitVec 12) (s : State) : Out :=
  .next (issue s w (encI w 0x2B d a imm) 4 (!d.getLsbD 0) fun s =>
    loadBody s w.core d ((s.core w.core).rs a + imm.signExtend 64) 8 false true (encI w 0x2B d a imm))
/-- st.pair: D and D+1 to two words; D must be even (R85). -/
def execStPair (w : Who) (d a : BitVec 5) (imm : BitVec 12) (s : State) : Out :=
  .next (issue s w (encI w 0x2C d a imm) 4 (!d.getLsbD 0) fun s =>
    let c := s.core w.core
    storeBody s w.core (c.rs a + imm.signExtend 64) 8 16 ((c.rs d).toNat + (c.rs (d + 1)).toNat * 2 ^ 64) false 0
      (encI w 0x2C d a imm))
/-- st.nt (R87). -/
def execStNt (w : Who) (d a : BitVec 5) (imm : BitVec 12) (s : State) : Out :=
  .next (issue s w (encI w 0x2D d a imm) 4 true fun s =>
    let c := s.core w.core
    ntBody s w.core (c.rs a + imm.signExtend 64) (c.rs d).toNat (encI w 0x2D d a imm))

/-! ### Local store (R88) -/

/-- The checks of a local-store access: a multiple of the size, then within 64 KiB (R74, R88). -/
def lsOp (s : State) (w : Who) (op : BitVec 6) (d a : BitVec 5) (imm : BitVec 12) (size : Nat) (f : Nat → CoreSt → CoreSt) : State :=
  issue s w (encI w op d a imm) 4 true fun s =>
    let la := (s.core w.core).rs a + imm.signExtend 64
    if la.toNat % size ≠ 0 then raiseExc s w.core excMisaligned la (encI w op d a imm)
    else if 65536 < la.toNat + size then raiseExc s w.core excLsRange la (encI w op d a imm)
    else s.modCore w.core fun c => (f la.toNat c).adv 4

/-- ls.ld.64 (R88). -/
def execLsLd64 (w : Who) (d a : BitVec 5) (imm : BitVec 12) (s : State) : Out :=
  .next (lsOp s w 0x2E d a imm 8 fun la c => c.setS d (BitVec.ofNat 64 (rdBytes c.ls la 8)))
/-- ls.ld.u32 (R88). -/
def execLsLdU32 (w : Who) (d a : BitVec 5) (imm : BitVec 12) (s : State) : Out :=
  .next (lsOp s w 0x30 d a imm 4 fun la c => c.setS d (BitVec.ofNat 64 (rdBytes c.ls la 4)))
/-- ls.st.64 (R88). -/
def execLsSt64 (w : Who) (d a : BitVec 5) (imm : BitVec 12) (s : State) : Out :=
  .next (lsOp s w 0x2F d a imm 8 fun la c => { c with ls := wrBytes c.ls la 8 (c.rs d).toNat })
/-- ls.st.32 (R88). -/
def execLsSt32 (w : Who) (d a : BitVec 5) (imm : BitVec 12) (s : State) : Out :=
  .next (lsOp s w 0x31 d a imm 4 fun la c => { c with ls := wrBytes c.ls la 4 ((c.rs d).toNat % 2 ^ 32) })

/-! ### Ordered loads and stores (R89, R90) -/

/-- ld.32.acq: ORD must be 0b01 and B 0 (R90). A load blocks the core, so an acquire needs no more (R268). -/
def execLd32Acq (w : Who) (d a b : BitVec 5) (sc ord : BitVec 2) (s : State) : Out :=
  .next (issue s w (encA w 0x32 d a b sc ord 0) 4 (ord == 1 && b == 0) fun s =>
    loadBody s w.core d ((s.core w.core).rs a) 4 false false (encA w 0x32 d a b sc ord 0))
/-- ld.64.acq (R90). -/
def execLd64Acq (w : Who) (d a b : BitVec 5) (sc ord : BitVec 2) (s : State) : Out :=
  .next (issue s w (encA w 0x32 d a b sc ord 1) 4 (ord == 1 && b == 0) fun s =>
    loadBody s w.core d ((s.core w.core).rs a) 8 false false (encA w 0x32 d a b sc ord 1))
/-- st.32.rel: ORD must be 0b10 and D 0 (R90). -/
def execSt32Rel (w : Who) (d a b : BitVec 5) (sc ord : BitVec 2) (s : State) : Out :=
  .next (issue s w (encA w 0x32 d a b sc ord 2) 4 (ord == 2 && d == 0) fun s =>
    let c := s.core w.core
    storeBody s w.core (c.rs a) 4 4 (c.rs b).toNat true sc (encA w 0x32 d a b sc ord 2))
/-- st.64.rel (R90). -/
def execSt64Rel (w : Who) (d a b : BitVec 5) (sc ord : BitVec 2) (s : State) : Out :=
  .next (issue s w (encA w 0x32 d a b sc ord 3) 4 (ord == 2 && d == 0) fun s =>
    let c := s.core w.core
    storeBody s w.core (c.rs a) 8 8 (c.rs b).toNat true sc (encA w 0x32 d a b sc ord 3))

/-! ### Atomics (R91, R92) -/

/-- ORD and SC are a defined pair: a relaxed access has SC 0b00 (R89). -/
def ordOk (sc ord : BitVec 2) : Bool := ord != 0 || sc == 0

/-- An access that the cluster L2 performs must wait for the core's own writes and moves to the line and for DEVO order
(R263, R276, R279). -/
def ownWait (s : State) (core : CoreId) (l : Leaf) (va : Word) : Bool :=
  let c := s.core core
  let line := physOf l va.toNat / 64
  c.sb.any (fun e => e.kind != .marker && e.dest == destOf l && e.pa / 64 == line) || moveOn c va false ||
    outOnLine s core (destOf l) line || (aDevo (attrOf s l) && devoBefore s core)

/-- The masked bytes enter an owned way as the region's attributes say: kept dirty, written through, or written to the home
and removed (R92, R190). -/
def writeOwned (s : State) (cl : BitVec 6) (key : Nat) (w : L2Way) (a : BitVec 8) : State :=
  if aWriteBack a then putWay s cl key { w with st := .M }
  else if aCache a then writeThrough s cl key w .vic
  else evictWay s cl key { w with st := .M } .vic

/-- Write some bytes of an owned line for a core: other copies of the cluster go, the core's own take the bytes (R183). -/
def writeLine (s : State) (core : CoreId) (key : Nat) (w : L2Way) (a : BitVec 8) (m : Mask) (d : Line) : State :=
  let s := storeReaches s core.cl core.pos.toNat w.line
  let s := s.modCore core (updateL1 w.line w.ctx m d)
  writeOwned s core.cl key { w with data := mergeLine w.data m d } a

/-- Whether a write of an owned line needs a write-back slot and a VIC credit that are not free (R187, R241). -/
def lacksSlot (s : State) (cl : BitVec 6) (line : Nat) (a : BitVec 8) : Bool := !aWriteBack a && !vicSlot s cl line

/-- A core's access holds a device line exclusively in the L2, or waits; what the record names if the home refuses stays
with the core (R86, R92). -/
def withOwned (s : State) (core : CoreId) (l : Leaf) (va word : Word) (keOk : Bool) (k : Nat → L2Way → State → State) : State :=
  match l2Own s core (ctxOf s core) (physOf l va.toNat / 64) keOk with
  | .wait s => s.modCore core fun c => { c with xwait := some ⟨excContext, c.pc, va, word⟩ }
  | .hit key w => k key w (s.modCore core fun c => { c with xwait := none })

/-- The effect of an atomic: 0x02, translation, ownership, then one indivisible read and update (R91, R92). The function
gives the new value from the old, or none where nothing is written. -/
def atomicBody (s : State) (core : CoreId) (d : BitVec 5) (va : Word) (size : Nat) (rel : Bool) (sc : BitVec 2) (word : Word)
    (f : Nat → Option Nat) : State :=
  if va.toNat % size ≠ 0 then raiseExc s core excMisaligned va word
  else withXlt s core va .rw word fun l s =>
    let a := attrOf s l
    let pa := physOf l va.toNat
    if destOf l ≠ .device then raiseExc s core excContext va word
    else if touchesCb (s.core core) .device (pa / 64) then s.modCore core (flushLine .device (pa / 64))
    else if ownWait s core l va then s
    else afterEarlier s core (if rel then sc else 0) fun s =>
      withOwned s core l va word (!aWriteBack a) fun key w s =>
        if w.poison then raiseExc s core excPoison va word
        else if lacksSlot s core.cl w.line a then s
        else
          let off := pa % 64
          let old := lineNat w.data off size
          let s := match f old with
            | some v => writeLine s core key w a (maskAt off size) (lineAt off size v)
            | none => if aCache a then putWay s core.cl key w else evictWay s core.cl key w .vic
          s.modCore core fun c => ({ c with rsv := none }.setS d (BitVec.ofNat 64 old)).adv 4

/-- Operands of an atomic: the low bytes of the size (R91). -/
def lowN (size : Nat) (v : Word) : Nat := v.toNat % 2 ^ (8 * size)
/-- An operand as a signed number of the size. -/
def sgnN (size : Nat) (v : Nat) : Int := (sext64 (8 * size) v).toInt

/-- An atomic of OP 0x33 and 0x34, or 0x35 (R91): the major opcode and FN, and old and operand to the new value. -/
def amoOp (s : State) (w : Who) (op : BitVec 6) (fn : BitVec 3) (d a b : BitVec 5) (sc ord : BitVec 2) (sz : Bool)
    (f : Nat → Nat → Nat → Nat → Option Nat) : State :=
  let word := encA w op d a b sc ord fn
  let size := if sz then 8 else 4
  issue s w word 4 (ordOk sc ord) fun s =>
    let c := s.core w.core
    atomicBody s w.core d (c.rs a) size (ord.getLsbD 1) sc word fun old => f size old (lowN size (c.rs b)) (lowN size (c.rs d))

/-- The major opcode of a sized atomic: 0x33 on 4 bytes, 0x34 on 8 (R91). -/
def amoMajor (sz : Bool) : BitVec 6 := if sz then 0x34 else 0x33

/-- amo.add (R91). -/
def execAmoAdd (w : Who) (d a b : BitVec 5) (sc ord : BitVec 2) (sz : Bool) (s : State) : Out :=
  .next (amoOp s w (amoMajor sz) 0 d a b sc ord sz fun n old v _ => some ((old + v) % 2 ^ (8 * n)))
/-- amo.and (R91). -/
def execAmoAnd (w : Who) (d a b : BitVec 5) (sc ord : BitVec 2) (sz : Bool) (s : State) : Out :=
  .next (amoOp s w (amoMajor sz) 1 d a b sc ord sz fun _ old v _ => some (old &&& v))
/-- amo.or (R91). -/
def execAmoOr (w : Who) (d a b : BitVec 5) (sc ord : BitVec 2) (sz : Bool) (s : State) : Out :=
  .next (amoOp s w (amoMajor sz) 2 d a b sc ord sz fun _ old v _ => some (old ||| v))
/-- amo.xor (R91). -/
def execAmoXor (w : Who) (d a b : BitVec 5) (sc ord : BitVec 2) (sz : Bool) (s : State) : Out :=
  .next (amoOp s w (amoMajor sz) 3 d a b sc ord sz fun _ old v _ => some (old ^^^ v))
/-- amo.swap (R91). -/
def execAmoSwap (w : Who) (d a b : BitVec 5) (sc ord : BitVec 2) (sz : Bool) (s : State) : Out :=
  .next (amoOp s w (amoMajor sz) 4 d a b sc ord sz fun _ _ v _ => some v)
/-- amo.cas: D holds the compare value on entry (R91). -/
def execAmoCas (w : Who) (d a b : BitVec 5) (sc ord : BitVec 2) (sz : Bool) (s : State) : Out :=
  .next (amoOp s w (amoMajor sz) 5 d a b sc ord sz fun _ old v e => if old = e then some v else none)
/-- amo.max, signed (R91). -/
def execAmoMax (w : Who) (d a b : BitVec 5) (sc ord : BitVec 2) (sz : Bool) (s : State) : Out :=
  .next (amoOp s w (amoMajor sz) 6 d a b sc ord sz fun n old v _ => some (if sgnN n old < sgnN n v then v else old))
/-- amo.min, signed (R91). -/
def execAmoMin (w : Who) (d a b : BitVec 5) (sc ord : BitVec 2) (sz : Bool) (s : State) : Out :=
  .next (amoOp s w (amoMajor sz) 7 d a b sc ord sz fun n old v _ => some (if sgnN n old < sgnN n v then old else v))
/-- amo.minu: OP 0x35, FN[0] the size, FN[1] 0 (R91). -/
def execAmoMinu (w : Who) (d a b : BitVec 5) (sc ord : BitVec 2) (sz : Bool) (s : State) : Out :=
  .next (amoOp s w 0x35 (if sz then 1 else 0) d a b sc ord sz fun _ old v _ => some (min old v))
/-- amo.maxu: OP 0x35, FN[0] the size, FN[1] 1 (R91). -/
def execAmoMaxu (w : Who) (d a b : BitVec 5) (sc ord : BitVec 2) (sz : Bool) (s : State) : Out :=
  .next (amoOp s w 0x35 (if sz then 3 else 2) d a b sc ord sz fun _ old v _ => some (max old v))

/-! ### Reserved pairs (R94 to R96, R281 to R283) -/

/-- The effect of ld.rsv: the line is held exclusively, its data returned, the reservation set and the hold begun in one
step (R94, R282). With CACHE = 0 the line leaves again, which clears the reservation (R95, R190). -/
def rsvBody (s : State) (core : CoreId) (d : BitVec 5) (va : Word) (size : Nat) (word : Word) : State :=
  if va.toNat % size ≠ 0 then raiseExc s core excMisaligned va word
  else withXlt s core va .read word fun l s =>
    let a := attrOf s l
    let pa := physOf l va.toNat
    if destOf l ≠ .device then raiseExc s core excContext va word
    else if touchesCb (s.core core) .device (pa / 64) then s.modCore core (flushLine .device (pa / 64))
    else if ownWait s core l va then s
    else withOwned s core l va word false fun key w s =>
      if w.poison then raiseExc s core excPoison va word
      else
        let v := BitVec.ofNat 64 (lineNat w.data (pa % 64) size)
        let s := if aCache a then putWay s core.cl key { w with hold := some core.pos, holdTs := s.ts }
                 else evictWay s core.cl key w .vic
        s.modCore core fun c => ({ c with rsv := if aCache a then some w.line else none }.setS d v).adv 4

/-- ld.rsv: FN 0b000 and 0b001, ORD relaxed or acquire, B 0 (R94). -/
def execLdRsv (w : Who) (d a b : BitVec 5) (sc ord : BitVec 2) (sz : Bool) (s : State) : Out :=
  let word := encA w 0x36 d a b sc ord (if sz then 1 else 0)
  .next (issue s w word 4 (b == 0 && !ord.getLsbD 1 && ordOk sc ord) fun s =>
    rsvBody s w.core d ((s.core w.core).rs a) (if sz then 8 else 4) word)

/-- An st.cnd fails: it writes 1 and clears the reservation (R94). -/
def cndFail (s : State) (core : CoreId) (d : BitVec 5) : State :=
  s.modCore core fun c => ({ c with rsv := none }.setS d 1).adv 4

/-- The effect of st.cnd: without a valid reservation on its line it fails and sends nothing; it may fail with no clearing
event, which a free value decides (log entry 25); else it stores while the line is held (R94, R96). -/
def cndBody (s : State) (core : CoreId) (d : BitVec 5) (va : Word) (size v : Nat) (rel : Bool) (sc : BitVec 2) (word : Word) : State :=
  if va.toNat % size ≠ 0 then raiseExc s core excMisaligned va word
  else withXlt s core va .rw word fun l s =>
    let a := attrOf s l
    let pa := physOf l va.toNat
    if destOf l ≠ .device ∨ (s.core core).rsv ≠ some (pa / 64) then cndFail s core d
    else if Config.cndSpurious s.free then cndFail s.draw.2 core d
    else afterEarlier s core (if rel then sc else 0) fun s =>
      withOwned s core l va word false fun key w s =>
        if lacksSlot s core.cl w.line a then s
        else
          let s := writeLine s core key w a (maskAt (pa % 64) size) (lineAt (pa % 64) size v)
          s.draw.2.modCore core fun c => ({ c with rsv := none }.setS d 0).adv 4

/-- st.cnd: FN 0b010 and 0b011, ORD relaxed or release (R94). -/
def execStCnd (w : Who) (d a b : BitVec 5) (sc ord : BitVec 2) (sz : Bool) (s : State) : Out :=
  let word := encA w 0x36 d a b sc ord (if sz then 3 else 2)
  .next (issue s w word 4 (!ord.getLsbD 0 && ordOk sc ord) fun s =>
    let c := s.core w.core
    cndBody s w.core d (c.rs a) (if sz then 8 else 4) (c.rs b).toNat (ord.getLsbD 1) sc word)

/-! ### Reductions (R93) -/

/-- A red enters the store buffer as an add of some bytes; D must be 0 and ORD relaxed or release (R93, R278). -/
def redBody (s : State) (w : Who) (op : RedOp) (fn : BitVec 3) (size : Nat) (d a b : BitVec 5) (sc ord : BitVec 2) : State :=
  let word := encA w 0x37 d a b sc ord fn
  issue s w word 4 (d == 0 && !ord.getLsbD 0 && ordOk sc ord) fun s =>
    let c := s.core w.core
    let va := c.rs a
    if va.toNat % size ≠ 0 then raiseExc s w.core excMisaligned va word
    else withXlt s w.core va .write word fun l s =>
      if destOf l ≠ .device then raiseExc s w.core excContext va word
      else retire s w.core [sbEntry s w.core (.red op) l va size (c.rs b).toNat (ord.getLsbD 1) sc word]

/-- red.add.i32 (R93). -/
def execRedAddI32 (w : Who) (d a b : BitVec 5) (sc ord : BitVec 2) (s : State) : Out := .next (redBody s w .i32 0 4 d a b sc ord)
/-- red.add.i64 (R93). -/
def execRedAddI64 (w : Who) (d a b : BitVec 5) (sc ord : BitVec 2) (s : State) : Out := .next (redBody s w .i64 1 8 d a b sc ord)
/-- red.add.f32 (R93). -/
def execRedAddF32 (w : Who) (d a b : BitVec 5) (sc ord : BitVec 2) (s : State) : Out := .next (redBody s w .f32 2 4 d a b sc ord)
/-- red.add.bf16 (R93). -/
def execRedAddBf16 (w : Who) (d a b : BitVec 5) (sc ord : BitVec 2) (s : State) : Out := .next (redBody s w .bf16 3 2 d a b sc ord)

/-! ### Cache line operations (R109) -/

/-- pf: the line enters the cluster L2; it never gates and never raises, and a line that cannot be brought is dropped
(R109, R276). -/
def pfBody (s : State) (core : CoreId) (va : Word) : State :=
  match translate s core.cl (ctxOf s core) va .read with
  | .miss s => askXlt s ⟨.core core, ctxOf s core, va, .read, true⟩
  | .ok l s =>
    let a := attrOf s l
    if destOf l ≠ .device ∨ ¬ aCache a ∨ aDevo a then s
    else match l2Read s core (ctxOf s core) (physOf l va.toNat / 64) true true false with
      | .hit k w => putWay s core.cl k w
      | .wait s => s

/-- pf (R109). -/
def execPf (w : Who) (a : BitVec 5) (imm : BitVec 12) (s : State) : Out :=
  .next (issue s w (encI w 0x03 0 a imm) 4 true fun s =>
    (pfBody s w.core ((s.core w.core).rs a + imm.signExtend 64)).modCore w.core fun c => c.adv 4)

/-- A line operation is translated with RD and enters the store buffer; it has no line to act on outside device memory
(R109). -/
def maintOp (s : State) (w : Who) (d : BitVec 5) (k : SbKind) (a : BitVec 5) (imm : BitVec 12) : State :=
  let word := encI w 0x03 d a imm
  issue s w word 4 true fun s =>
    let va := (s.core w.core).rs a + imm.signExtend 64
    withXlt s w.core va .read word fun l s =>
      if destOf l ≠ .device then s.modCore w.core fun c => c.adv 4
      else retire s w.core [sbEntry s w.core k l (va &&& ~~~63#64) 64 0 false 0 word]

/-- cl.clean (R109). -/
def execClClean (w : Who) (a : BitVec 5) (imm : BitVec 12) (s : State) : Out := .next (maintOp s w 1 .clean a imm)
/-- cl.cinv (R109). -/
def execClCinv (w : Who) (a : BitVec 5) (imm : BitVec 12) (s : State) : Out := .next (maintOp s w 2 .cinv a imm)

end Sys2Proof.Machine
end

