-- ==== Sys2Proof/Machine/Drain.lean ====
section
/-! DEFINITION. How the store buffer and the combining buffer empty (R87, R93, R109, R271, R276 to R280), the fill of a
stalled core (R181), and the end of a reservation hold (R282). -/

namespace Sys2Proof.Machine

/-! ### One store-buffer entry -/

/-- The core of an entry's cluster can move: clock running, not frozen, not isolated (R58, R255, R293). -/
def canDrain (s : State) (core : CoreId) : Bool :=
  let k := s.cluster core.cl
  k.pll == .running && !k.isolated && !s.fcl.safe

/-- The posted path of a destination as a path mask bit (R284, R339). -/
def pathBit (d : Dest) : BitVec 2 :=
  match d with
  | .device => 0
  | .fabric _ => 1
  | .bus => 2

/-- Give an outstanding write a tag and enter it (R277); its launch has written (R284). -/
def addOut (s : State) (cl : BitVec 6) (o : OutWrite) : State :=
  { (launchWrote s o.launch (pathBit o.dest)).modCluster cl fun c => { c with outw := c.outw ++ [{ o with tag := s.nextTag }] } with nextTag := s.nextTag + 1 }

/-- The outstanding write of a store-buffer entry. -/
def outOf (core : CoreId) (e : SbEntry) (keep : Bool) : OutWrite :=
  { tag := 0, core := core.pos, src := .store, dest := e.dest, line := e.pa / 64, mask := e.mask, data := e.data,
    ctx := e.ctx, va := e.va, pc := e.pc, word := e.word, launch := e.launch, keep := keep, devo := aDevo e.attr }

/-- Two destinations are one: a home slice, a complex, or what lies behind the service port (R274). -/
def sameDest (m : MemSt) (d1 d2 : Dest) (line1 line2 : Nat) : Bool :=
  match d1, d2 with
  | .device, .device => homeOf m line1 == homeOf m line2
  | .fabric a, .fabric b => a == b
  | .bus, .bus => true
  | _, _ => false

/-- A DEVO write may leave: every DEVO write that the core has sent was to the same destination (R276). -/
def devoGo (s : State) (core : CoreId) (e : SbEntry) : Bool :=
  !aDevo e.attr || (s.cluster core.cl).outw.all fun o =>
    o.core != core.pos || !o.devo || sameDest s.mem o.dest e.dest o.line (e.pa / 64)

/-- A release or a marker may leave: nothing stands before it in the buffer, its line moves are done, no combining line
waits, and what the core has sent is performed at the scope (R262, R269, R271). -/
def relGo (s : State) (core : CoreId) (e : SbEntry) : Bool :=
  let out := (s.cluster core.cl).outw.filter fun o => o.core == core.pos
  !e.rel || e.scope == 0 || (e.after == 0 && (s.core core).cb.all (fun l => !l.flush) &&
    (if e.scope = 1 then true else if e.scope = 2 then out.all fun o => o.dest != .device else out.isEmpty))

/-- The entry at a position of the buffer leaves it. -/
def popSb (s : State) (core : CoreId) (i : Nat) : State := s.modCore core fun c => { c with sb := c.sb.eraseIdx i }
/-- The entry at a position has been sent and waits for its answer. -/
def sentSb (s : State) (core : CoreId) (i : Nat) : State :=
  s.modCore core fun c => { c with sb := c.sb.modify i fun e => { e with sent := true } }

/-- A write of the home's is accepted into the outbound queue: with EWA the entry frees, else it waits for CMP (R277). -/
def acceptSb (s : State) (core : CoreId) (i : Nat) (e : SbEntry) : State :=
  if aEwa e.attr then popSb s core i else sentSb s core i

/-- The masked write of an entry goes to its home as WRP (R190, R238). -/
def sendWrp (s : State) (core : CoreId) (e : SbEntry) (keep stream : Bool) : State :=
  let tag := s.nextTag
  send (addOut s core.cl (outOf core e keep))
    { toHome s .wrp core.cl (e.pa / 64) e.ctx with mask := e.mask, data := e.data, k := keep, stream := stream, tag := .write tag }

/-- The cluster's own copy of a line goes before a write that passes the L2: written back when dirty (R87, R93, R227); none
while it cannot. -/
def dropOwn (s : State) (cl : BitVec 6) (line : Nat) : Option State :=
  let c := s.cluster cl
  if inTransit c line then none
  else match l2Find c line with
    | none => some s
    | some (k, w) => if evictable s cl w then some (evictWay s cl k w .vic) else none

/-- A store takes its line exclusively and updates it (R190 write-back, write-through). -/
def storeOwned (s : State) (core : CoreId) (i : Nat) (e : SbEntry) : State :=
  match l2Own s core e.ctx (e.pa / 64) (!aWriteBack e.attr) with
  | .wait s => s
  | .hit key w => if lacksSlot s core.cl w.line e.attr then s else popSb (writeLine s core key w e.attr e.mask e.data) core i

/-- A write-around or CACHE = 0 store: a line held is updated and written to the home, otherwise the bytes go to the home
(R190). A shared copy is kept with K = 1 and takes the bytes when CMP arrives (R244). -/
def storeAround (s : State) (core : CoreId) (i : Nat) (e : SbEntry) : State :=
  let line := e.pa / 64
  let c := s.cluster core.cl
  if inTransit c line || outOnLine s core .device line then s
  else match l2Find c line with
    | none => acceptSb (sendWrp s core e false false) core i e
    | some (k, w) =>
      if isPackedAddr line ∨ w.ctx ≠ e.ctx then
        match dropOwn s core.cl line with
        | some s => acceptSb (sendWrp s core e false false) core i e
        | none => s
      else if heldFromOthers s core w then s
      else match w.st with
        | .UP => s
        | .S =>
          let s := dropOthers s
          acceptSb (sendWrp s core e true false) core i e
        | _ =>
          if !vicSlot s core.cl line then s
          else
            let s := (storeReaches s core.cl core.pos.toNat line).modCore core (updateL1 line w.ctx e.mask e.data)
            popSb (writeThrough s core.cl k { w with data := mergeLine w.data e.mask e.data } .vic) core i
where
  /-- The L1 copies of the cluster go when the bytes leave. -/
  dropOthers (s : State) : State := storeReaches s core.cl 256 (e.pa / 64)

/-- A red: the cluster's copy goes, then RED leaves for the home's NMU (R93). -/
def sendRed (s : State) (core : CoreId) (i : Nat) (e : SbEntry) (op : RedOp) : State :=
  let line := e.pa / 64
  if outOnLine s core .device line then s
  else match dropOwn s core.cl line with
    | none => s
    | some s =>
      let tag := s.nextTag
      acceptSb (send (addOut s core.cl (outOf core e false))
        { toHome s .red core.cl line e.ctx with data := e.data, mask := e.mask, red := op, off := e.pa % 64, tag := .write tag }) core i e

/-- cl.clean and cl.cinv: a dirty copy is written to the home; cinv removes the line (R109, R305). -/
def doMaint (s : State) (core : CoreId) (i : Nat) (e : SbEntry) (remove : Bool) : State :=
  let line := e.pa / 64
  let c := s.cluster core.cl
  if inTransit c line then s
  else match l2Find c line with
    | none => popSb s core i
    | some (k, w) =>
      if w.ctx ≠ e.ctx then popSb s core i
      else if heldFromOthers s core w ∨ w.st = .UP then s
      else if remove then
        if w.st = .KE ∨ (w.st = .M ∧ !vicSlot s core.cl line) then s else popSb (evictWay s core.cl k w .vic) core i
      else if w.st ≠ .M then popSb s core i
      else if !vicSlot s core.cl line then s
      else popSb (writeThrough s core.cl k w .vic) core i

/-- A store to a posted path frees when the port accepts it, in a register region when it is performed (R278); to a dead
destination it is lost (R98, R292). -/
def storePosted (s : State) (core : CoreId) (i : Nat) (e : SbEntry) : State :=
  let tag := s.nextTag
  let line := e.pa / 64 * 64
  let lost := fun s : State => popSb (s.modCore core fun c => { c with fns := true }) core i
  let ok := fun s : State =>
    let s := addOut s core.cl (outOf core e false)
    if aRegister e.attr then sentSb s core i else popSb s core i
  match e.dest with
  | .fabric r =>
    match fabWrite s r (coreFlow core e.oid) e.ctx line e.mask e.data false (.store core tag) with
    | .sent s => ok s
    | .wait s => s
    | .dead s => lost (s.setFlag Reg.fabDrainStat 0)
  | _ =>
    match svpWrite s e.ctx line e.mask e.data (.store core tag) with
    | .sent s => ok s
    | .wait s => s
    | .dropped s => lost s

/-- The oldest unsent entry leaves the store buffer, if it may (R271, R276, R278). -/
def drainSb (s : State) (core : CoreId) : State :=
  let c := s.core core
  match c.sb.findIdx? fun e => !e.sent with
  | none => s
  | some i =>
    match c.sb[i]? with
    | none => s
    | some e =>
      if (e.rel && 0 < i) || !relGo s core e || !devoGo s core e then s
      else match e.kind, e.dest with
        | .marker, _ => popSb s core i
        | .red op, _ => sendRed s core i e op
        | .clean, _ => doMaint s core i e false
        | .cinv, _ => doMaint s core i e true
        | .store, .device =>
          if aWriteBack e.attr || aWriteThrough e.attr then storeOwned s core i e else storeAround s core i e
        | .store, _ => storePosted s core i e

/-! ### One combining line -/

/-- The entry that a combining line is, for its write. -/
def cbEntry (l : CbLine) : SbEntry :=
  { kind := .store, dest := l.dest, pa := l.line * 64, va := l.va, mask := l.mask, data := l.data, ctx := l.ctx, attr := l.attr,
    rel := false, scope := 0, oid := 1, pc := l.pc, word := l.word, launch := l.launch, sent := false, after := 0 }

/-- Change a combining line by position. -/
def modCb (s : State) (core : CoreId) (i : Nat) (f : CbLine → CbLine) : State :=
  s.modCore core fun c => { c with cb := c.cb.modify i f }

/-- The oldest unsent line that is to be sent leaves as WRP under order ID 1, once the cluster's copy has gone (R87, R280). -/
def drainCb (s : State) (core : CoreId) : State :=
  match (s.core core).cb.findIdx? fun l => l.flush && !l.sent with
  | none => s
  | some i =>
    match (s.core core).cb[i]? with
    | none => s
    | some l =>
      let e := cbEntry l
      let tag := s.nextTag
      let o : OutWrite := { outOf core e false with src := .nt }
      let free := fun s : State => s.modCore core fun c => { c with cb := c.cb.eraseIdx i }
      let lost := fun s : State => free (s.modCore core fun c => { c with fns := true })
      match l.dest with
      | .device =>
        match dropOwn s core.cl l.line with
        | none => s
        | some s =>
          let tag := s.nextTag
          modCb (send (addOut s core.cl o)
            { toHome s .wrp core.cl l.line l.ctx with mask := l.mask, data := l.data, tag := .write tag }) core i fun l => { l with sent := true }
      | .fabric r =>
        match fabWrite s r (coreFlow core 1) l.ctx (l.line * 64) l.mask l.data false (.store core tag) with
        | .sent s => free (addOut s core.cl o)
        | .wait s => s
        | .dead s => lost (s.setFlag Reg.fabDrainStat 0)
      | .bus =>
        match svpWrite s l.ctx (l.line * 64) l.mask l.data (.store core tag) with
        | .sent s => free (addOut s core.cl o)
        | .wait s => s
        | .dropped s => lost s

/-- STORE_BUFFER_DRAIN: the next store-buffer entry and the next combining line to be sent leave to the cluster L2 (R278,
R280). -/
def execStoreBufferDrain (c : CoreId) (s : State) : Out :=
  .next (if canDrain s c then drainCb (drainSb s c) c else s)

/-- CB_IDLE_TIMEOUT: line i of the combining buffer has had no st.nt for 64 fast cycles and is to be sent (R280). -/
def execCbIdleTimeout (c : CoreId) (i : Nat) (s : State) : Out :=
  .next (if canDrain s c then drainCb (modCb s c i fun l => { l with flush := true }) c else s)

/-! ### Fills and holds -/

/-- A stalled load or fetch looks for its line again. -/
def retryPend (s : State) (core : CoreId) : State :=
  match (s.core core).pend with
  | none => s
  | some p => if p.dest ≠ .device then s else if p.ifetch then serveFetch s core p else serveLoad s core p

/-- L1_FILL: the line a core's load or fetch missed on has arrived in the L2 and fills the L1, ending the stall (R181). -/
def execL1Fill (c : CoreId) (line : Nat) (s : State) : Out :=
  .next (match (s.core c).pend with
    | some p => if p.pa / 64 = line ∧ canDrain s c then retryPend s c else s
    | none => s)

/-- RSV_HOLD_EXPIRE: the hold on a line ends; the reservation stays (R282). -/
def execRsvHoldExpire (cl : BitVec 6) (line : Nat) (s : State) : Out :=
  .next (match l2Find (s.cluster cl) line with
    | some (k, w) => setWay s cl k (some { w with hold := none })
    | none => s)

end Sys2Proof.Machine
end

