-- ==== Sys2Proof/Machine/LineMoves.lean ====
section
/-! DEFINITION. Line moves (R105 to R108, R273, R279): issue, each line's copy, and completion. -/

namespace Sys2Proof.Machine

/-- A line of a move has been asked for or sent. -/
def lmvSent (s : State) (core : CoreId) (i b : Nat) : State :=
  s.modCore core fun c => { c with lmv := mset c.lmv i ((mgetD none c.lmv i).map fun m => { m with sent := m.sent ||| (1#128 <<< b) }) }

/-- A line of an lmv.out to a dead destination is lost: the fence status word keeps it (R98, R292). -/
def lmvLost (s : State) (core : CoreId) (i b : Nat) : State :=
  s.modCore core fun c => { c with
    fns := true
    lmv := mset c.lmv i ((mgetD none c.lmv i).map fun m => { m with done := m.done ||| (1#128 <<< b), lost := true }) }

/-- One line of an lmv.in is copied, or asked for: the .nt form allocates nothing and fills the base cache as old (R105). -/
def lmvLineIn (s : State) (core : CoreId) (i b : Nat) (m : LineMove) (l : Leaf) (a : BitVec 8) (pa : Nat) : State :=
  match destOf l with
  | .device =>
    match l2Read s core m.ctx (pa / 64) (aCache a && !m.nt) false false m.nt with
    | .hit k w => lmvTake (putWay s core.cl k w) core i b w.data w.poison
    | .wait s => s
  | .fabric r =>
    match fabRead s r (coreFlow core (oidOf a 2)) m.ctx pa 1 (.lmv core i b) with
    | .sent s => lmvSent s core i b
    | .wait s => s
    | .dead s => lmvFail s core i b excPoison
  | .bus =>
    match svpRead s m.ctx pa (.lmv core i b) with
    | .sent s => lmvSent s core i b
    | .wait s => s
    | .dropped s => lmvFail s core i b excPoison

/-- One line of an lmv.out goes to its home: a line held in the L2 is updated and written to the home, or with .nt removed
first (R105, R190, R262). -/
def lmvLineOut (s : State) (core : CoreId) (i b : Nat) (m : LineMove) (l : Leaf) (a : BitVec 8) (pa : Nat) : State :=
  let line := pa / 64
  let d := BitVec.ofNat 512 (rdBytes (s.core core).ls (m.ls + 64 * b) 64)
  let tag := s.nextTag
  let o : OutWrite := ⟨0, core.pos, .lmv i b, destOf l, line, Mask.full, d, m.ctx, lmvVa m b, m.pc, m.word, m.launch, false, aDevo a⟩
  let wrp := fun (s : State) (keep : Bool) =>
    lmvSent (send (addOut s core.cl { o with keep := keep })
      { toHome s .wrp core.cl line m.ctx with mask := Mask.full, data := d, k := keep, stream := m.nt, tag := .write tag }) core i b
  let dropped := fun s : State => match dropOwn s core.cl line with
    | some s => wrp s false
    | none => s
  match destOf l with
  | .device =>
    if inTransit (s.cluster core.cl) line then s
    else match l2Find (s.cluster core.cl) line with
      | none => wrp s false
      | some (k, w) =>
        if m.nt ∨ isPackedAddr line ∨ w.ctx ≠ m.ctx then dropped s
        else if heldFromOthers s core w ∨ w.st = .UP then s
        else if w.st = .S then wrp (storeReaches s core.cl 256 line) true
        else if !vicSlot s core.cl line then s
        else
          let s := (storeReaches s core.cl core.pos.toNat line).modCore core (updateL1 line w.ctx Mask.full d)
          let s := addOut s core.cl o
          lmvSent (writeThrough s core.cl k { w with data := d } (.write tag)) core i b
  | .fabric r =>
    match fabWrite s r (coreFlow core (oidOf a 2)) m.ctx (line * 64) Mask.full d false (.store core tag) with
    | .sent s => lmvSent (addOut s core.cl o) core i b
    | .wait s => s
    | .dead s => lmvLost (s.setFlag Reg.fabDrainStat 0) core i b
  | .bus =>
    match svpWrite s m.ctx (line * 64) Mask.full d (.store core tag) with
    | .sent s => lmvSent (addOut s core.cl o) core i b
    | .wait s => s
    | .dropped s => lmvLost s core i b

/-- One line of a move: translated without gating the core, after the core's own writes to it (R108, R263, R279). -/
def lmvLine (core : CoreId) (i : Nat) (s : State) (b : Nat) : State :=
  match mgetD none (s.core core).lmv i with
  | none => s
  | some m =>
    if m.done.getLsbD b || m.sent.getLsbD b then s
    else
      let va := lmvVa m b
      match translate s core.cl m.ctx va (if m.out then .write else .read) with
      | .miss s => askXlt s ⟨.lmv core i, m.ctx, va, if m.out then .write else .read, false⟩
      | .ok l s =>
        let c := s.core core
        let a := attrOf s l
        let pa := physOf l va.toNat
        if touchesCb c (destOf l) (pa / 64) then s.modCore core (flushLine (destOf l) (pa / 64))
        else if c.sb.any (fun e => e.kind != .marker && e.dest == destOf l && e.pa / 64 == pa / 64) ||
            outOnLine s core (destOf l) (pa / 64) || (aDevo a && devoBefore s core) then s
        else if m.out then lmvLineOut s core i b m l a pa else lmvLineIn s core i b m l a pa

/-- Every line of a move that can go on does; none that a warm reset found unsent (R293). -/
def lmvPump (s : State) (core : CoreId) (i : Nat) : State :=
  if !canDrain s core || (s.core core).rst.isSome || (s.cluster core.cl).rst.isSome then s
  else match mgetD none (s.core core).lmv i with
    | none => s
    | some m => (List.range m.count).foldl (lmvLine core i) s

/-- Two ranges of lines meet. -/
def rangesMeet (a n b m : Nat) : Bool := decide (a < b + m ∧ b < a + n)

/-- An outstanding move and a new one share a line that either writes. -/
def moveClash (c : CoreSt) (out : Bool) (va : Word) (count : Nat) : Bool :=
  (List.range 4).any fun i => match mgetD none c.lmv i with
    | some m => (m.out || out) && rangesMeet (m.va.toNat / 64) m.count (va.toNat / 64) count
    | none => false

/-- The index of a free line move, of 4 (R106). -/
def freeMove (c : CoreSt) : Option Nat := (List.range 4).find? fun i => (mgetD none c.lmv i).isNone

/-- A line move issues after its address checks; the core goes on (R105, R106, R108). -/
def lmvOp (s : State) (w : Who) (op : BitVec 6) (out : Bool) (d a b : BitVec 5) (fn : BitVec 7) : State :=
  let word := encR w op d a b fn
  issue s w word 4 true fun s =>
    let c := s.core w.core
    let ls := (c.rs a).toNat
    let va := c.rs b
    let count := fn.toNat + 1
    if va.toNat % 64 ≠ 0 then raiseExc s w.core excMisaligned va word
    else if ls % 64 ≠ 0 then raiseExc s w.core excMisaligned (c.rs a) word
    else if 65536 < ls + 64 * count then raiseExc s w.core excLsRange (c.rs a) word
    else if moveClash c out va count || (out && c.sb.any (fun e => e.kind == .marker)) then s
    else match freeMove c with
      | none => s
      | some i =>
        let m : LineMove := ⟨out, d.extractLsb' 0 4, ls, va, count, d.getLsbD 4, ctxOf s w.core, c.pc, word, launchOf s w.core, 0, 0, false⟩
        lmvPump (s.modCore w.core fun c => { c.adv 4 with lmv := mset c.lmv i (some m), rsv := if out then none else c.rsv }) w.core i

/-- lmv.in (R105). -/
def execLmvIn (w : Who) (d a b : BitVec 5) (fn : BitVec 7) (s : State) : Out := .next (lmvOp s w 0x1E false d a b fn)
/-- lmv.out (R105). -/
def execLmvOut (w : Who) (d a b : BitVec 5) (fn : BitVec 7) (s : State) : Out := .next (lmvOp s w 0x1F true d a b fn)

/-! ### Token counters (R33, R47, R48) -/

/-- A counter gains an increment, saturating; reaching all ones sets its ovf bit and raises a notice (R33, R48). -/
def addToken (s : State) (core : CoreId) (k : BitVec 4) (n : Nat) : State :=
  let c := s.core core
  let v := satAdd (c.rk k) n
  let s := s.modCore core fun c => c.setK k v
  if v = BitVec.allOnes 64 ∧ c.rk k ≠ v then
    report (s.modCore core fun c => { c with ovf := c.ovf ||| (1#17 <<< k.toNat) }) (satReport s) none
  else s

/-- All the lines of a move are done. -/
def moveDone (m : LineMove) : Bool := (List.range m.count).all fun b => m.done.getLsbD b

/-- The move ends: it is outstanding no more, and releases that waited for it do so no more. -/
def endMove (i : Nat) (c : CoreSt) : CoreSt :=
  { c with
    lmv := mset c.lmv i none
    sb := c.sb.map fun e => { e with after := e.after &&& ~~~(1#4 <<< i) } }

/-- LMV_COMPLETE: the lines of move i go on; when every line is done the core's own counter kM is raised by 1, unless a line
failed (R106, R108). -/
def execLmvComplete (c : CoreId) (i : Nat) (s : State) : Out :=
  .next (
    let s := lmvPump s c i
    match mgetD none (s.core c).lmv i with
    | none => s
    | some m =>
      if !moveDone m then s
      else
        let s := s.modCore c (endMove i)
        if m.lost then s else addToken s c m.k 1)

end Sys2Proof.Machine
end

