-- ==== Sys2Proof/Machine/CoreSync.lean ====
section
/-! DEFINITION. Fences (R97, R98, R271), token instructions (R47 to R51, R100, R101) and neighbour streams (R53 to R56, R103,
R104). -/

namespace Sys2Proof.Machine

/-! ### Fences -/

/-- A fence of cluster scope or wider that acquires discards the core's fetched, unissued instructions (R184). -/
def dropFetched (sc : BitVec 2) (c : CoreSt) : CoreSt := if sc = 0 then c else { c with fetched := none }

/-- No lmv.in of the core is outstanding (R271). -/
def noMovesIn (c : CoreSt) : Bool := (List.range 4).all fun i => ((mgetD none c.lmv i).map (·.out)).getD true

/-- fence.acq: D, A and B must be 0; it waits until every earlier lmv.in has completed (R97, R271). -/
def execFenceAcq (w : Who) (d a b : BitVec 5) (sc : BitVec 2) (s : State) : Out :=
  .next (issue s w (encA w 0x1B d a b sc 1 0) 4 (d == 0 && a == 0 && b == 0) fun s =>
    if noMovesIn (s.core w.core) then s.modCore w.core fun c => dropFetched sc (c.adv 4) else s)

/-- The marker of a release fence (R271). -/
def markerEntry (s : State) (core : CoreId) (sc : BitVec 2) (word : Word) : SbEntry :=
  sbEntry s core .marker default 0 0 0 true sc word

/-- fence.rel: the core runs on; at cluster scope or wider a marker enters the store buffer and the combining lines are sent
(R97, R271, R280). -/
def execFenceRel (w : Who) (d a b : BitVec 5) (sc : BitVec 2) (s : State) : Out :=
  let word := encA w 0x1B d a b sc 2 0
  .next (issue s w word 4 (d == 0 && a == 0 && b == 0) fun s =>
    if sc = 0 then s.modCore w.core fun c => c.adv 4 else retire s w.core [markerEntry s w.core sc word])

/-- fence.ar: the core stalls until every earlier access is performed at the scope (R97, R271). -/
def execFenceAr (w : Who) (d a b : BitVec 5) (sc : BitVec 2) (s : State) : Out :=
  .next (issue s w (encA w 0x1B d a b sc 3 0) 4 (d == 0 && a == 0 && b == 0) fun s =>
    afterEarlier s w.core sc fun s => s.modCore w.core fun c => dropFetched sc (c.adv 4))

/-! ### Tokens -/

/-- The counter that field D names (R100). -/
def tokK (d : BitVec 5) : BitVec 4 := d.extractLsb' 0 4

/-- The cluster of a grid index of the running launch (R41). -/
def gridCluster (s : State) (core : CoreId) (g : Nat) : Option (BitVec 6) :=
  match findLaunch s (launchOf s core) with
  | some l => (clustersOf l.mask)[g]?
  | none => none

/-- Put a token on its way to a cluster's token block (R47). -/
def pushToken (s : State) (cl : BitVec 6) (t : TokMsg) : State := s.modCluster cl fun c => { c with tokq := c.tokq ++ [t] }

/-- tok.send: a grid index outside the grid sets tks[0]; an increment of 0 sends nothing; the send is a release of cluster
scope inside the cluster and of device scope otherwise (R48, R51, R100, R101); behind a die link that is not up it stalls (R463). -/
def tokSend (s : State) (core : CoreId) (k : BitVec 4) (a b : Word) : State :=
  let r := ((s.cluster core.cl).run).getD default
  let g := (a.extractLsb' 16 16).toNat
  let inc := b.extractLsb' 0 32
  if r.gsize ≤ g then s.modCore core fun c => { c.adv 4 with tks := true }
  else if inc = 0 then s.modCore core fun c => c.adv 4
  else match gridCluster s core g with
    | none => s.modCore core fun c => { c.adv 4 with tks := true }
    | some cl =>
      if !pathUp s (dieOfAgent (.cluster core.cl)) (dieOfAgent (.cluster cl)) then s
      else afterEarlier s core (if cl = core.cl then 1 else 2) fun s =>
        (pushToken s cl ⟨r.ctx, some r.lseq, (a.extractLsb' 0 16).toNat, k, inc.setWidth 64⟩).modCore core fun c => c.adv 4

/-- tok.send (R100). -/
def execTokSend (w : Who) (d a b : BitVec 5) (s : State) : Out :=
  .next (issue s w (encR w 0x1C d a b 0x00) 4 (!d.getLsbD 4) fun s =>
    tokSend s w.core (tokK d) ((s.core w.core).rs a) ((s.core w.core).rs b))

/-- tok.wait: a threshold of 0 or one that is met completes at once; else the core is Gated (R47, R48, R57, R95, R100). -/
def execTokWait (w : Who) (d a b : BitVec 5) (s : State) : Out :=
  .next (issue s w (encR w 0x1C d a b 0x10) 4 (!d.getLsbD 4 && a == 0) fun s =>
    let c := s.core w.core
    let t := c.rs b
    if t.toNat ≤ (c.rk (tokK d)).toNat then s.modCore w.core fun c => (c.setK (tokK d) (c.rk (tokK d) - t)).adv 4
    else s.modCore w.core fun c => { c with st := .gated (.tokWait (tokK d) t), wake := false, rsv := none })

/-- tok.test: pD := kM ≥ b; pD stands in A (R100). -/
def execTokTest (w : Who) (d a b : BitVec 5) (s : State) : Out :=
  .next (coreOp s w (encR w 0x1C d a b 0x20) 4 (!d.getLsbD 4 && isPred a) fun c =>
    c.setP (predOf a) (decide ((c.rs b).toNat ≤ (c.rk (tokK d)).toNat)))

/-- tok.read: sD := kM; sD stands in A, B must be 0 (R100). -/
def execTokRead (w : Who) (d a b : BitVec 5) (s : State) : Out :=
  .next (coreOp s w (encR w 0x1C d a b 0x30) 4 (!d.getLsbD 4 && b == 0) fun c => c.setS a (c.rk (tokK d)))

/-! ### Streams -/

/-- The neighbour of a core by logical index among the started cores: the successor, or the predecessor (R53). -/
def neighbour (s : State) (core : CoreId) (pred : Bool) : CoreId :=
  let n := ((s.cluster core.cl).run.map (·.nrun)).getD 1
  let i := logicalIndex s core.cl core.pos.toNat
  let j := if pred then (i + n - 1) % n else (i + 1) % n
  match posOf s core.cl j with
  | some p => ⟨core.cl, p⟩
  | none => core

/-- The credits for a direction. -/
def creditsFor (c : CoreSt) (pred : Bool) : Nat := if pred then c.crP else c.crN

/-- Send a beat with one credit (R54). -/
def putBeat (s : State) (core : CoreId) (pred : Bool) (d : Line) : State :=
  let s := s.modCore core fun c => if pred then { c with crP := c.crP - 1 } else { c with crN := c.crN - 1 }
  s.modCore (neighbour s core pred) fun c => if pred then { c with flyN := c.flyN ++ [d] } else { c with flyP := c.flyP ++ [d] }

/-- The receive buffer of a direction. -/
def received (c : CoreSt) (pred : Bool) : List Line := if pred then c.rxP else c.rxN

/-- Take a beat and return its credit to the sender (R54). -/
def takeBeat (s : State) (core : CoreId) (pred : Bool) : State :=
  let s := s.modCore core fun c => if pred then { c with rxP := c.rxP.drop 1 } else { c with rxN := c.rxN.drop 1 }
  s.modCore (neighbour s core pred) fun c => if pred then { c with backN := c.backN + 1 } else { c with backP := c.backP + 1 }

/-- Gate a core on a stream (R57); its reservation clears (R95). -/
def gateOn (s : State) (core : CoreId) (g : Gate) : State :=
  s.modCore core fun c => { c with st := .gated g, wake := false, rsv := none }

/-- The beats of a put, from the first not yet sent; without a credit the core is Gated and goes on later (R54, R104). -/
def putBeats (s : State) (core : CoreId) (pred : Bool) (beat : Nat → Line) : Nat → Nat → State
  | _, 0 => s.modCore core fun c => { c.adv 4 with strDone := 0 }
  | k, n + 1 =>
    if creditsFor (s.core core) pred = 0 then gateOn (s.modCore core fun c => { c with strDone := k }) core (.strPut pred)
    else putBeats (putBeat s core pred (beat k)) core pred beat (k + 1) n

/-- The beats of a get, from the first not yet taken; with an empty buffer the core is Gated and goes on later (R54, R104). -/
def getBeats (s : State) (core : CoreId) (pred : Bool) (write : Nat → Line → CoreSt → CoreSt) : Nat → Nat → State
  | _, 0 => s.modCore core fun c => { c.adv 4 with strDone := 0 }
  | k, n + 1 =>
    match received (s.core core) pred with
    | [] => gateOn (s.modCore core fun c => { c with strDone := k }) core (.strGet pred)
    | d :: _ => getBeats ((takeBeat s core pred).modCore core (write k d)) core pred write (k + 1) n

/-- FN of a stream form (R103). -/
def strFn (form : BitVec 3) (dir : Bool) : BitVec 7 := (form.setWidth 7 <<< 4) ||| (BitVec.ofBool dir).setWidth 7 <<< 3

/-- A put waits behind a release fence's marker (R271). -/
def strPut (s : State) (core : CoreId) (dir : Bool) (count : Nat) (beat : Nat → Line) : State :=
  let c := s.core core
  if c.sb.any fun e => e.kind == .marker then s else putBeats s core dir beat c.strDone (count - c.strDone)

/-- Row r of a tile (R111). -/
def tileRow (t : Tile) (r : Nat) : Line := t.extractLsb' (512 * r) 512
/-- A tile with one row replaced. -/
def setTileRow (t : Tile) (r : Nat) (d : Line) : Tile :=
  (t &&& ~~~((BitVec.allOnes 512).setWidth 8192 <<< (512 * r))) ||| (d.setWidth 8192 <<< (512 * r))

/-- The row range of a tile form: A[4] and B[4] 0, at most 16 rows (R104). -/
def rowsOk (a b : BitVec 5) : Bool := !a.getLsbD 4 && !b.getLsbD 4 && decide (a.toNat + b.toNat + 1 ≤ 16)

/-- str.put of a scalar: D and B must be 0 (R103). -/
def execStrPutN (w : Who) (d a b : BitVec 5) (dir : Bool) (s : State) : Out :=
  .next (issue s w (encR w 0x1D d a b (strFn 0 dir)) 4 (d == 0 && b == 0) fun s =>
    strPut s w.core dir 1 fun _ => ((s.core w.core).rs a).setWidth 512)

/-- str.get of a scalar: A and B must be 0 (R103). -/
def execStrGetP (w : Who) (d a b : BitVec 5) (dir : Bool) (s : State) : Out :=
  .next (issue s w (encR w 0x1D d a b (strFn 1 dir)) 4 (a == 0 && b == 0) fun s =>
    getBeats s w.core dir (fun _ x c => c.setS d (x.extractLsb' 0 64)) 0 1)

/-- str.put of tile rows (R103, R104). -/
def execStrPutNTile (w : Who) (d a b : BitVec 5) (dir : Bool) (s : State) : Out :=
  .next (issue s w (encR w 0x1D d a b (strFn 2 dir)) 4 (rowsOk a b) fun s =>
    strPut s w.core dir (b.toNat + 1) fun k => tileRow ((s.core w.core).rt d) (a.toNat + k))

/-- str.get into tile rows (R103, R104). -/
def execStrGetPTile (w : Who) (d a b : BitVec 5) (dir : Bool) (s : State) : Out :=
  .next (issue s w (encR w 0x1D d a b (strFn 3 dir)) 4 (rowsOk a b) fun s =>
    let done := (s.core w.core).strDone
    getBeats s w.core dir (fun k x c => c.setT d (setTileRow (c.rt d) (a.toNat + k) x)) done (b.toNat + 1 - done))

end Sys2Proof.Machine
end

