-- ==== Sys2Proof/Machine/RegAccess.lean ====
section
/-! DEFINITION. When a register command takes effect (R441, R442): not while the complex is held in reset, and not at a die
that has no power or is held in reset. -/

namespace Sys2Proof.Machine

/-- The die of a BAR0 offset, numbered as R504 numbers the dies. -/
def dieOfOffset (off : Nat) : Nat :=
  if 0x100000 ≤ off ∧ off < 0x200000 then 1
  else if 0x200000 ≤ off ∧ off < 0x300000 then 2
  else if 0x1000000 ≤ off ∧ off < 0x2000000 then 3 + (off - 0x1000000) / 0x400000
  else 0

/-- AER status bits of the uncorrectable errors that R415 names (log entry 30). -/
def aerPoisoned : Nat := 12
def aerMalformed : Nat := 18
def aerUr : Nat := 20

/-- Set an AER status bit. -/
def setAer (s : State) (b : Nat) : State := s.modHpt fun h => { h with aer := h.aer ||| (1#32 <<< b) }

/-- UR: counted in HPT_UR, UR set in HPT_STAT, reported in AER (R415). -/
def sendUr (s : State) : State := setAer ((s.bump Reg.hptUr 1).setFlag Reg.hptStat 2) aerUr

/-- The host link carries flits, after an exit from L0s or L1 where needed (R419, R423). -/
def linkUp (s : State) : Bool := s.hpt.link == .l0 || s.hpt.link == .l0s || s.hpt.link == .l1

/-- Memory Space Enable in the Command register (R402). -/
def memEnabled (s : State) : Bool := s.hpt.command.getLsbD 1

/-- The base die through which a die's registers are reached. -/
def baseOfDie (d : Nat) : Nat := if d ≤ 2 then d else 1 + (d - 3) / 2

/-- A register access of an agent: none while the complex is held in reset; the host's needs the link, and receives UR in D3
or with Memory Space Enable clear (R415, log entry 36); to a die without power or in reset it is discarded and sets OFFDIE
(R442); to a die behind a die link that is not up it waits (R463). -/
def withReg (s : State) (ag : RegAgent) (off : Nat) (f : State → State) : State :=
  if s.boot.inReset || (ag == .host && !linkUp s) then s
  else if ag == .host && (s.hpt.dstate != .d0 || !memEnabled s) then sendUr s
  else if s.boot.offDie.contains (dieOfOffset off) then s.setFlag Reg.gctlStat 5
  else if !pathUp s 0 (baseOfDie (dieOfOffset off)) then s
  else f s

/-- Nothing moves in the complex: it is held in reset, or it is in the safe state (R510, R528). -/
def frozen (s : State) : Bool := s.boot.inReset || s.fcl.safe

/-- A change that the complex makes only while it runs. -/
def whileRunning (s : State) (f : State → State) : State := if frozen s then s else f s

end Sys2Proof.Machine
end

