-- ==== Sys2Proof/Machine/Steps.lean ====
section
/-! DEFINITION. Steps and limits of the power manager (R18, R476, R481 to R484, R493, R536, R537): frequencies and voltages, a
cluster's ceiling, the die rails, and the limits in force. -/

namespace Sys2Proof.Machine

/-! ### Steps (R481) -/

/-- The highest step. -/
def topStep : Nat := 37
/-- The highest normal step; the steps above it are the boost steps. -/
def topNormal : Nat := 31

/-- Frequency of a step in MHz. -/
def stepMhz (k : Nat) : Nat := if k ≤ 5 then 400 + 200 * k else 1450 + 50 * (k - 6)

/-- Nominal voltage of each step in mV. -/
def stepMvTable : List Nat :=
  [550, 570, 590, 610, 630, 650, 660, 675, 685, 695, 710, 720, 730, 740, 755, 765, 775, 790, 800, 810] ++
  [825, 835, 845, 860, 870, 880, 890, 905, 915, 925, 940, 950, 960, 970, 980, 990, 995, 1000]

/-- Byte o of a calibration set (R536). -/
def calByte (m : SMap (BitVec 32)) (o : Nat) : Nat := bitsN (mgetD 0 m (o / 4)).toNat (8 * (o % 4)) 8

/-- Voltage of a step on a compute die: the calibrated one, no higher than nominal (R481, R536). -/
def stepMv (s : State) (cd k : Nat) : Nat :=
  let nom := (stepMvTable[k]?).getD 0
  match s.cal.force with
  | none => nom
  | some m =>
    let o := 0x2900 + 2 * (38 * cd + k)
    min (calByte m o + 256 * calByte m (o + 1)) nom

/-! ### Ceilings (R8, R483, R493, R536, R537) -/

/-- The highest step at or below a frequency. -/
def stepAtMhz (mhz : Nat) : Nat :=
  (List.range (topStep + 1)).foldl (fun b k => if stepMhz k ≤ mhz then k else b) 0

/-- The highest step a core may be granted: its fused maximum, and the entry of the calibration set; built-in defaults give no boost
step (R8, R536, R537; log entry 40). -/
def coreCeiling (s : State) (c : CoreId) : Nat :=
  let cal := match s.cal.force with
    | none => topNormal
    | some m => calByte m (0x100 + 160 * c.cl.toNat + c.pos.toNat)
  min (stepAtMhz (fmaxOf s c)) cal

/-- The cores whose fused maxima bound a cluster: those that the running launch started; with no launch every enabled core (log
entry 40). -/
def boundingCores (s : State) (cl : BitVec 6) : List (BitVec 8) :=
  match (s.cluster cl).run with
  | some r => (enabledList s cl).take r.nrun
  | none => enabledList s cl

/-- BOOSTEN of PWR_CTL. -/
def boostOn (s : State) : Bool := (s.reg Reg.pwrCtl).getLsbD 1

/-- A cluster's ceiling step before thermal throttling (R483). -/
def fusedCeiling (s : State) (cl : BitVec 6) : Nat :=
  (boundingCores s cl).foldl (fun n p => min n (coreCeiling s ⟨cl, p⟩)) (if boostOn s then topStep else topNormal)

/-- A cluster's ceiling step (R483, R493). -/
def ceilingOf (s : State) (cl : BitVec 6) : Nat := fusedCeiling s cl - (s.cluster cl).thermDown

/-! ### Rails (R482) -/

/-- The clusters of a compute die. -/
def clustersOfDie (cd : Nat) : List (BitVec 6) := (List.range 16).map fun i => BitVec.ofNat 6 (16 * cd + i)

/-- A cluster's PLL runs. -/
def pllRuns (s : State) (cl : BitVec 6) : Bool := (s.cluster cl).pll == .running

/-- The highest step that a running cluster of a die holds; 0 with none. -/
def heldStep (s : State) (cd : Nat) : Nat :=
  (clustersOfDie cd).foldl (fun n cl => if pllRuns s cl then max n (s.cluster cl).step else n) 0

/-- The highest step that a running cluster of a die holds or waits for. -/
def neededStep (s : State) (cd : Nat) : Nat :=
  (clustersOfDie cd).foldl (fun n cl => if pllRuns s cl then max n ((mgetD none s.pwr.want cl.toNat).getD 0) else n) (heldStep s cd)

/-- Voltage step of a die's rail. -/
def railOf (s : State) (cd : Nat) : Nat := mgetD 0 s.pwr.rail cd

/-- Move a die's rail: a rise begins to slew; a fall, once no cluster needs the voltage, is taken at its beginning, so that nothing
counts on the higher voltage (R482; log entry 41). -/
def moveRail (s : State) (cd : Nat) : State :=
  let goal := neededStep s cd
  if railOf s cd < goal then
    let slew := match mgetD none s.pwr.railTo cd with
      | some (t, ts) => if t = goal then (t, ts) else (goal, s.ts)
      | none => (goal, s.ts)
    s.modPwr fun p => { p with railTo := mset p.railTo cd (some slew) }
  else s.modPwr fun p => { p with rail := mset p.rail cd goal, railTo := mset p.railTo cd none }

/-- The ticks a rail takes between two steps at 10 mV/µs. -/
def slewTicks (s : State) (cd a b : Nat) : Nat := (stepMv s cd b - stepMv s cd a) * (Config.usTicks / 10)

/-- A droop in force, or cleared less than 200 ns ago, holds back an upward step (R492). -/
def droopHolds (s : State) (cl : BitVec 6) : Bool :=
  let c := s.cluster cl
  c.droop || match c.droopTs with
    | some t => !since s t 800
    | none => false

/-- A cluster that waits to move up does so once the rail has the voltage and no droop holds it (R482, R492). -/
def takeWant (s : State) (cl : BitVec 6) : State :=
  match mgetD none s.pwr.want cl.toNat with
  | none => s
  | some k =>
    if pllRuns s cl && decide (k ≤ railOf s (cdOf cl)) && !droopHolds s cl then
      (s.modCluster cl fun c => { c with step := k }).modPwr fun p => { p with want := mset p.want cl.toNat none }
    else s

/-- Every cluster of the complex. -/
def allClusters : List (BitVec 6) := (List.range 64).map (BitVec.ofNat 6)

/-- Every cluster that waits to move up. -/
def takeWants (s : State) : State := allClusters.foldl takeWant s

/-- The step at which a PLL locks: the highest that the die's present voltage allows and that lies at or below the ceiling; 0 while the
regulator alert forces it (R484, R496). -/
def lockStep (s : State) (cl : BitVec 6) : Nat := if s.pwr.forced then 0 else min (railOf s (cdOf cl)) (ceilingOf s cl)

/-! ### Limits (R474, R476, R486, R495) -/

/-- PWR_LIM_SUST in force: no higher than its reset value, no lower than 800 W. -/
def sustLimit (s : State) : Nat := max 800 (min 2400 (bitsN s.regs.limSust.a.toNat 0 16))
/-- PWR_LIM_PEAK in force: no higher than its reset value, no lower than the sustained value. -/
def peakLimit (s : State) : Nat := max (sustLimit s) (min 3000 (bitsN s.regs.limPeak.a.toNat 0 16))
/-- 90 % while the model is not calibrated. -/
def derate (s : State) (w : Nat) : Nat := if s.pwr.calibrated then w else w * 9 / 10
/-- The sustained limit the passes work to: 1,600 W at most while the coolant flow is low. -/
def sustTarget (s : State) : Nat := derate s (if s.pwr.flowLow then min (sustLimit s) 1600 else sustLimit s)
/-- The peak limit the passes work to. -/
def peakTarget (s : State) : Nat := derate s (peakLimit s)

/-! ### FWCTL and the regulator alert (R496) -/

/-- FWCTL of PWR_CTL. -/
def fwctl (s : State) : Bool := (s.reg Reg.pwrCtl).getLsbD 0

/-- Release proofing on a die: the filler stops at once (R489). -/
def releaseProof (s : State) (cd : Nat) : State := s.modPwr fun p => { p with proof := mset p.proof cd none }

/-- Release proofing on every die. -/
def releaseAll (s : State) : State := (List.range 4).foldl releaseProof s

/-- Every compute die at step 0, every memory and link rate cap at its floor, proofing released (R489, R496). -/
def forceLowest (s : State) : State :=
  let s := releaseAll (allClusters.foldl (fun s cl => s.modCluster cl fun c => { c with step := 0 }) s)
  s.modPwr fun p => { p with
    forced := true, want := [], railTo := [], rail := []
    portCap := (List.range 12).map fun n => (n, 1)
    stackCap := (List.range 16).map fun n => (n, 1) }

/-- FWCTL takes a value: its first 1 begins normal service (R495); while it is clear an asserted alert forces the lowest step (R496;
log entry 42). -/
def setFwctl (s : State) (v : Bool) : State :=
  let s := s.setReg Reg.pwrCtl ((s.reg Reg.pwrCtl &&& ~~~1) ||| (if v then 1 else 0))
  if v then s.modPwr fun p => { p with service := true }
  else if s.pwr.alert && !s.pwr.forced then forceLowest s
  else s

end Sys2Proof.Machine
end

