-- ==== Sys2Proof/Machine/CoreEvents.lean ====
section
/-! DEFINITION. Events of cores and clusters: wake (R57), tokens (R47 to R50), streams (R54, R55), and the cluster PLL (R58
to R60). -/

namespace Sys2Proof.Machine

/-! ### Wake -/

/-- CORE_WAKE: a gated core that a wake event has reached runs again, its cluster's PLL running (R57). -/
def execCoreWake (c : CoreId) (s : State) : Out :=
  .next (match (s.core c).st with
    | .gated _ =>
      if (s.core c).wake && (s.cluster c.cl).pll == .running && !(s.cluster c.cl).isolated && !frozen s then
        s.modCore c fun x => { x with st := .running, wake := false, xwait := none }
      else s
    | _ => s)

/-! ### Tokens -/

/-- A token fits the running launch of a cluster: its context, its sequence number when a core sent it, and a started
target (R49, R50). -/
def tokenFits (r : RunInfo) (t : TokMsg) : Bool :=
  r.ctx == t.ctx && ((t.lseq.map (· == r.lseq)).getD true) && decide (t.lidx < r.nrun)

/-- Apply a token to its target, or discard it (R47, R49). -/
def applyToken (s : State) (cl : BitVec 6) (t : TokMsg) : State :=
  match (s.cluster cl).run with
  | none => addDrop s cl
  | some r =>
    if tokenFits r t then
      match posOf s cl t.lidx with
      | some p => addToken s ⟨cl, p⟩ t.k t.inc.toNat
      | none => addDrop s cl
    else addDrop s cl

/-- The context of the launch that a cluster is in prepare for. -/
def prepCtx (s : State) (cl : BitVec 6) : Option Ctx :=
  match (s.cluster cl).prep with
  | .none => none
  | .clearing id => (findLaunch s id).map (·.cmd.ctx)
  | .ready id => (findLaunch s id).map (·.cmd.ctx)

/-- A token of an engine for a launch in prepare is held until its start (R50). -/
def tokenHeld (s : State) (cl : BitVec 6) (t : TokMsg) : Bool := t.lseq.isNone && prepCtx s cl == some t.ctx

/-- TOKEN_APPLY: the oldest token at a cluster's token block is applied, held or discarded (R47, R49, R50); an
engine's waits while its die link is not up (R463). -/
def execTokenApply (cl : BitVec 6) (s : State) : Out :=
  .next (if frozen s then s else
    match takeFirst (fun t : TokMsg => t.lseq.isSome || pathUp s 0 (dieOfAgent (.cluster cl))) (s.cluster cl).tokq with
    | none => s
    | some (t, r) =>
      let s := s.modCluster cl fun c => { c with tokq := r }
      if tokenHeld s cl t then s.modCluster cl fun c => { c with tokHeld := c.tokHeld ++ [t] } else applyToken s cl t)

/-- TOK_WAIT_SATISFIED: the counter has reached the threshold of a pending tok.wait; the count is consumed and the core wakes
past its tok.wait (R47, R48, R57). -/
def execTokWaitSatisfied (c : CoreId) (s : State) : Out :=
  .next (if frozen s then s else
    match (s.core c).st with
    | .gated (.tokWait k t) =>
      let v := (s.core c).rk k
      if t.toNat ≤ v.toNat ∧ !(s.core c).wake then
        wakeCore (s.modCore c fun x => (x.setK k (v - t)).adv 4) c
      else s
    | _ => s)

/-! ### Streams -/

/-- The core is Gated on a stream. -/
def gatedOn (c : CoreSt) (g : Gate) : Bool := c.st == .gated g

/-- A cluster's clock carries streams: PLL running, nothing frozen (R55, R58). -/
def streamsMove (s : State) (cl : BitVec 6) : Bool := (s.cluster cl).pll == .running && !(s.cluster cl).isolated && !frozen s

/-- STREAM_BEAT_ARRIVE: the oldest beat on its way enters the receive buffer and wakes a core that waits for it (R54, R57). -/
def execStreamBeatArrive (c : CoreId) (fromPred : Bool) (s : State) : Out :=
  .next (if !streamsMove s c.cl then s else
    let x := s.core c
    match if fromPred then x.flyP else x.flyN with
    | [] => s
    | d :: r =>
      let s := s.modCore c fun x =>
        if fromPred then { x with flyP := r, rxP := x.rxP ++ [d] } else { x with flyN := r, rxN := x.rxN ++ [d] }
      if gatedOn x (.strGet fromPred) then wakeCore s c else s)

/-- STREAM_CREDIT_ARRIVE: a credit on its way back reaches the sender and wakes a core that waits for it (R54, R57). -/
def execStreamCreditArrive (c : CoreId) (fromPred : Bool) (s : State) : Out :=
  .next (if !streamsMove s c.cl then s else
    let x := s.core c
    if (if fromPred then x.backP else x.backN) = 0 then s
    else
      let s := s.modCore c fun x =>
        if fromPred then { x with backP := x.backP - 1, crP := x.crP + 1 } else { x with backN := x.backN - 1, crN := x.crN + 1 }
      if gatedOn x (.strPut fromPred) then wakeCore s c else s)

/-! ### Cluster PLL -/

/-- The key of a cluster's range-maintenance engine (R219). -/
def rmKey (cl : BitVec 6) : Nat := (if dieOfCluster cl then 64 else 0) + cl.toNat % 32

/-- A core does not keep its cluster's PLL running: Idle, Gated on tok.wait with no wake under way, Waiting or Halted, its
buffers empty, no line move outstanding (R58, R293). -/
def coreQuiet (c : CoreSt) : Bool :=
  (match c.st with
    | .idle => true
    | .waiting => true
    | .halted => true
    | .gated (.tokWait _ _) => !c.wake
    | _ => false) && c.sb.isEmpty && c.cb.isEmpty && noMoves c && c.pend.isNone && c.rst.isNone

/-- A cluster's own conditions for a stop of its PLL (R58). -/
def clusterQuiet (s : State) (cl : BitVec 6) : Bool :=
  let k := s.cluster cl
  k.miss.isEmpty && k.prep == .none && k.rst.isNone && (mgetD none s.mem.rm (rmKey cl)).isNone &&
    (mgetD none s.pwr.proof (cdOf cl)).isNone

/-- Every condition of R58 holds now. -/
def pllIdle (s : State) (cl : BitVec 6) : Bool :=
  clusterQuiet s cl && (enabledList s cl).all fun p => coreQuiet (s.core ⟨cl, p⟩)

/-- The idle delay in TS64 ticks: slow cycles, values below 50 act as 50 (R61). -/
def pllDelay (s : State) : Nat := max (s.fld Reg.pwrPllStop 0 16) 50 * Config.slowTicks

/-- Note when the stop conditions began to hold, or that they do not hold (R58, R60). -/
def noteIdle (s : State) (cl : BitVec 6) : State :=
  let on := (s.cluster cl).pll == .running && pllIdle s cl
  s.modCluster cl fun c => { c with idleTs := if on then some (c.idleTs.getD s.ts) else none }

/-- PLL_STOP: the conditions have held for the idle delay, and NOSTOP is clear (R58, R61). In D3hot every idle PLL stops
(R418). -/
def execPllStop (cl : BitVec 6) (s : State) : Out :=
  .next (
    let s := noteIdle s cl
    match (s.cluster cl).idleTs with
    | some t =>
      if since s t (pllDelay s) && !(s.reg Reg.pwrPllStop).getLsbD 16 && !frozen s then
        s.modCluster cl fun c => { c with pll := .stopped, idleTs := none }
      else s
    | none => s)

/-- A stopped cluster begins to restart its PLL (R59). -/
def startPll (s : State) (cl : BitVec 6) : State :=
  s.modCluster cl fun c => if c.pll = .stopped then { c with pll := .locking, idleTs := none } else c

/-- What restarts a stopped PLL stands: a prepare, a woken core, a range-maintenance operation (R59), or a warm reset (R509,
R529). -/
def pllWanted (s : State) (cl : BitVec 6) : Bool :=
  let k := s.cluster cl
  k.prep != .none || k.rst.isSome || (mgetD none s.mem.rm (rmKey cl)).isSome ||
    (enabledList s cl).any fun p => let c := s.core ⟨cl, p⟩; c.wake || c.rst.isSome

/-- PLL_RESTART: a stopped cluster with a restart event restarts its PLL (R59). -/
def execPllRestart (cl : BitVec 6) (s : State) : Out :=
  .next (if frozen s || s.boot.offDie.contains (dieCd cl) || !pllWanted s cl then s else startPll s cl)

/-- PLL_LOCK: the PLL has locked at the step of R484; the cluster clock runs (R59). -/
def execPllLock (cl : BitVec 6) (s : State) : Out :=
  .next (
    let k := lockStep s cl
    s.modCluster cl fun c => if c.pll = .locking then { c with pll := .running, step := k, idleTs := none } else c)

/-- DEBUG_REQUEST: a debug request restarts a stopped PLL (R59). -/
def execDebugRequest (cl : BitVec 6) (s : State) : Out :=
  .next (if frozen s || s.boot.offDie.contains (dieCd cl) then s else startPll s cl)

end Sys2Proof.Machine
end

