-- ==== Sys2Proof/Machine/Dcx.lean ====
section
/-! DEFINITION. Packed space and the decompressors (R203 to R212), and the reads of a non-caching agent that may name packed
space. -/

namespace Sys2Proof.Machine

/-! ### Prefix codes (R208, R209) -/

/-- The length of a symbol's code in a 64-bit length table: symbol s in nibble s (R207). -/
def codeLen (tab s : Nat) : Nat := bitsN tab (4 * s) 4

/-- The codewords of one length: the next code, and what has been assigned; none when oversubscribed (R209). -/
def assignLen (tab l : Nat) : List Nat → Nat → Option (Nat × List (Nat × Nat × Nat))
  | [], code => some (code, [])
  | s :: t, code =>
    if codeLen tab s ≠ l then assignLen tab l t code
    else if 2 ^ l ≤ code then none
    else (assignLen tab l t (code + 1)).map fun r => (r.1, (l, code, s) :: r.2)

/-- The canonical code of a length table, lengths from l on (R209): length, codeword, symbol. -/
def buildCode (tab l code : Nat) : Nat → Option (List (Nat × Nat × Nat))
  | 0 => some []
  | n + 1 =>
    match assignLen tab l (List.range 16) code with
    | none => none
    | some (c, e) => (buildCode tab (l + 1) (2 * c) n).map fun r => e ++ r

/-- The code of a table that a method needs: a table with no length is an error (R209). -/
def codeOf (tab : Nat) : Option (List (Nat × Nat × Nat)) := if tab = 0 then none else buildCode tab 1 0 15

/-- Read one symbol from a bit position, most significant code bit first; none past the end or when no code matches (R208,
R209). -/
def readSym (code : List (Nat × Nat × Nat)) (bits limit : Nat) (pos v len : Nat) : Nat → Option (Nat × Nat)
  | 0 => none
  | n + 1 =>
    if limit ≤ pos then none
    else
      let v := 2 * v + (if bits.testBit pos then 1 else 0)
      match code.find? fun e => e.1 == len + 1 && e.2.1 == v with
      | some (_, _, s) => some (s, pos + 1)
      | none => readSym code bits limit (pos + 1) v (len + 1) n

/-! ### Sub-blocks (R208) -/

/-- Byte k of stored bytes. -/
def storedByte (b k : Nat) : Nat := bitsN b (8 * k) 8

/-- The bytes of a split sub-block from its k-th on. -/
def splitBytes (hi : List (Nat × Nat × Nat)) (b start limit k pos : Nat) : Nat → Option (List Nat)
  | 0 => some []
  | n + 1 =>
    match readSym hi b limit pos 0 0 15 with
    | none => none
    | some (h, p) => (splitBytes hi b start limit (k + 1) p n).map fun r => (16 * h + bitsN b (8 * start + 4 * k) 4) :: r

/-- The bytes of a full sub-block. -/
def fullBytes (hi lo : List (Nat × Nat × Nat)) (b limit pos : Nat) : Nat → Option (List Nat)
  | 0 => some []
  | n + 1 =>
    match readSym hi b limit pos 0 0 15 with
    | none => none
    | some (h, p) =>
      match readSym lo b limit p 0 0 15 with
      | none => none
      | some (l, q) => (fullBytes hi lo b limit q n).map fun r => (16 * h + l) :: r

/-- One sub-block, whose data lie in stored bytes start to stop − 1 (R207, R208); none for a format error. -/
def subBlock (b hiTab loTab method start stop : Nat) : Option (List Nat) :=
  match method with
  | 0 => if start + 256 ≤ stop then some ((List.range 256).map fun k => storedByte b (start + k)) else none
  | 1 => if start < stop then some (List.replicate 256 (storedByte b start)) else none
  | 2 =>
    match codeOf hiTab with
    | none => none
    | some hi => if start + 128 ≤ stop then splitBytes hi b start (8 * stop) 0 (8 * (start + 128)) 256 else none
  | _ =>
    match codeOf hiTab, codeOf loTab with
    | some hi, some lo => fullBytes hi lo b (8 * stop) (8 * start) 256
    | _, _ => none

/-- Offset i of a packed granule's sub-blocks; the last ends at LEN (R207). -/
def subOffset (b len i : Nat) : Nat := if 16 ≤ i then len else bitsN b (8 * (0x14 + 2 * i)) 16

/-- The offsets rise strictly from at least 64 to LEN (R207). -/
def offsetsOk (b len : Nat) : Bool :=
  decide (64 ≤ subOffset b len 0) && (List.range 16).all fun i => decide (subOffset b len i < subOffset b len (i + 1))

/-- A number from bytes, first byte lowest. -/
def natOfBytes : List Nat → Nat
  | [] => 0
  | x :: t => x % 256 + 256 * natOfBytes t

/-- The expanded bytes of a packed granule, as four lines for each sub-block (R207); none for a format error. -/
def expandPacked (b len : Nat) : Option (List Line) :=
  if len < 64 ∨ !offsetsOk b len then none
  else
    let hi := bitsN b 0 64
    let lo := bitsN b 64 64
    let one := fun i => (subBlock b hi lo (bitsN b (8 * 0x10 + 2 * i) 2) (subOffset b len i) (subOffset b len (i + 1))).map fun x =>
      (List.range 4).map fun k => BitVec.ofNat 512 (natOfBytes ((x.drop (64 * k)).take 64))
    ((List.range 16).mapM one).map List.flatten

/-! ### Reading a granule (R204 to R206, R210, R212) -/

/-- Flags of DCX_STAT (R211). -/
def dcxUnbound : Nat := 0
def dcxHeader : Nat := 1
def dcxFormat : Nat := 2
def dcxPlace : Nat := 3

/-- What reading a granule met: its lines and a poison mark; an error with its flag; memory in use. -/
inductive Granule where
  | ok (lines : List Line) (poison : Bool) (s : State)
  | bad (flag : Nat) (s : State)
  | busy (ask : Ask)
  deriving Repr

/-- A decompressor. -/
def dcxOf (s : State) (n : BitVec 3) : DcxSt := mget s.mem.dcx n.toNat
/-- Change a decompressor. -/
def modDcx (s : State) (n : BitVec 3) (f : DcxSt → DcxSt) : State :=
  s.modMem fun m => { m with dcx := mmod m.dcx n.toNat f }

/-- The decompressor of a packed line: the far stack it maps to (R203). -/
def dcxOfLine (m : MemSt) (line : Nat) : BitVec 3 :=
  let (mode, A) := homeOffset m line
  BitVec.ofNat 3 (stackOf mode A)

/-- The base die of a decompressor. -/
def dcxDie (n : BitVec 3) : Bool := n.getLsbD 2

/-- The PPT entry of a packed page, from the cache or from memory (R204, R212). -/
def pptEntry (s : State) (n : BitVec 3) (page : Nat) : AgRes (Option (BitVec 64) × State) :=
  match mgetD none (dcxOf s n).ppt page with
  | some e => .ok (some e, s)
  | none =>
    let base := baseOf s (Reg.mbd (dcxDie n) Reg.dcxPptLo) 20
    match agentWord s (.dcx n) 0 (base + 8 * page) 8 with
    | .busy q => .busy q
    | .refused => .ok (none, s)
    | .ok (v, p, s) =>
      let e := BitVec.ofNat 64 v
      if p ∨ !e.getLsbD 63 then .ok (none, s)
      else .ok (some e, modDcx s n fun x => { x with ppt := mset x.ppt page (some e) })

/-- The granule entry of a granule under its page's header: the format word is checked when the entry is first read (R205,
R210, R212); the inner none is a header error. -/
def granEntry (s : State) (n : BitVec 3) (g header : Nat) : AgRes (Option (BitVec 64) × State) :=
  match mgetD none (dcxOf s n).gran g with
  | some e => .ok (some e, s)
  | none =>
    match agentWord s (.dcx n) 0 header 4 with
    | .busy q => .busy q
    | .refused => .ok (none, s)
    | .ok (f, p, s) =>
      match agentWord s (.dcx n) 0 (header + 64 + 8 * (g % 8192)) 8 with
      | .busy q => .busy q
      | .refused => .ok (none, s)
      | .ok (v, q, s) =>
        if f ≠ 1 ∨ p ∨ q then .ok (none, s)
        else .ok (some (BitVec.ofNat 64 v), modDcx s n fun x => { x with gran := mset x.gran g (some (BitVec.ofNat 64 v)) })

/-- The stored bytes lie in one aligned 4 KiB granule of the far tier that maps to the serving stack (R206). -/
def placeOk (s : State) (n : BitVec 3) (addr len : Nat) : Bool :=
  decide (addr % 4096 + len ≤ 4096) &&
    match locate s.mem addr with
    | some (.far, A) => decide (stackOf s.mem.farMode A = n.toNat)
    | _ => false

/-- Stored bytes as a number, with the poison of their lines; an error while one is in use. -/
def storedBytes (s : State) (n : BitVec 3) (addr len : Nat) : Except Ask (Nat × Bool × State) :=
  let first := addr / 64
  match agentReadLines s (.dcx n) 0 0 first false ((addr + len - 1) / 64 - first + 1) with
  | .error q => .error q
  | .ok (bad, ls, s) =>
    let v := (ls.zipIdx.foldl (fun v e => v + e.1.1.toNat * 2 ^ (512 * e.2)) 0) / 2 ^ (8 * (addr % 64))
    .ok (v % 2 ^ (8 * len), bad || ls.any (·.2), s)

/-- What the granule entry makes of the stored bytes (R206). -/
def expandEntry (s : State) (n : BitVec 3) (e : BitVec 64) : Granule :=
  let len := (e.extractLsb' 50 12).toNat + 1
  let addr := (e.extractLsb' 0 38).toNat * 16
  match e.extractLsb' 62 2 with
  | 0 => if len = 1 ∧ addr = 0 then .ok (List.replicate 64 0) false s else .bad dcxFormat s
  | 3 => .bad dcxFormat s
  | m =>
    if m = 1 ∧ len ≠ 4096 then .bad dcxFormat s
    else if !placeOk s n addr len then .bad dcxPlace s
    else match storedBytes s n addr len with
      | .error q => .busy q
      | .ok (b, p, s) =>
        if m = 1 then .ok ((List.range 64).map fun k => BitVec.ofNat 512 (b / 2 ^ (512 * k))) p s
        else match expandPacked b len with
          | some ls => .ok ls p s
          | none => if p then .ok (List.replicate 64 0) true s else .bad dcxFormat s

/-- A granule as its decompressor expands it: already expanded, or through the PPT, the header and its entry (R204 to R212). -/
def expandGranule (s : State) (n : BitVec 3) (g : Nat) : Granule :=
  match (dcxOf s n).exp.find? (·.1 == g) with
  | some (_, ls) => .ok ls false s
  | none =>
    if !(s.reg (Reg.mbd (dcxDie n) Reg.dcxPptLo)).getLsbD 0 then .bad dcxUnbound s
    else match pptEntry s n (g / 8192) with
      | .busy q => .busy q
      | .refused => .bad dcxUnbound s
      | .ok (none, s) => .bad dcxUnbound s
      | .ok (some e, s) =>
        match granEntry s n g ((e.extractLsb' 6 38).toNat * 64) with
        | .busy q => .busy q
        | .refused => .bad dcxHeader s
        | .ok (none, s) => .bad dcxHeader s
        | .ok (some e, s) =>
          match expandEntry s n e with
          | .ok ls p s =>
            .ok ls p (if p then s else modDcx s n fun x => { x with exp := ((g, ls) :: x.exp).take 64 })
          | r => r

/-- The granule of a packed line, and the line's place in it. -/
def granuleOf (m : MemSt) (line : Nat) : Nat × Nat :=
  let (_, A) := homeOffset m line
  (A / 4096, A % 4096 / 64)

/-- A packed-space error: the flag, the notice and its PACKED crumb (R210, R513). -/
def dcxError (s : State) (n : BitVec 3) (flag line g : Nat) : State :=
  let s := s.setFlag (Reg.mbd (dcxDie n) Reg.dcxStat) flag
  raiseAs s (dieMbd (dcxDie n)) n.toNat 0x26 0 (BitVec.ofNat 64 (line * 64)) 0x04 g (BitVec.ofNat 64 (line * 64))

/-- A packed line for a requester class: expanded and filled into the base cache, or poison, not filled (R203, R210); an error
while memory is in use. -/
def expandLine (s : State) (line cls : Nat) (stream : Bool) : Except Ask (Line × Bool × State) :=
  let n := dcxOfLine s.mem line
  let (g, k) := granuleOf s.mem line
  match expandGranule s n g with
  | .busy q => .error q
  | .bad f s => .ok (0, true, dcxError s n f line g)
  | .ok ls p s =>
    let d := (ls[k]?).getD 0
    .ok (d, p, if p then s else bccFill s line d false false cls stream)

/-- RDC of a non-caching agent as one step, packed space included (R203, R245). -/
def agentReadAny (s : State) (a : Agent) (mark : BitVec 4) (ctx : Ctx) (line : Nat) (stream : Bool) :
    AgRes (Line × Bool × State) :=
  if isPacked line ∧ (bccFind s.mem line).isNone then
    if isReserved s.mem line || (a != .hpt && !ctxPasses s.mem ctx line) then .refused
    else if homeHeld s (homeOf s.mem line) then .ok (Config.poisonData line, true, s)
    else if !agentPath s a (homeOf s.mem line) || !quietLine s line then .busy none
    else match expandLine s line (classOfAgent s (dieOfHome (homeOf s.mem line)) a mark) stream with
      | .ok r => .ok r
      | .error q => .busy q
  else agentRead s a mark ctx line stream

/-! ### Commands -/

/-- DCX_EXPAND: the decompressor expands the granule of a packed line that a transaction of its home waits for (R203, R212). -/
def execDcxExpand (dcx : BitVec 3) (line : Nat) (s : State) : Out :=
  .next (
    let h := homeOf s.mem line
    match (s.home h).txns.find? fun t => t.line == line && t.phase == .expand with
    | none => s
    | some t =>
      if dcxOfLine s.mem line ≠ dcx ∨ frozen s then s
      else match expandLine s line (classOfAgent s (dieOfHome h) t.req.src t.req.cls) t.req.stream with
        | .error q => s.ask q
        | .ok (d, p, s) => finish s h t (some (d, p)))

/-- The decompressors of a base die. -/
def dcxsOf (die : Bool) : List Nat := (List.range 4).map fun i => i + (if die then 4 else 0)

/-- Every cached entry and granule of a die's decompressors drops; the invalidation runs until DCX_INV_DONE (R211). -/
def dcxInv (s : State) (die : Bool) : State :=
  s.modMem fun m => { m with
    dcx := (dcxsOf die).foldl (fun d n => mset d n default) m.dcx
    dcxBusy := mset m.dcxBusy (if die then 1 else 0) true }

/-- DCX_INV (R211). -/
def execDcxInv (ag : RegAgent) (die : Bool) (s : State) : Out :=
  .next (withReg s ag (Reg.mbd die Reg.dcxCtrl) fun s => dcxInv s die)

/-- DCX_INV_DONE: INVBUSY clears (R211). -/
def execDcxInvDone (die : Bool) (s : State) : Out :=
  .next (if frozen s then s else s.modMem fun m => { m with dcxBusy := mset m.dcxBusy (if die then 1 else 0) false })

end Sys2Proof.Machine
end

