-- ==== Sys2Proof/Machine/DspOps.lean ====
section
/-! DEFINITION. The dispatcher's shared operations: records and event rings (R67, R339, R341), completion of a command
(R335, R336, R339, R50), steps (R343 to R346), and the end of a ring (R328, R329, R346, R349). -/

namespace Sys2Proof.Machine

/-! ### Accessors -/

/-- A work ring. -/
def State.ring (s : State) (r : BitVec 10) : RingSt := mget s.dsp.rings r.toNat
/-- Change a work ring. -/
def State.modRing (s : State) (r : BitVec 10) (f : RingSt → RingSt) : State :=
  s.modDsp fun d => { d with rings := mmod d.rings r.toNat f }
/-- An event ring. -/
def State.ev (s : State) (m : BitVec 8) : EvSt := mget s.dsp.evs m.toNat
/-- Change an event ring. -/
def State.modEv (s : State) (m : BitVec 8) (f : EvSt → EvSt) : State :=
  s.modDsp fun d => { d with evs := mmod d.evs m.toNat f }
/-- The energy slot and step state of a context. -/
def State.ctxSlot (s : State) (c : Ctx) : Option CtxSt := mgetD none s.dsp.ctxs c.toNat
/-- Change the slot of a context that has one. -/
def State.modCtx (s : State) (c : Ctx) (f : CtxSt → CtxSt) : State :=
  s.modDsp fun d => { d with ctxs := mset d.ctxs c.toNat ((mgetD none d.ctxs c.toNat).map f) }
/-- The energy accumulator of a context (R348). -/
def energyOf (s : State) (c : Ctx) : BitVec 64 := ((s.ctxSlot c).map (·.energy)).getD 0

/-! ### Records -/

/-- n bytes of a record at an offset. -/
def recField (off n v : Nat) : Nat := (v % 2 ^ (8 * n)) * 2 ^ (8 * off)

/-- A completion or context-closed record (R339). -/
def recordLine (ty opc status ctx ring step idx tag now vis path lo hi : Nat) : Line :=
  BitVec.ofNat 512 (recField 0 2 ty + recField 2 1 opc + recField 3 1 status + recField 4 4 ctx + recField 8 2 ring +
    recField 0xA 2 step + recField 0xC 4 idx + recField 0x10 8 tag + recField 0x18 8 now + recField 0x20 8 vis +
    recField 0x28 1 path + recField 0x30 8 lo + recField 0x38 8 hi)

/-- A core exception record (R67). -/
def excLine (l : Launch) (r : ExcRec) : Line :=
  BitVec.ofNat 512 (recField 0 2 0xE + recField 2 1 r.code.toNat + recField 3 1 (if r.halt then 0 else 1) +
    recField 4 4 l.cmd.ctx.toNat + recField 8 2 r.cl.toNat + recField 0xA 2 r.pos.toNat + recField 0xC 2 r.lidx +
    recField 0xE 2 l.lseq.toNat + recField 0x10 8 r.pc.toNat + recField 0x18 8 r.addr.toNat + recField 0x20 8 r.word.toNat +
    recField 0x28 8 r.first.toNat + recField 0x30 8 r.last.toNat + recField 0x38 8 r.cores.toNat)

/-- A record waits to be written to an event ring, behind those formed before it; the 64th sets EVFULL (R341). -/
def pushRecord (s : State) (m : BitVec 8) (d : Line) : State :=
  let s := s.modEv m fun e => { e with recs := e.recs ++ [d] }
  if (s.ev m).recs.length = 64 then s.setFlag Reg.dspStat 3 else s

/-- What a record says beside its command: step number, bytes 0x30 and 0x38. -/
structure RecBody where
  step : BitVec 16 := 0
  lo : Nat := 0
  hi : Nat := 0
  deriving DecidableEq, Repr, Inhabited

/-- The record of a command goes to its ring's event ring; vis is its visibility stamp (R285, R339). -/
def cmdRecord (s : State) (c : Cmd) (status : BitVec 8) (vis : Stamp) (path : BitVec 2) (b : RecBody) : State :=
  pushRecord s (s.ring c.ring).ev (recordLine 1 c.opc.toNat status.toNat c.ctx.toNat c.ring.toNat b.step.toNat c.idx.toNat
    c.tag.toNat s.ts.toNat vis.toNat path.toNat b.lo b.hi)

/-! ### The end of a ring (R328, R329, R346, R349) -/

/-- Set or clear a ring's bit in DSP_RING_ON. -/
def ringOnBit (s : State) (r : BitVec 10) (on : Bool) : State :=
  let off := Reg.dspRingOn + 4 * (r.toNat / 32)
  let bit := 1#32 <<< (r.toNat % 32)
  s.setReg off (if on then s.reg off ||| bit else s.reg off &&& ~~~bit)

/-- An event ring is still bound: an enabled work ring names it, a record waits on it, or a context whose last ring named it
has not been closed (R329). -/
def evInUse (s : State) (m : BitVec 8) : Bool :=
  s.dsp.rings.any (fun r => r.2.on && r.2.ev == m) || !(s.ev m).recs.isEmpty ||
    s.dsp.ctxs.any fun c => match c.2 with
      | some x => x.rings.isEmpty && (s.ring x.last).ev == m
      | none => false

/-- Unbind an event ring that nothing uses any more (R329). -/
def tidyEv (s : State) (m : BitVec 8) : State :=
  if evInUse s m then s else s.modEv m fun e => { e with bound := false }

/-- Drop a step of a context: its trays are released (R345, R346). -/
def dropStep (n : BitVec 16) (ring : BitVec 10) (c : CtxSt) : CtxSt :=
  { c with steps := c.steps.filter fun x => !(x.num == n && x.ring == ring) }

/-- Commands of a step whose status was not OK (R339). -/
def stepBad (s : State) (ctx : Ctx) (n : BitVec 16) (ring : BitVec 10) : Nat :=
  match s.ctxSlot ctx with
  | none => 0
  | some c => ((c.steps.find? fun t : Step => t.num == n && t.ring == ring).map (fun t : Step => t.bad.toNat)).getD 0

/-- A disabled ring whose taken commands have all completed turns off; a step open on it ends with ABORTED (R328, R346). -/
def settleRing (s : State) (r : BitVec 10) : State :=
  let x := s.ring r
  if x.on && x.closing && x.held.isNone && x.active.isEmpty then
    let s := match x.step with
      | none => s
      | some n =>
        let s := pushRecord s x.ev (recordLine 1 0x0A stAborted.toNat x.ctx.toNat r.toNat n.toNat x.rd.toNat 0 s.ts.toNat
          s.ts.toNat 0 (energyOf s x.ctx).toNat (stepBad s x.ctx n r))
        (s.modCtx x.ctx (dropStep n r)).modRing r fun x => { x with step := none }
    let s := ringOnBit (s.modRing r fun x => { x with on := false, closing := false }) r false
    let s := s.modCtx x.ctx fun c => { c with rings := c.rings.filter (· != r), last := r }
    tidyEv s x.ev
  else s

/-! ### Completion -/

/-- A command's token goes out on its completion, with the command's context and an increment of 1 (R50, R333). -/
def sendToken (s : State) (c : Cmd) : State :=
  if c.tok then
    pushToken s (c.token.extractLsb' 8 6) ⟨c.ctx, none, (c.token.extractLsb' 0 8).toNat, c.token.extractLsb' 16 4, 1⟩
  else s

/-- A command of a step ended with a status other than OK: the step counts it (R339, R346). -/
def markBad (s : State) (c : Cmd) (status : BitVec 8) : State :=
  if status = stOK then s else
  match c.step with
  | none => s
  | some n => s.modCtx c.ctx fun x =>
      { x with steps := modFirst (fun t : Step => t.num == n && t.ring == c.ring) (fun t => { t with bad := satAdd t.bad 1 }) x.steps }

/-- What a completed command wrote (R336): nothing, or with this visibility stamp and these posted paths. -/
abbrev Wrote := Option (Stamp × BitVec 2)

/-- A command completes: its record, its token, the ring's largest stamp and paths, and its step's count (R334 to R341). A
record with status OK is left out under NOREC (R333). -/
def completeCmd (s : State) (c : Cmd) (status : BitVec 8) (wrote : Wrote) (b : RecBody) : State :=
  let vis := (wrote.map (·.1)).getD s.ts
  let path := (wrote.map (·.2)).getD 0
  let s := if c.norec && status == stOK then s else cmdRecord s c status vis path b
  let s := sendToken (markBad s c status) c
  let s := s.modRing c.ring fun r => { r with
    active := r.active.filter (·.1 != c.idx)
    maxStamp := match wrote with
      | some (v, _) => if r.maxStamp.toNat < v.toNat then v else r.maxStamp
      | none => r.maxStamp
    pathMask := r.pathMask ||| path
    wrote := r.wrote || wrote.isSome }
  settleRing s c.ring

/-- A command is rejected: it does nothing but write its record, whatever NOREC holds, and its ring goes on (R335). -/
def rejectCmd (s : State) (c : Cmd) (status : BitVec 8) (b : RecBody) : State :=
  let s := cmdRecord (markBad s c status) c status s.ts 0 b
  settleRing (s.modRing c.ring fun r => { r with held := none }) c.ring

/-- A command leaves its ring's head and runs (R330). -/
def releaseRing (s : State) (c : Cmd) : State :=
  s.modRing c.ring fun r => { r with held := none, active := r.active ++ [(c.idx, c.step)] }

/-- The held command of a ring ends without having started: translation fault, poison at its gate (R320, R332). -/
def failHeld (s : State) (ring : BitVec 10) (status : BitVec 8) : State :=
  match (s.ring ring).held with
  | none => s
  | some h => completeCmd (s.modRing ring fun r => { r with held := none }) h.cmd status none {}

/-- The held command of a ring that has been started and has an operation code. -/
def startedCmd (s : State) (ring : BitVec 10) (opc : BitVec 8) : Option HeldCmd :=
  match (s.ring ring).held with
  | some h => if h.started && h.cmd.opc == opc then some h else none
  | none => none

/-! ### Bodies -/

/-- n bytes of a command at an offset from its start; the body begins at 0x10 (R333). -/
def bodyNat (c : Cmd) (off n : Nat) : Nat := bitsN c.body.toNat (8 * (off - 0x10)) (8 * n)

/-- The 32 MiB pages of a byte range, by address. -/
def rangePages (a len : Nat) : List Nat :=
  if len = 0 then [] else
  let first := a / 2 ^ 25
  (List.range ((a + len - 1) / 2 ^ 25 - first + 1)).map fun i => (first + i) * 2 ^ 25

/-- The number of 32 MiB pages of a byte range. -/
def rangeCount (a len : Nat) : Nat := if len = 0 then 0 else (a + len - 1) / 2 ^ 25 - a / 2 ^ 25 + 1

/-- The GEN of a context, as its context table entry holds it (R298); an error while its line is in use. -/
def readGen (s : State) (ctx : Ctx) : Except Ask (BitVec 16 × State) :=
  match agentWord s .walker 0 (baseOf s Reg.xltCtxtLo 20 + 16 * ctx.toNat + 8) 2 with
  | .ok (v, _, s) => .ok (BitVec.ofNat 16 v, s)
  | .refused => .ok (0, s)
  | .busy q => .error q

/-- Dispatch nothing: the complex is held in reset or in the safe state, or the link is in D3 (R418, R510). -/
def dspStopped (s : State) : Bool := frozen s || s.hpt.dstate != .d0

end Sys2Proof.Machine
end

