-- ==== Sys2Proof/Machine/Launches.lean ====
section
/-! DEFINITION. Launches (R41 to R46): prepare, start, completion; the exception records (R64 to R67) and the halt; resume and
abort (R342). -/

namespace Sys2Proof.Machine

/-! ### Prepare and start -/

/-- The clusters of a launch grid, in grid order (R41). -/
def gridOf (l : Launch) : List (BitVec 6) := clustersOf l.mask

/-- A grid cluster is free: no running launch, none in prepare, no warm reset of it or of one of its cores (R43, R529). -/
def clusterFree (s : State) (cl : BitVec 6) : Bool :=
  let c := s.cluster cl
  c.run.isNone && c.prep == .none && c.rst.isNone && (enabledList s cl).all fun p => (s.core ⟨cl, p⟩).rst.isNone

/-- A launch that started earlier and waits for a cluster of the grid goes first (R331). -/
def firstInLine (s : State) (l : Launch) : Bool :=
  (s.dsp.launches.takeWhile (·.id != l.id)).all fun m => m.phase != .queued || (m.mask &&& l.mask) == 0

/-- A launch leaves the dispatcher: its clusters run it no more, its cores are no longer started, and it completes (R46). -/
def finishLaunch (s : State) (l : Launch) : State :=
  let free := fun (s : State) (cl : BitVec 6) =>
    let c := s.cluster cl
    let mine := (c.run.map (·.id)) == some l.id
    let s := if mine then (mapCores s cl fun _ x => { x with started := false }).modCluster cl fun c => { c with run := none } else s
    s.modCluster cl fun c => { c with prep := if c.prep = .clearing l.id ∨ c.prep = .ready l.id then .none else c.prep }
  let s := (gridOf l).foldl free s
  let s := s.modDsp fun d => { d with launches := d.launches.filter (·.id != l.id) }
  completeCmd s l.cmd l.status (if l.wrote then some (s.ts, l.path) else none)
    { lo := if l.phase = .queued then 0 else l.lseq.toNat, hi := l.cores }

/-- LAUNCH_PREPARE: every grid cluster is free; the launch takes its sequence number and its clusters go into prepare, unless
one has been isolated since it was taken (R41, R43). -/
def execLaunchPrepare (l : Nat) (s : State) : Out :=
  .next (if dspStopped s then s else
    match findLaunch s l with
    | none => s
    | some x =>
      if x.phase ≠ .queued then s
      else if (gridOf x).any fun c => (s.cluster c).isolated then finishLaunch s { x with status := stIsolated }
      else if (gridOf x).all (clusterFree s) && firstInLine s x then
        let s := modLaunch s l fun y => { y with phase := .prepare, lseq := s.dsp.nextSeq }
        let s := s.modDsp fun d => { d with nextSeq := d.nextSeq + 1 }
        (gridOf x).foldl (fun s c => s.modCluster c fun k => { k with prep := .clearing l, idleTs := none }) s
      else s)

/-- What prepare clears in an enabled core, which is Idle after it (R43, R57); its stream channels hold full credits (R54). -/
def clearCore (c : CoreSt) : CoreSt :=
  { c with
    st := .idle
    wake := false
    started := false
    ls := []
    t := (default : CoreSt).t
    acc := (default : CoreSt).acc
    k := (default : CoreSt).k
    ovf := 0
    rxP := []
    rxN := []
    flyP := []
    flyN := []
    crN := 8
    crP := 8
    backN := 0
    backP := 0
    strDone := 0
    pairLo := none
    rsv := none
    fetched := none
    pend := none
    xwait := none }

/-- PREPARE_DONE: a grid cluster with its PLL running has cleared its cores and reports (R43, R44). -/
def execPrepareDone (l : Nat) (cl : BitVec 6) (s : State) : Out :=
  .next (
    let c := s.cluster cl
    if c.prep = .clearing l ∧ c.pll = .running ∧ !frozen s then
      (forCores s cl fun _ x => clearCore x).modCluster cl fun k => { k with prep := .ready l }
    else s)

/-- Cores of a cluster that a launch starts (R42). -/
def startedIn (s : State) (cl : BitVec 6) (sel : Nat) : Nat := if sel = 0 then enabledCount s cl else sel

/-- The state of a selected core at launch start (R45). -/
def startCore (l : Launch) (g i : Nat) (c : CoreSt) : CoreSt :=
  { c with
    st := .running
    started := true
    pc := l.entry
    s := (((default : CoreSt).s.set 1 l.arg).set 2 (BitVec.ofNat 64 g)).set 3 (BitVec.ofNat 64 i)
    p := 0xFF
    xcfg := 0
    fsr := 0
    vsw := 0
    fns := false
    tks := false
    vl := 64
    rl := 16 }

/-- Start the selected cores of one grid cluster and apply the tokens held for the launch (R43, R45, R50). -/
def startCluster (l : Launch) (s : State) (e : BitVec 6 × Nat) : State :=
  let (cl, g) := e
  let n := startedIn s cl l.sel
  let run : RunInfo := ⟨l.id, l.cmd.ctx, l.lseq, g, (gridOf l).length, n, l.arg⟩
  let held := (s.cluster cl).tokHeld
  let s := s.modCluster cl fun k => { k with prep := .none, run := some run, tokHeld := [] }
  let go := fun (s : State) (e : BitVec 8 × Nat) => s.modCore ⟨cl, e.1⟩ (startCore l g e.2)
  let s := ((enabledList s cl).take n).zipIdx.foldl go s
  held.foldl (fun s t => applyToken s cl t) s

/-- LAUNCH_START: every grid cluster has reported prepare done; all selected cores start together (R43, R44). A launch that
a grid cluster's isolation or a warm reset has ended does not start (R41, R529). -/
def execLaunchStart (l : Nat) (s : State) : Out :=
  .next (if dspStopped s then s else
    match findLaunch s l with
    | none => s
    | some x =>
      if x.phase = .prepare ∧ x.status = stOK ∧ (gridOf x).all (fun c => (s.cluster c).prep == .ready l) then
        let total := (gridOf x).foldl (fun n c => n + startedIn s c x.sel) 0
        let s := (gridOf x).zipIdx.foldl (startCluster x) s
        modLaunch s l fun y => { y with phase := .running, cores := total }
      else s)

/-! ### Completion (R46) -/

/-- A core's part has ended, and its buffers and line moves have drained (R46). -/
def coreDone (halting : Bool) (c : CoreSt) : Bool :=
  (c.st == .idle || (halting && c.st == .halted)) && c.sb.isEmpty && c.cb.isEmpty && noMoves c

/-- A cluster's share of a launch is complete; an isolated cluster's counts as ended and drained (R46). -/
def clusterDone (s : State) (halting : Bool) (id : Nat) (cl : BitVec 6) : Bool :=
  let c := s.cluster cl
  c.isolated || ((c.outw.all fun o => o.launch != id || o.dest != .device) &&
    (enabledList s cl).all fun p => !(s.core ⟨cl, p⟩).started || coreDone halting (s.core ⟨cl, p⟩))

/-- LAUNCH_COMPLETE: every started core has ended, every buffer has drained and every exception record has been written
(R46); a launch ended in prepare completes once its other clusters have cleared (R41). -/
def execLaunchComplete (l : Nat) (s : State) : Out :=
  .next (if frozen s then s else
    match findLaunch s l with
    | none => s
    | some x =>
      match x.phase with
      | .queued => s
      | .prepare =>
        if x.status ≠ stOK ∧ (gridOf x).all (fun c => (s.cluster c).isolated || (s.cluster c).rst.isSome ||
            (s.cluster c).prep != .clearing l) then finishLaunch s x else s
      | _ =>
        if x.recs.isEmpty && x.excWait.isEmpty && (gridOf x).all (clusterDone s (x.phase == .halting) l) then finishLaunch s x else s)

/-! ### Exception records and the halt -/

/-- The oldest core that waits for a free record opens one (R66). -/
def openWaiting (s : State) (l : Nat) : State :=
  match findLaunch s l with
  | none => s
  | some x =>
    match x.excWait with
    | [] => s
    | (core, e, t) :: r => modLaunch s l fun y => recordExc s core e t { y with excWait := r }

/-- EXCEPTION_RECORD_WRITE: 4 µs after a record opened, the dispatcher puts it on the event ring (R66, R67, R339). -/
def execExceptionRecordWrite (l i : Nat) (s : State) : Out :=
  .next (if frozen s then s else
    match findLaunch s l with
    | none => s
    | some x =>
      match x.recs[i]? with
      | none => s
      | some r =>
        if since s r.opened (4 * Config.usTicks) then
          let s := pushRecord s (s.ring x.cmd.ring).ev (excLine x r)
          openWaiting (modLaunch s l fun y => { y with recs := y.recs.eraseIdx i }) l
        else s)

/-- Halt a core that a launch started and whose part has not ended (R57, R64). -/
def haltCore (c : CoreSt) : CoreSt :=
  match c.started, c.st with
  | true, .running => excState true c
  | true, .gated _ => excState true c
  | true, .waiting => excState true c
  | _, _ => c

/-- Halt every started core of a cluster that runs a launch. -/
def haltCluster (id : Nat) (s : State) (cl : BitVec 6) : State :=
  if (s.cluster cl).run.map (·.id) = some id then mapCores s cl fun _ c => haltCore c else s

/-- LAUNCH_HALT: a halting launch's started cores halt (R64). -/
def execLaunchHalt (l : Nat) (s : State) : Out :=
  .next (if frozen s then s else
    match findLaunch s l with
    | none => s
    | some x => if x.phase = .halting then (gridOf x).foldl (haltCluster l) s else s)

/-! ### Launch control (R342) -/

/-- The launch running on a cluster, when its sequence number is the given one. -/
def launchOn (s : State) (lseq : BitVec 16) (cl : BitVec 6) : Option Launch :=
  match (s.cluster cl).run with
  | some r => if r.lseq = lseq then findLaunch s r.id else none
  | none => none

/-- A record of a core's exception has yet to open (R66). -/
def recordPending (l : Launch) (c : CoreId) : Bool := l.excWait.any fun e => e.1 == c

/-- DSP_LAUNCH_CMD matched nothing (R342). -/
def noMatch (s : State) : State := s.setFlag Reg.dspStat 2

/-- RESUME: the Waiting core at a position wakes (R65, R342). -/
def launchResume (s : State) (lseq : BitVec 16) (cl : BitVec 6) (pos : BitVec 8) : State :=
  match launchOn s lseq cl with
  | none => noMatch s
  | some l =>
    if (s.core ⟨cl, pos⟩).st = .waiting ∧ enabledPos s cl pos.toNat ∧ !recordPending l ⟨cl, pos⟩ then
      s.modCore ⟨cl, pos⟩ fun c => { c with st := .running }
    else noMatch s

/-- LAUNCH_RESUME (R342). A stopped PLL restarts first (R59): the core runs once it has locked. -/
def execLaunchResume (ag : RegAgent) (lseq : BitVec 16) (cl : BitVec 6) (pos : BitVec 8) (s : State) : Out :=
  .next (withReg s ag Reg.dspLaunchCmd fun s => if frozen s then s else
      let t := launchResume s lseq cl pos
      if (t.core ⟨cl, pos⟩).st = .running ∧ (s.core ⟨cl, pos⟩).st = .waiting then startPll t cl else t)

/-- ABORT: the launch halts with status ABORTED, unless it is already halting (R64, R342). -/
def launchAbort (s : State) (lseq : BitVec 16) (cl : BitVec 6) : State :=
  match launchOn s lseq cl with
  | none => noMatch s
  | some l => haltLaunch s l.id stAborted

/-- LAUNCH_ABORT (R342). -/
def execLaunchAbort (ag : RegAgent) (lseq : BitVec 16) (cl : BitVec 6) (s : State) : Out :=
  .next (withReg s ag Reg.dspLaunchCmd fun s => if frozen s then s else launchAbort s lseq cl)

end Sys2Proof.Machine
end

