-- ==== Sys2Proof/Machine/Xlt.lean ====
section
/-! DEFINITION. The translation block (chapter 09): the table walk (R297 to R303), requests and fault records (R312 to R315,
R319), batches and the fault queue (R316 to R318), and the owner table's register (R306). -/

namespace Sys2Proof.Machine

/-! ### The walk -/

/-- Fault causes (R312). -/
def cNotPresent : BitVec 16 := 0x001
def cNoRead : BitVec 16 := 0x002
def cNoWrite : BitVec 16 := 0x004
def cNoExec : BitVec 16 := 0x008
def cBadEntry : BitVec 16 := 0x010
def cBadPa : BitVec 16 := 0x020
def cNoCtx : BitVec 16 := 0x040
def cWalkErr : BitVec 16 := 0x080
def cBadVa : BitVec 16 := 0x100

/-- What a walk met: a leaf, with the table entries it read for the walk cache; a fault, with its cause, level and entry; or
memory in use. -/
inductive Walk where
  | ok (l : Leaf) (seen : List (Nat × BitVec 64)) (s : State)
  | fault (cause : BitVec 16) (level : Nat) (entry : BitVec 64) (s : State)
  | busy (ask : Ask)
  deriving Repr

/-- One read of the walker, through the walk cache where it may serve (R301, R302); none for an error (R300). -/
def walkRead (s : State) (ctx : Ctx) (a : Nat) (cached : Bool) : AgRes (Option (BitVec 64) × State) :=
  match if cached then s.xlt.walkCache.find? (fun e => e.1 == a && e.2.2 == ctx) else none with
  | some (_, v, _) => .ok (some v, s)
  | none =>
    match agentWord s .walker 0 a 8 with
    | .ok (v, p, s) => .ok (if p then none else some (BitVec.ofNat 64 v), s)
    | .refused => .ok (none, s)
    | .busy q => .busy q

/-- The table index of a level (R297). -/
def levelIndex (va level : Nat) : Nat := bitsN va (52 - 9 * level) 9

/-- The leaf that an entry is (R299). -/
def leafOf (e : BitVec 64) (big : Bool) : Leaf :=
  { addr := (e.extractLsb' 25 19).toNat * 2 ^ 25, tgt := e.extractLsb' 9 2, rank := e.extractLsb' 48 16,
    region := e.extractLsb' 5 4, x := e.getLsbD 4, w := e.getLsbD 3, rd := e.getLsbD 2, big := big }

/-- Reserved bits of a leaf are 0, its target is defined, a 16 GiB page is aligned (R299, R300). -/
def leafLegal (e : BitVec 64) (big : Bool) : Bool :=
  let l := leafOf e big
  e.extractLsb' 44 4 == 0 && e.extractLsb' 11 14 == 0 && l.tgt != 3 && (l.tgt == 1 || l.rank == 0) &&
    (!big || e.extractLsb' 25 9 == 0)

/-- A page lies wholly in one range that exists (R300). -/
def pageExists (m : MemSt) (l : Leaf) : Bool :=
  match locate m l.addr, locate m (l.addr + (if l.big then 2 ^ 34 else 2 ^ 25) - 1) with
  | some (a, _), some (b, _) => a == b
  | _, _ => false

/-- The permission causes of an access at a leaf (R300). -/
def permCause (l : Leaf) (a : Access) : BitVec 16 :=
  match a with
  | .read => if l.rd then 0 else cNoRead
  | .write => if l.w then 0 else cNoWrite
  | .rw => (if l.rd then 0 else cNoRead) ||| (if l.w then 0 else cNoWrite)
  | .fetch => if l.x then 0 else cNoExec

/-- What a leaf entry makes of an access (R300). -/
def walkLeaf (s : State) (seen : List (Nat × BitVec 64)) (e : BitVec 64) (level : Nat) (a : Access) : Walk :=
  let big := level == 2
  let l := leafOf e big
  if !leafLegal e big then .fault cBadEntry level e s
  else if l.tgt = 0 ∧ !pageExists s.mem l then .fault cBadPa level e s
  else if permCause l a ≠ 0 then .fault (permCause l a) level e s
  else .ok l seen s

/-- The walk from the table of a level (R297, R300); n levels remain below level 3 − n. -/
def walkLevels (s : State) (ctx : Ctx) (va : Nat) (a : Access) (seen : List (Nat × BitVec 64)) (table : Nat) : Nat → Walk
  | 0 => .fault cBadEntry 3 0 s
  | n + 1 =>
    let level := 3 - n
    let at_ := table + 8 * levelIndex va level
    match walkRead s ctx at_ (level != 3) with
    | .busy q => .busy q
    | .refused => .fault cWalkErr level 0 s
    | .ok (none, s) => .fault cWalkErr level 0 s
    | .ok (some e, s) =>
      if !e.getLsbD 0 then .fault cNotPresent level e s
      else if e.getLsbD 1 then (if level = 1 then .fault cBadEntry level e s else walkLeaf s seen e level a)
      else if level = 3 ∨ e &&& 0xFFFFF00000000FFC#64 ≠ 0 then .fault cBadEntry level e s
      else walkLevels s ctx va a (seen ++ [(at_, e)]) ((e.extractLsb' 12 32).toNat * 4096) n

/-- A walk for an address of a context: the context table entry, then three levels at most (R298, R300). While translation is
not enabled it ends in NOCTX (R325). -/
def walk (s : State) (ctx : Ctx) (va : Word) (a : Access) : Walk :=
  if va.extractLsb' 52 12 ≠ 0 then .fault cBadVa 0 0 s
  else if !(s.reg Reg.xltCtxtLo).getLsbD 0 then .fault cNoCtx 0 0 s
  else
    let at_ := baseOf s Reg.xltCtxtLo 20 + 16 * ctx.toNat
    match walkRead s ctx at_ true with
    | .busy q => .busy q
    | .refused => .fault cWalkErr 0 0 s
    | .ok (none, s) => .fault cWalkErr 0 0 s
    | .ok (some e, s) =>
      match agentWord s .walker 0 (at_ + 8) 8 with
      | .busy q => .busy q
      | .refused => .fault cWalkErr 0 0 s
      | .ok (g, p, s) =>
        if p then .fault cWalkErr 0 e s
        else if !e.getLsbD 0 then .fault cNoCtx 0 e s
        else if e &&& 0xFFFFF00000000FFE#64 ≠ 0 ∨ 65536 ≤ g then .fault cBadEntry 0 e s
        else walkLevels s ctx va.toNat a [(at_, e)] ((e.extractLsb' 12 32).toNat * 4096) 3

/-- Enter what a walk read into the walk cache; the oldest of 512 entries drop (R302). -/
def fillWalkCache (s : State) (ctx : Ctx) (seen : List (Nat × BitVec 64)) : State :=
  let new := seen.filter fun e => !(s.xlt.walkCache.any fun x => x.1 == e.1 && x.2.2 == ctx)
  s.modXlt fun x => { x with walkCache := (new.map (fun e => (e.1, e.2, ctx)) ++ x.walkCache).take 512 }

/-- Fill the engine TLB (R302). -/
def fillEngTlb (s : State) (ctx : Ctx) (va : Nat) (l : Leaf) : State :=
  let (n, s) := s.draw
  s.modXlt fun x => { x with engTlb := setFill x.engTlb 0 256 ⟨ctx, vpnOf va, l⟩ va n }

/-- The cluster of a waiter that is a core. -/
def waiterCore : Waiter → Option CoreId
  | .core c => some c
  | .lmv c _ => some c
  | _ => none

/-- Fill the TLBs on a waiter's path (R302). -/
def fillTlbs (s : State) (wt : Waiter) (ctx : Ctx) (va : Nat) (l : Leaf) : State :=
  match waiterCore wt with
  | some c => fillClusterTlb (fillTlb2 s (dieOfCluster c.cl) ctx va l) c.cl ctx va l
  | none => fillEngTlb s ctx va l

/-- A waiter's translation is resolved: a core gated on it wakes (R57); the others ask again in their own steps (R315). -/
def releaseWaiter (s : State) (wt : Waiter) : State :=
  match wt with
  | .core c => if (s.core c).st = .gated .xlt then wakeCore s c else s
  | _ => s

/-- Translate for an engine of the IOD: the engine TLB, else the translation block (R302, R307, R314). -/
def engTranslate (s : State) (wt : Waiter) (ctx : Ctx) (va : Word) (a : Access) : Xl :=
  let ask := fun s : State => Xl.miss (askXlt s ⟨wt, ctx, va, a, false⟩)
  if !xltAble s va then ask s
  else match setFind s.xlt.engTlb 0 256 ctx va.toNat with
    | some (k, e) =>
      if permits e.leaf a then .ok e.leaf s else ask (s.modXlt fun x => { x with engTlb := mset x.engTlb k none })
    | none => ask s

/-! ### Fault records (R312 to R319) -/

/-- Records held in the overflow table (R318). -/
def ovtRecs (s : State) : List FaultRec := s.xlt.recs.filter fun r => r.ovt && !r.inBatch && !r.delivered
/-- Records of the open batch (R317). -/
def batchRecs (s : State) : List FaultRec := s.xlt.recs.filter fun r => r.inBatch && !r.delivered
/-- Delivered records not yet resolved (R316). -/
def unresolved (s : State) : Nat := (s.xlt.recs.filter fun r => r.delivered && !r.resolved).length

/-- The room of the fault queue: slots given to closed batches count as used; 0 while the queue is not enabled (R316, R325). -/
def fqRoom (s : State) : Nat :=
  if !(s.reg Reg.xltFqLo).getLsbD 0 then 0
  else
    let used := (s.reg Reg.xltFqWr + BitVec.ofNat 32 s.xlt.writing - s.reg Reg.xltFqRd).toNat
    4096 - max used (unresolved s)

/-- Bits of ACCESS (R312). -/
def accessBits (a : Access) : BitVec 8 :=
  match a with
  | .read => 1
  | .write => 2
  | .rw => 3
  | .fetch => 4

/-- The open record of a key (R314). -/
def openRec (s : State) (ctx : Ctx) (va : Word) : Option FaultRec :=
  s.xlt.recs.find? fun r => !r.resolved && r.ctx == ctx && r.vpn == vpnOf va.toNat

/-- A request joins an open record: late when it has been delivered, else coalesced (R314, R319). -/
def joinRec (s : State) (q : XltReq) (cause : BitVec 16) : State :=
  let hit := fun r : FaultRec => !r.resolved && r.ctx == q.ctx && r.vpn == vpnOf q.va.toNat
  let add := fun r : FaultRec => { r with waiters := if r.waiters.contains q.wt then r.waiters else r.waiters ++ [q.wt] }
  let join := fun r : FaultRec => if r.delivered then add r else
    add { r with cause := r.cause ||| cause, access := r.access ||| accessBits q.acc, last := s.ts, count := satAdd r.count 1 }
  let late := (s.xlt.recs.find? hit).any (·.delivered)
  let s := s.modXlt fun x => { x with recs := modFirst hit join x.recs }
  if late then s.bump Reg.xltFqLate 1 else s

/-- A faulting request with a new key opens a record: in the open batch, in a new batch, in the overflow table, or it stalls
(R317, R318). -/
def openFault (s : State) (q : XltReq) (cause : BitVec 16) (level : Nat) (entry : BitVec 64) : State :=
  let r : FaultRec :=
    { ctx := q.ctx, vpn := vpnOf q.va.toNat, cause := cause, early := false, ovt := false, va := q.va,
      access := accessBits q.acc, level := BitVec.ofNat 8 level, entry := entry, first := s.ts, last := s.ts, count := 1,
      waiters := [q.wt], delivered := false, inBatch := true, resolved := false }
  let n := (batchRecs s).length
  let fits := (ovtRecs s).isEmpty && decide (n < 64) && decide (n < fqRoom s) && ((s.xlt.batch.map (!·.2)).getD true)
  if fits then
    s.modXlt fun x => { x with recs := x.recs ++ [r], batch := some (x.batch.getD (s.ts, false)) }
  else if (ovtRecs s).length < 256 then
    (s.modXlt fun x => { x with recs := x.recs ++ [{ r with ovt := true, inBatch := false }] }).setFlag Reg.xltFqStat 1
  else
    ((s.modXlt fun x => { x with stalled := x.stalled ++ [q] }).bump Reg.xltFqStall 1).setFlag Reg.xltFqStat 2

/-- A fault of a request: dropped for a prefetch (R300), else joined or opened. -/
def faultReq (s : State) (q : XltReq) (cause : BitVec 16) (level : Nat) (entry : BitVec 64) : State :=
  if q.pf then s
  else match openRec s q.ctx q.va with
    | some _ => joinRec s q cause
    | none => openFault s q cause level entry

/-- A page whose new translations a migration holds (R324). -/
def pageHeld (s : State) (ctx : Ctx) (va : Word) : Bool := s.xlt.held.contains (ctx, vpnOf va.toNat)

/-- A request reaches the translation block: it joins an open record of its key, or is walked (R314, R321). -/
def takeReq (s : State) (q : XltReq) : State :=
  match openRec s q.ctx q.va with
  | some _ => if q.pf then s else joinRec s q 0
  | none => s.modXlt fun x => { x with walks := x.walks ++ [q] }

/-- XLT_REQUEST: the oldest request of a waiter, stalled ones first, reaches the translation block; a held page keeps it
waiting (R314, R318, R324). -/
def execXltRequest (wt : Waiter) (s : State) : Out :=
  .next (if frozen s then s else
    let mine := fun q : XltReq => q.wt == wt
    match takeFirst mine s.xlt.stalled with
    | some (q, r) =>
      if (ovtRecs s).length < 256 ∨ (openRec s q.ctx q.va).isSome then takeReq (s.modXlt fun x => { x with stalled := r }) q else s
    | none =>
      match takeFirst mine s.xlt.reqs with
      | some (q, r) => if pageHeld s q.ctx q.va then s else takeReq (s.modXlt fun x => { x with reqs := r }) q
      | none => s)

/-- A walk ends (R300): the TLBs of its path fill and its waiter goes on, or a fault record opens. -/
def endWalk (s : State) (q : XltReq) : State :=
  let done := fun s : State => s.modXlt fun x => { x with walks := x.walks.erase q }
  match walk s q.ctx q.va q.acc with
  | .busy a => s.ask a
  | .ok l seen s => releaseWaiter (fillTlbs (fillWalkCache (done s) q.ctx seen) q.wt q.ctx q.va.toNat l) q.wt
  | .fault c lv e s => faultReq (done s) q c lv e

/-- WALK_DONE: the oldest of the 32 running walks for a page of a context ends (R300, R303); one whose page a migration holds
waits (R324). -/
def execWalkDone (ctx : BitVec 20) (vpn : BitVec 27) (s : State) : Out :=
  .next (if frozen s then s else
    match (s.xlt.walks.take 32).find? fun q => q.ctx == ctx && vpnOf q.va.toNat == vpn.toNat with
    | some q => if pageHeld s q.ctx q.va then s else endWalk s q
    | none => s)

/-! ### Batches (R316 to R318) -/

/-- A waiter identity (R313). -/
def waiterId : Waiter → Nat
  | .core c => c.cl.toNat * 256 + c.pos.toNat
  | .lmv c _ => c.cl.toNat * 256 + c.pos.toNat
  | .dmaQ q => 0x4000 + q.toNat
  | .ring r => 0x8000 + r.toNat
  | .prism t => 0xC000 + t.toNat

/-- The waiter identities of a record in order of joining, each once (R312, R313). -/
def waiterIds (r : FaultRec) : List Nat := (r.waiters.map waiterId).eraseDups

/-- Identities of 32 waiters from the i-th, 2 bytes each, unused slots 0xFFFF. -/
def idLine (ids : List Nat) (i : Nat) : Line :=
  BitVec.ofNat 512 ((List.range 32).foldl (fun n k => n + ((ids[i + k]?).getD 0xFFFF) * 2 ^ (16 * k)) 0)

/-- The four lines of a fault record (R312). -/
def faultLines (r : FaultRec) (seq : Nat) : List Line :=
  let ids := waiterIds r
  let marks := r.ctx.toNat + (if r.ovt then 2 ^ 29 else 0) + (if r.early then 2 ^ 30 else 0) +
    (if 64 < ids.length then 2 ^ 31 else 0)
  [BitVec.ofNat 512 (recField 0 2 0x9 + recField 2 2 r.cause.toNat + recField 4 4 marks + recField 8 8 (r.vpn * 2 ^ 25) +
      recField 0x10 8 r.va.toNat + recField 0x18 1 r.access.toNat + recField 0x19 1 r.level.toNat + recField 0x1A 2 seq +
      recField 0x1C 1 (min 64 ids.length) + recField 0x20 8 r.first.toNat + recField 0x28 8 r.last.toNat +
      recField 0x30 8 r.count.toNat + recField 0x38 8 r.entry.toNat),
   idLine ids 0, idLine ids 32, 0]

/-- Write the records of a batch into the queue from a record count; an error while a line of the queue is in use (R317). -/
def writeRecs (s : State) (n : Nat) : List FaultRec → Except Ask State
  | [] => .ok s
  | r :: t =>
    match agentWriteLines s .walker 0 0 (baseOf s Reg.xltFqLo 20 / 64 + 4 * (n % 4096)) false false (faultLines r n) with
    | .ok (_, s) => writeRecs s (n + 1) t
    | .error q => .error q

/-- The records of the open batch in order of their first stamps (R317). -/
def batchOrder (s : State) : List FaultRec := sortBy (fun a b => decide (a.first.toNat ≤ b.first.toNat)) (batchRecs s)

/-- FQ_BATCH_CLOSE: the open batch is full, has reached the room, is 4 µs old, or holds overflow records; its records are
written (R317, R318). -/
def execFqBatchClose (s : State) : Out :=
  .next (match s.xlt.batch with
    | none => s
    | some (t, ovf) =>
      let rs := batchOrder s
      if frozen s || !((ovf && s.ts != t) || decide (64 ≤ rs.length) || decide (fqRoom s ≤ rs.length) || since s t (4 * Config.usTicks)) then s
      else
        let first := (s.reg Reg.xltFqWr).toNat + s.xlt.writing
        match writeRecs s first rs with
        | .error q => s.ask q
        | .ok s => s.modXlt fun x => { x with
            batch := none
            writing := x.writing + rs.length
            recs := (x.recs.filter fun r => !(r.inBatch && r.resolved)).map fun r =>
              if r.inBatch then { r with delivered := true, inBatch := false } else r })

/-- FQ_BATCH_WRITTEN: every write of the closed batches has its CMP; XLT_FQ_WR advances and BATCH is set (R317). -/
def execFqBatchWritten (s : State) : Out :=
  .next (if s.xlt.writing = 0 ∨ frozen s then s else
    ((s.setReg Reg.xltFqWr (s.reg Reg.xltFqWr + BitVec.ofNat 32 s.xlt.writing)).modXlt fun x => { x with writing := 0 }).setFlag
      Reg.xltFqStat 0)

/-- OVF_BATCH_FORM: with room in the queue and no open batch, the oldest overflow records form a batch (R318). -/
def execOvfBatchForm (s : State) : Out :=
  .next (
    let o := sortBy (fun a b => decide (a.first.toNat ≤ b.first.toNat)) (ovtRecs s)
    let pick := o.take (min 64 (fqRoom s))
    if pick.isEmpty || s.xlt.batch.isSome || frozen s then s
    else s.modXlt fun x => { x with
      batch := some (s.ts, true)
      recs := x.recs.map fun r => if pick.contains r then { r with inBatch := true } else r })

/-! ### Registers with an effect of their own -/

/-- The host driver has consumed records up to a count (R316, R325). -/
def fqRdWrite (s : State) (v : BitVec 32) : State :=
  if (v - s.reg Reg.xltFqRd).toNat ≤ (s.reg Reg.xltFqWr - s.reg Reg.xltFqRd).toNat then s.setReg Reg.xltFqRd v else s

/-- XLT_FQ_RD_WRITE (R316). -/
def execXltFqRdWrite (ag : RegAgent) (v : BitVec 32) (s : State) : Out :=
  .next (withReg s ag Reg.xltFqRd fun s => fqRdWrite s v)

/-- XLT_OWN_TAG takes the tag of the page in XLT_OWN_PAGE, unless the page's address is reserved (R306, R325). -/
def ownTagWrite (s : State) (v : BitVec 32) : State :=
  let page := s.fld Reg.xltOwnPage 0 18
  if (locate s.mem (page * 2 ^ 25)).isNone then s
  else s.modMem fun m => { m with
      owner := mset (mset m.owner (tabKey false page) (v.extractLsb' 0 20)) (tabKey true page) (v.extractLsb' 0 20) }

/-- XLT_OWN_TAG_WRITE (R306). -/
def execXltOwnTagWrite (ag : RegAgent) (v : BitVec 32) (s : State) : Out :=
  .next (withReg s ag Reg.xltOwnTag fun s => ownTagWrite s v)

end Sys2Proof.Machine
end

