-- ==== Sys2Proof/Machine/Dispatcher.lean ====
section
/-! DEFINITION. The dispatcher (chapter 10): rings (R326 to R329), taking and starting commands (R330 to R335), launches and
DMA (R337), fences (R336), steps (R343 to R346), records (R341) and energy (R348, R349). -/

namespace Sys2Proof.Machine

/-! ### Ring tables (R326 to R329) -/

/-- The slots of a ring. -/
def slotsOf (log2 : Nat) : Nat := 2 ^ (log2 - 6)
/-- Address of a work ring's entry. -/
def ringEntry (s : State) (r : BitVec 10) : Nat := baseOf s Reg.dspRtabLo 16 + 64 * r.toNat
/-- Address of an event ring's entry. -/
def evEntry (s : State) (m : BitVec 8) : Nat := baseOf s Reg.dspEtabLo 13 + 32 * m.toNat
/-- The doorbell of a ring. -/
def dbOf (s : State) (r : BitVec 10) : BitVec 32 := s.reg (Reg.dspDb + 4 * r.toNat)
/-- An enable or a table base failed (R328, R350). -/
def ringErr (s : State) : State := s.setFlag Reg.dspStat 0

/-- A doorbell value: ignored, with DBERR, when it claims more commands than the ring has slots (R327). -/
def doorbell (s : State) (r : BitVec 10) (v : BitVec 32) : State :=
  let x := s.ring r
  if x.on ∧ slotsOf x.log2 < (v - x.rd).toNat then s.setFlag Reg.dspStat 1 else s.setReg (Reg.dspDb + 4 * r.toNat) v

/-- DOORBELL (R327). -/
def execDoorbell (ag : RegAgent) (ring : BitVec 10) (v : BitVec 32) (s : State) : Out :=
  .next (withReg s ag Reg.dspDb fun s => doorbell s ring v)

/-- A byte range lies wholly in the near or the far tier (R326, R329). -/
def inTiers (m : MemSt) (a n : Nat) : Bool :=
  match locate m a, locate m (a + n - 1) with
  | some (.near, _), some (.near, _) => true
  | some (.far, _), some (.far, _) => true
  | _, _ => false

/-- An event ring's entry passes the checks of R329. -/
def evEntryOk (m : MemSt) (v : Nat) : Bool :=
  let log2 := bitsN v 0 6
  decide (12 ≤ log2 ∧ log2 ≤ 24) && bitsN v 6 6 == 0 && bitsN v 44 20 == 0 && v / 2 ^ 96 == 0 &&
    inTiers m (bitsN v 12 32 * 4096) (2 ^ log2)

/-- Bind an event ring: a copy of its entry, and both positions from its WR; false when its entry fails (R329). -/
def bindEv (s : State) (m : BitVec 8) : AgRes (Bool × State) :=
  if (s.ev m).bound then .ok (true, s)
  else match agentWord s .dsp 0 (evEntry s m) 32 with
    | .busy q => .busy q
    | .refused => .ok (false, s)
    | .ok (v, p, s) =>
      if p ∨ !evEntryOk s.mem v then .ok (false, s)
      else
        let wr := BitVec.ofNat 32 (bitsN v 64 32)
        let s := s.modEv m fun e => { e with bound := true, base := bitsN v 12 32 * 4096, log2 := bitsN v 0 6, wr := wr }
        .ok (true, (s.setReg (Reg.dspEvWr + 4 * m.toNat) wr).setReg (Reg.dspEvRd + 4 * m.toNat) wr)

/-- A work ring's entry has its reserved fields 0, a size and a context in range (R326, R328). -/
def ringEntryOk (v : Nat) : Bool :=
  let log2 := bitsN v 0 6
  let ctx := bitsN v 64 20
  decide (12 ≤ log2 ∧ log2 ≤ 24) && bitsN v 6 6 == 0 && bitsN v 44 20 == 0 && bitsN v 84 12 == 0 && bitsN v 98 14 == 0 &&
    bitsN v 120 8 == 0 && v / 2 ^ 160 == 0 && ctx != 0 && ctx != 0xFFFFF

/-- Energy slots in use (R349). -/
def slotsUsed (s : State) : Nat := (s.dsp.ctxs.filter (·.2.isSome)).length

/-- The context-closed record of a context whose last ring has turned off, and its slot freed (R349). -/
def closeCtx (s : State) (ctx : Ctx) : State :=
  match s.ctxSlot ctx with
  | none => s
  | some c =>
    if !c.rings.isEmpty then s
    else
      let x := s.ring c.last
      let s := pushRecord s x.ev (recordLine 3 0 0 ctx.toNat c.last.toNat 0 x.rd.toNat 0 s.ts.toNat s.ts.toNat 0 c.energy.toNat 0)
      tidyEv (s.modDsp fun d => { d with ctxs := mset d.ctxs ctx.toNat none }) x.ev

/-- CONTEXT_CLOSED (R349). -/
def execContextClosed (ctx : BitVec 20) (s : State) : Out := .next (if frozen s then s else closeCtx s ctx)

/-- ENABLE of a work ring: its entry is read and checked, its event ring bound, its context given an energy slot (R328, R329,
R349); an enabled ring is left as it is. -/
def ringEnable (s : State) (r : BitVec 10) : State :=
  if (s.ring r).on then s
  else match agentWord s .dsp 0 (ringEntry s r) 64 with
    | .busy q => s.ask q
    | .refused => ringErr s
    | .ok (v, p, s0) =>
      let ctx := BitVec.ofNat 20 (bitsN v 64 20)
      let ev := BitVec.ofNat 8 (bitsN v 112 8)
      let s1 := if ((s0.ctxSlot ctx).map (·.rings.isEmpty)).getD false then closeCtx s0 ctx else s0
      let has := (s1.ctxSlot ctx).isSome
      if p || !ringEntryOk v || (!has && decide (256 ≤ slotsUsed s1)) then ringErr s0
      else match bindEv s1 ev with
        | .busy q => s.ask q
        | .refused => ringErr s0
        | .ok (false, s2) => ringErr s2
        | .ok (true, s2) =>
          let rd := BitVec.ofNat 32 (bitsN v 128 32)
          let x : RingSt := { (default : RingSt) with
            on := true, base := bitsN v 12 32 * 4096, log2 := bitsN v 0 6, ctx := ctx, prio := bitsN v 96 2, ev := ev, rd := rd }
          let s2 := if has then s2.modCtx ctx fun c => { c with rings := c.rings ++ [r], last := r }
            else s2.modDsp fun d => { d with ctxs := mset d.ctxs ctx.toNat (some ⟨0, false, [r], r, none, []⟩) }
          ringOnBit ((s2.modRing r fun _ => x).setReg (Reg.dspDb + 4 * r.toNat) rd) r true

/-- RING_ENABLE (R328). -/
def execRingEnable (ag : RegAgent) (ring : BitVec 10) (s : State) : Out :=
  .next (withReg s ag Reg.dspRingCtl fun s => if dspStopped s then s else ringEnable s ring)

/-- DISABLE: no further command is taken; the ring turns off when its commands have completed (R328, R346). -/
def ringDisable (s : State) (r : BitVec 10) : State :=
  if (s.ring r).on then settleRing (s.modRing r fun x => { x with closing := true }) r else s

/-- RING_DISABLE (R328). -/
def execRingDisable (ag : RegAgent) (ring : BitVec 10) (s : State) : Out :=
  .next (withReg s ag Reg.dspRingCtl fun s => if frozen s then s else ringDisable s ring)

/-! ### A command's words (R333 to R335) -/

/-- The command in a slot (R333). -/
def cmdOf (ring : BitVec 10) (ctx : Ctx) (idx : BitVec 32) (step : Option (BitVec 16)) (d : Line) : Cmd :=
  { ring := ring, ctx := ctx, idx := idx, opc := lineByte d 0, wait := d.getLsbD 8, tok := d.getLsbD 9, norec := d.getLsbD 10,
    token := d.extractLsb' 32 32, tag := d.extractLsb' 64 64, body := d.extractLsb' 128 256, waitAddr := d.extractLsb' 384 64,
    waitVal := d.extractLsb' 448 64, step := step }

/-- The header's reserved bits, and the fields a clear flag leaves unused, are 0; WAITADDR is aligned (R332, R333). -/
def headerOk (c : Cmd) (d : Line) : Bool :=
  d.extractLsb' 11 5 == 0 && d.extractLsb' 16 16 == 0 && c.token.extractLsb' 20 12 == 0 && c.token.extractLsb' 14 2 == 0 &&
    (c.tok || c.token == 0) && (if c.wait then c.waitAddr.extractLsb' 0 3 == 0 else c.waitAddr == 0 && c.waitVal == 0)

/-- The named fields of a body: offset from the command's start and width in bits (R334, R381). -/
def bodyFields (opc : BitVec 8) : List (Nat × Nat) :=
  match opc.toNat with
  | 1 => [(0x10, 64), (0x18, 64), (0x20, 64), (0x28, 16), (0x2A, 1)]
  | 2 => [(0x10, 64), (0x18, 64), (0x20, 64), (0x28, 1), (0x2C, 5)]
  | 3 => [(0x10, 64), (0x18, 64), (0x20, 32), (0x24, 6), (0x25, 8), (0x26, 8), (0x27, 8), (0x28, 64)]
  | 4 => [(0x10, 1)]
  | 5 => [(0x10, 64), (0x18, 9), (0x1A, 1)]
  | 6 => [(0x10, 64), (0x18, 64), (0x20, 2)]
  | 7 => [(0x10, 64), (0x18, 8), (0x1C, 8), (0x20, 64)]
  | 9 => [(0x10, 16), (0x18, 64), (0x20, 64)]
  | 10 => [(0x10, 16), (0x12, 1), (0x18, 64)]
  | _ => []

/-- Every bit of the body outside its named fields is 0 (R334). -/
def bodyOk (c : Cmd) : Bool :=
  let m := (bodyFields c.opc).foldl (fun m f => m ||| BitVec.ofNat 256 ((2 ^ f.2 - 1) * 2 ^ (8 * (f.1 - 0x10)))) 0#256
  c.body &&& ~~~m == 0

/-- The tree a COLLECTIVE names (R381). -/
def collTree (c : Cmd) : Nat := bodyNat c 0x24 1
/-- SRC is used: the root for BCAST, every member for REDUCE and ALLREDUCE (R381). -/
def usesSrc (op : Nat) (root : Bool) : Bool := op = 1 || op = 2 || (op = 0 && root)
/-- DST is used: every member for BCAST and ALLREDUCE, the root for REDUCE (R381). -/
def usesDst (op : Nat) (root : Bool) : Bool := op = 2 || (op = 0 && !root) || (op = 1 && root)

/-- A COLLECTIVE's fields fit R381 and its tree is loaded in its context. -/
def collOk (s : State) (c : Cmd) : Bool :=
  match mgetD none s.prz.trees (collTree c) with
  | none => false
  | some t =>
    let op := bodyNat c 0x25 1
    let len := bodyNat c 0x20 4
    let src := bodyNat c 0x10 8
    let dst := bodyNat c 0x18 8
    let red := op = 1 || op = 2
    t.ctx == c.ctx && decide (op ≤ 3) && src % 64 == 0 && dst % 64 == 0 && bodyNat c 0x28 8 % 64 == 0 &&
      (if op = 3 then len == 0 else decide (1 ≤ len ∧ len ≤ 2 ^ 26)) &&
      (if red then decide (bodyNat c 0x26 1 ≤ 4 ∧ bodyNat c 0x27 1 ≤ 2) else bodyNat c 0x26 1 == 0 && bodyNat c 0x27 1 == 0) &&
      (usesSrc op t.root || src == 0) && (usesDst op t.root || dst == 0 || (op = 0 && t.root))

/-- A body's fields are in range and aligned (R334, R335). -/
def rangesOk (s : State) (c : Cmd) : Bool :=
  let f := bodyNat c
  match c.opc.toNat with
  | 0 => true
  | 1 => f 0x10 8 != 0 && f 0x18 8 % 4 == 0 && decide (f 0x28 2 ≤ 160)
  | 2 => f 0x10 8 % 64 == 0 && f 0x18 8 % 64 == 0 && f 0x20 8 % 64 == 0 && decide (64 ≤ f 0x20 8 ∧ f 0x20 8 ≤ 2 ^ 36)
  | 3 => collOk s c
  | 4 => true
  | 5 =>
    let n := f 0x18 2
    f 0x10 8 % 2 ^ 25 == 0 && decide (1 ≤ n ∧ n ≤ 256) && (List.range n).all fun i => inTiers s.mem (f 0x10 8 + i * 2 ^ 25) (2 ^ 25)
  | 6 => true
  | 7 => f 0x10 8 % 2 ^ 25 == 0 && decide (1 ≤ f 0x18 1 ∧ f 0x18 1 ≤ 128) && f 0x1C 1 == 1 && f 0x20 8 % 8 == 0
  | 8 => true
  | 9 => true
  | 10 => true
  | _ => false

/-- The byte ranges a command names, with the access each needs (R307). -/
def cmdRanges (s : State) (c : Cmd) : List (Nat × Nat × Access) :=
  let f := bodyNat c
  match c.opc.toNat with
  | 1 => [(f 0x18 8, 4, .fetch)]
  | 2 => [(f 0x10 8, f 0x20 8, .read), (f 0x18 8, f 0x20 8, .write)]
  | 3 =>
    let op := f 0x25 1
    let root := ((mgetD none s.prz.trees (collTree c)).map (·.root)).getD false
    let len := f 0x20 4 * 64
    (if usesSrc op root then [(f 0x10 8, len, Access.read)] else []) ++
      (if usesDst op root then [(f 0x18 8, len, Access.write)] else []) ++ [(f 0x28 8, 8192, Access.write)]
  | 6 => [(f 0x10 8, f 0x18 8, .read)]
  | 7 => [(f 0x10 8, f 0x18 1 * 2 ^ 25, .read)]
  | _ => []

/-- A command names more than 256 distinct pages (R307, R335). -/
def tooManyPages (s : State) (c : Cmd) : Bool :=
  let rs := cmdRanges s c
  rs.any (fun r => decide (256 < rangeCount r.1 r.2.1)) ||
    decide (256 < (rs.flatMap fun r => rangePages r.1 r.2.1).eraseDups.length)

/-- The pages a command must have translated before it starts, its gate's page first; PREFETCH skips pages that fault, so its
pages are not among them (R300, R307, R324, R330). -/
def cmdPages (s : State) (c : Cmd) : List (Nat × Access) :=
  let gate := if c.wait then [(c.waitAddr.toNat / 2 ^ 25 * 2 ^ 25, Access.read)] else []
  if c.opc = 6 then gate
  else gate ++ (cmdRanges s c).flatMap fun r => (rangePages r.1 r.2.1).map fun p => (p, r.2.2)

/-- Why a command is rejected when it is taken (R335); none when it is not. -/
def rejects (s : State) (c : Cmd) (d : Line) : Option (BitVec 8) :=
  if !headerOk c d || !bodyOk c || !rangesOk s c then some stBadcmd
  else if tooManyPages s c then some stPages
  else if c.opc = 1 then
    let grid := clustersOf (BitVec.ofNat 64 (bodyNat c 0x10 8))
    if grid.any fun g => enabledCount s g < bodyNat c 0x28 2 then some stCorecount
    else if grid.any fun g => (s.cluster g).isolated then some stIsolated else none
  else none

/-! ### Taking (R330, R331) -/

/-- A ring can give a command: enabled, not held, with an untaken command, its event ring not behind (R331, R341). -/
def ringReady (s : State) (n : Nat) (x : RingSt) : Bool :=
  x.on && !x.closing && x.held.isNone && x.rd != dbOf s (BitVec.ofNat 10 n) && decide ((s.ev x.ev).recs.length < 64)

/-- The ring to take from: the highest PRIO, round robin within it (R331). -/
def pickRing (s : State) : Option (BitVec 10) :=
  let ready := s.dsp.rings.filter fun e => ringReady s e.1 e.2
  let prio := ready.foldl (fun p e => max p e.2.prio) 0
  let same := ready.filter fun e => e.2.prio == prio
  let last := mget s.dsp.rr prio
  match same.find? fun e => decide (last < e.1) with
  | some e => some (BitVec.ofNat 10 e.1)
  | none => same.head?.map fun e => BitVec.ofNat 10 e.1

/-- Read the 64-bit word of a gate, or ask for it across a posted path (R332). -/
def gateRead (s : State) (r : BitVec 10) (h : HeldCmd) (l : Leaf) : Option (BitVec 64 × Bool) × State :=
  let pa := physOf l h.cmd.waitAddr.toNat
  let asked := fun s : State => (none, s.modRing r fun x => { x with held := some { h with gateWait := true, gateTs := s.ts } })
  match destOf l with
  | .device =>
    match agentReadAny s .dsp 0 h.cmd.ctx (pa / 64) false with
    | .ok (d, p, s) => (some (lineWord d (pa % 64) 8, p), s)
    | .busy q => (none, s.ask q)
    | .refused => (some (0, true), s)
  | .fabric rank =>
    match fabRead s rank 0x1FFF h.cmd.ctx (pa / 64 * 64) 1 (.gate r) with
    | .sent s => asked s
    | .wait s => (none, s)
    | .dead s => (some (0, true), s)
  | .bus =>
    match svpRead s h.cmd.ctx (pa / 64 * 64) (.gate r) with
    | .sent s => asked s
    | .wait s => (none, s)
    | .dropped s => (some (0, true), s)

/-- A gate's word has been read: poison ends the command, a value at or above WAITVAL meets the gate (R332). -/
def gateValue (s : State) (r : BitVec 10) (v : BitVec 64) (poison : Bool) : State :=
  match (s.ring r).held with
  | none => s
  | some h =>
    if poison then failHeld s r stPoison
    else s.modRing r fun x => { x with held := some { h with
      gateWait := false, gateTs := s.ts, gateMet := h.gateMet || decide (h.cmd.waitVal.toNat ≤ v.toNat) } }

/-- Translate the pages of a held command that are not yet translated (R307). -/
def translateHeld (s : State) (r : BitVec 10) : State :=
  match (s.ring r).held with
  | none => s
  | some h =>
    let one := fun (s : State) (q : Nat × Access) =>
      if (((s.ring r).held).map fun h => h.pages.any (·.1 == q)).getD true then s
      else match engTranslate s (.ring r) h.cmd.ctx (BitVec.ofNat 64 q.1) q.2 with
        | .ok l s => s.modRing r fun x => { x with held := x.held.map fun h => { h with pages := h.pages ++ [(q, l)] } }
        | .miss s => s
    (cmdPages s h.cmd).foldl one s

/-- The leaf of a page among those translated. -/
def leafFor (pages : List ((Nat × Access) × Leaf)) (va : Nat) (a : Access) : Option Leaf :=
  (pages.find? fun p => p.1 == (va / 2 ^ 25 * 2 ^ 25, a)).map (·.2)

/-- Read the gate of a held command that is not met, once its page is translated (R332). -/
def gatePoll (s : State) (r : BitVec 10) : State :=
  let s := translateHeld s r
  match (s.ring r).held with
  | none => s
  | some h =>
    if !h.cmd.wait || h.gateMet || h.gateWait then s
    else match leafFor h.pages h.cmd.waitAddr.toNat .read with
      | none => s
      | some l =>
        match gateRead s r h l with
        | (some (v, p), s) => gateValue s r v p
        | (none, s) => s

/-- COMMAND_TAKE: the next command of the ring that is due is read, RD advances, and the command holds its ring or is
rejected; the gate is read once (R330 to R335). -/
def execCommandTake (s : State) : Out :=
  .next (if dspStopped s then s else
    match pickRing s with
    | none => s
    | some r =>
      let x := s.ring r
      match agentRead s .dsp 0 0 ((x.base + 64 * (x.rd.toNat % slotsOf x.log2)) / 64) false with
      | .busy q => s.ask q
      | .refused => s
      | .ok (d, p, s1) =>
        match agentPut s1 .dsp 0 (ringEntry s1 r + 0x10) 4 (x.rd + 1).toNat with
        | .busy q => s.ask q
        | .refused => s
        | .ok s2 =>
          let c := cmdOf r x.ctx x.rd (if lineByte d 0 = 9 then none else x.step) d
          let s2 := s2.modDsp fun d => { d with rr := mset d.rr x.prio r.toNat }
          let h : HeldCmd := ⟨c, !c.wait, 0, false, 0, [], false⟩
          let s2 := s2.modRing r fun x => { x with rd := x.rd + 1, held := some h }
          if p then failHeld s2 r stPoison
          else match rejects s2 c d with
            | some st => rejectCmd s2 c st {}
            | none => gatePoll s2 r)

/-- WAIT_GATE_POLL: a command's gate that is not met is read again, 1 µs after its last read (R332). -/
def execWaitGatePoll (ring : BitVec 10) (s : State) : Out :=
  .next (if dspStopped s then s else
    match (s.ring ring).held with
    | none => s
    | some h => if h.gateTs = 0 ∨ since s h.gateTs Config.usTicks then gatePoll s ring else s)

/-! ### Starting (R330, R308) -/

/-- The pieces of a byte range by page: where each lies and its bytes. -/
def rangePieces (pages : List ((Nat × Access) × Leaf)) (a len : Nat) (acc : Access) : List (Dest × Nat × Nat) :=
  (rangePages a len).filterMap fun p =>
    (leafFor pages p acc).map fun l =>
      let lo := max a p
      let hi := min (a + len) (p + 2 ^ 25)
      (destOf l, physOf l lo, hi - lo)

/-- The translated source and destination of a DMA overlap (R335). -/
def dmaOverlaps (h : HeldCmd) : Bool :=
  let len := bodyNat h.cmd 0x20 8
  let src := rangePieces h.pages (bodyNat h.cmd 0x10 8) len .read
  let dst := rangePieces h.pages (bodyNat h.cmd 0x18 8) len .write
  src.any fun x => dst.any fun y => x.1 == y.1 && decide (x.2.1 < y.2.1 + y.2.2 ∧ y.2.1 < x.2.1 + x.2.2)

/-- The start conditions of a held command's own kind (R330): free clusters, a DMA queue with room, earlier commands completed
for a FENCE, a tree with no collective. STEP_BEGIN starts under the tray rule instead (R344). -/
def kindReady (s : State) (h : HeldCmd) : Bool :=
  match h.cmd.opc.toNat with
  | 1 => (s.dsp.launches.all fun m => (m.mask &&& BitVec.ofNat 64 (bodyNat h.cmd 0x10 8)) == 0) &&
      (clustersOf (BitVec.ofNat 64 (bodyNat h.cmd 0x10 8))).all fun c => (s.cluster c).run.isNone
  | 2 => decide ((mget s.dsp.dma (bodyNat h.cmd 0x2C 1)).length < 64)
  | 3 => (mgetD none s.dsp.colls (collTree h.cmd)).isNone
  | 4 => (s.ring h.cmd.ring).active.isEmpty
  | 9 => false
  | _ => true

/-- The descriptor's GEN is the context's now, or it has no pages (R308); a changed GEN has its pages translated again. -/
def genCheck (s : State) (r : BitVec 10) (h : HeldCmd) : Except Ask (Bool × State) :=
  if (cmdPages s h.cmd).isEmpty then .ok (true, s)
  else match readGen s h.cmd.ctx with
    | .error q => .error q
    | .ok (g, s) =>
      if h.gen = g ∧ (cmdPages s h.cmd).all (fun q => h.pages.any (·.1 == q)) then .ok (true, s)
      else if h.gen = g then .ok (false, s)
      else .ok (false, s.modRing r fun x => { x with held := some { h with gen := g, pages := [] } })

/-- COMMAND_START: a taken command starts once every start condition holds (R330); it then takes effect in the step of its
own kind. -/
def execCommandStart (ring : BitVec 10) (s : State) : Out :=
  .next (if dspStopped s then s else
    let s := translateHeld s ring
    match (s.ring ring).held with
    | none => s
    | some h =>
      if h.started || !h.gateMet || !kindReady s h then s
      else match genCheck s ring h with
        | .error q => s.ask q
        | .ok (false, s) => s
        | .ok (true, s) =>
          if h.cmd.opc = 2 ∧ dmaOverlaps h then rejectCmd s h.cmd stBadcmd {}
          else s.modRing ring fun x => { x with held := some { h with started := true } })

/-! ### Commands that complete when taken -/

/-- NOP_COMMAND: complete, with no record (R334). -/
def execNopCommand (ring : BitVec 10) (s : State) : Out :=
  .next (if dspStopped s then s else
    match startedCmd s ring 0 with
    | none => s
    | some h => settleRing (sendToken (s.modRing ring fun r => { r with held := none }) h.cmd) ring)

/-- ENERGY_MARK: the record carries the accumulator (R348). -/
def execEnergyMark (ring : BitVec 10) (s : State) : Out :=
  .next (if dspStopped s then s else
    match startedCmd s ring 8 with
    | none => s
    | some h => completeCmd (s.modRing ring fun r => { r with held := none }) h.cmd stOK none { lo := (energyOf s h.cmd.ctx).toNat })

/-- LAUNCH: the kernel's launch begins its way through prepare and start (R41 to R43, R334). -/
def execLaunch (ring : BitVec 10) (s : State) : Out :=
  .next (if dspStopped s then s else
    match startedCmd s ring 1 with
    | none => s
    | some h =>
      let c := h.cmd
      let l : Launch :=
        { id := s.dsp.nextId + 1, cmd := c, mask := BitVec.ofNat 64 (bodyNat c 0x10 8), sel := bodyNat c 0x28 2,
          entry := BitVec.ofNat 64 (bodyNat c 0x18 8), arg := BitVec.ofNat 64 (bodyNat c 0x20 8),
          nowait := decide (bodyNat c 0x2A 1 = 1), lseq := 0, phase := .queued, status := stOK, cores := 0, recs := [],
          excWait := [], path := 0, wrote := false }
      releaseRing (s.modDsp fun d => { d with launches := d.launches ++ [l], nextId := d.nextId + 1 }) c)

/-! ### DMA (R337) -/

/-- DMA: the copy joins its queue (R337). -/
def execDma (ring : BitVec 10) (s : State) : Out :=
  .next (if dspStopped s then s else
    match startedCmd s ring 2 with
    | none => s
    | some h =>
      let c := h.cmd
      let x : Dma :=
        { id := s.dsp.nextId + 1, cmd := c, src := BitVec.ofNat 64 (bodyNat c 0x10 8), dst := BitVec.ofNat 64 (bodyNat c 0x18 8),
          lines := bodyNat c 0x20 8 / 64, next := 0, waiting := false, buf := none, status := stOK, path := 0,
          stream := decide (bodyNat c 0x28 1 = 1), paused := false, pages := h.pages, gen := h.gen }
      let q := bodyNat c 0x2C 1
      releaseRing (s.modDsp fun d => { d with dma := mset d.dma q (mget d.dma q ++ [x]), nextId := d.nextId + 1 }) c)

/-- The running DMA of a queue. -/
def dmaHead (s : State) (q : BitVec 5) : Option Dma := (mget s.dsp.dma q.toNat).head?
/-- Change the running DMA of a queue. -/
def modDma (s : State) (q : BitVec 5) (f : Dma → Dma) : State :=
  s.modDsp fun d => { d with dma := mset d.dma q.toNat (match mget d.dma q.toNat with
    | x :: t => f x :: t
    | [] => []) }

/-- The running DMA stops at its present line with a status (R337, R320). -/
def dmaStop (s : State) (q : BitVec 5) (st : BitVec 8) : State :=
  modDma s q fun x => { x with status := st, lines := x.next, waiting := false, buf := none }

/-- A DMA ends: its record gives the bytes written (R337, R339). -/
def dmaFinish (s : State) (q : BitVec 5) (x : Dma) : State :=
  let s := s.modDsp fun d => { d with dma := mset d.dma q.toNat (mget d.dma q.toNat).tail }
  completeCmd s x.cmd x.status (if x.next = 0 then none else some (s.ts, x.path)) { lo := 64 * x.next }

/-- The source line of the running DMA: read in the complex, or asked for across a posted path (R337). -/
def dmaRead (s : State) (q : BitVec 5) (x : Dma) : State :=
  let va := x.src.toNat + 64 * x.next
  let keep := fun (s : State) (d : Line) (p : Bool) => modDma s q fun x => { x with buf := some (d, p) }
  let asked := fun s : State => modDma s q fun x => { x with waiting := true }
  match leafFor x.pages va .read with
  | none => s
  | some l =>
    match destOf l with
    | .device =>
      match agentReadAny s .dsp 0 x.cmd.ctx (physOf l va / 64) x.stream with
      | .ok (d, p, s) => keep s d p
      | .busy q => s.ask q
      | .refused => dmaStop s q stRefused
    | .fabric r =>
      match fabRead s r (dmaFlow q) x.cmd.ctx (physOf l va) 1 (.dmaRead q x.id) with
      | .sent s => asked s
      | .wait s => s
      | .dead s => keep s (Config.poisonData (physOf l va / 64)) true
    | .bus =>
      match svpRead s x.cmd.ctx (physOf l va) (.dmaRead q x.id) with
      | .sent s => asked s
      | .wait s => s
      | .dropped s => keep s (Config.poisonData (physOf l va / 64)) true

/-- The line that the running DMA holds is written, with its poison mark (R337). -/
def dmaWrite (s : State) (q : BitVec 5) (x : Dma) (d : Line) (p : Bool) : State :=
  let va := x.dst.toNat + 64 * x.next
  let done := fun (s : State) (path : BitVec 2) (lost : Bool) => modDma s q fun x => { x with
    next := x.next + 1
    buf := none
    path := x.path ||| path
    status := if x.status ≠ stOK then x.status else if lost then stLoss else if p then stPoison else stOK }
  match leafFor x.pages va .write with
  | none => s
  | some l =>
    match destOf l with
    | .device =>
      match agentWrite s .dsp 0 x.cmd.ctx (physOf l va / 64) Mask.full d p x.stream with
      | .ok s => done s 0 false
      | .busy q => s.ask q
      | .refused => dmaStop s q stRefused
    | .fabric r =>
      match fabWrite s r (dmaFlow q) x.cmd.ctx (physOf l va) Mask.full d p (.dma q x.id) with
      | .sent s => done s 1 false
      | .wait s => s
      | .dead s => done (s.setFlag Reg.fabDrainStat 0) 1 true
    | .bus =>
      match svpWrite s x.cmd.ctx (physOf l va) Mask.full d (.dma q x.id) with
      | .sent s => done s 2 false
      | .wait s => s
      | .dropped s => done s 2 true

/-- Copy lines of the running DMA, up to the next 4 KiB boundary of its source; a paused one moves nothing from a boundary on
(R308, R337). -/
def dmaPump (s : State) (q : BitVec 5) : Nat → State
  | 0 => s
  | n + 1 =>
    match dmaHead s q with
    | none => s
    | some x =>
      if x.lines ≤ x.next ∨ x.waiting ∨ (x.paused ∧ (x.next = 0 ∨ (x.src.toNat + 64 * x.next) % 4096 = 0)) then s
      else
        let s := if x.buf.isNone then dmaRead s q x else s
        match (dmaHead s q).bind (·.buf) with
        | none => s
        | some (d, p) =>
          let s := dmaWrite s q x d p
          let next := ((dmaHead s q).map (·.next)).getD x.next
          if next = x.next ∨ (x.src.toNat + 64 * next) % 4096 = 0 then s else dmaPump s q n

/-- A DMA compares its GEN with the context's when it starts (R308): another one, or none readable now, has it wait. -/
def dmaGen (s : State) (q : BitVec 5) : State :=
  match dmaHead s q with
  | none => s
  | some x =>
    if x.next = 0 ∧ !x.paused then
      match readGen s x.cmd.ctx with
      | .ok (g, s) => if x.gen = g then s else modDma s q fun x => { x with paused := true }
      | .error a => s.ask a
    else s

/-- DMA_COMPLETE: the running DMA of a queue copies on to its next 4 KiB boundary, and completes with its last byte (R337). -/
def execDmaComplete (q : BitVec 5) (s : State) : Out :=
  .next (if frozen s then s else
    let s := dmaPump (dmaGen s q) q 64
    match dmaHead s q with
    | none => s
    | some x => if x.lines ≤ x.next then dmaFinish s q x else s)

/-- The pages that a DMA still needs. -/
def dmaPages (x : Dma) : List (Nat × Access) :=
  let left := 64 * (x.lines - x.next)
  (rangePages (x.src.toNat + 64 * x.next) left).map (fun p => (p, Access.read)) ++
    (rangePages (x.dst.toNat + 64 * x.next) left).map (fun p => (p, Access.write))

/-- DESC_RETRANSLATE: a paused DMA translates its remaining pages again, and goes on once it has them (R308). -/
def execDescRetranslate (q : BitVec 5) (s : State) : Out :=
  .next (if frozen s then s else
    match dmaHead s q with
    | none => s
    | some x =>
      if !x.paused ∨ x.waiting then s
      else match readGen s x.cmd.ctx with
        | .error a => s.ask a
        | .ok (g, s) =>
          let s := if x.gen = g then s else modDma s q fun x => { x with gen := g, pages := [] }
          let one := fun (s : State) (p : Nat × Access) =>
            if ((dmaHead s q).map fun x => x.pages.any (·.1 == p)).getD true then s
            else match engTranslate s (.dmaQ q) x.cmd.ctx (BitVec.ofNat 64 p.1) p.2 with
              | .ok l s => modDma s q fun x => { x with pages := x.pages ++ [(p, l)] }
              | .miss s => s
          let s := (dmaPages x).foldl one s
          match dmaHead s q with
          | none => s
          | some y => if (dmaPages y).all fun p => y.pages.any (·.1 == p) then modDma s q fun x => { x with paused := false } else s)

/-! ### Fences (R336) -/

/-- SEQ of both drain status registers, by which a LOSS shows. -/
def lossSeqs (s : State) : BitVec 32 := (s.reg Reg.fabDrainStat).extractLsb' 16 16 ++ (s.reg Reg.svpDrainStat).extractLsb' 16 16

/-- Send every write held for combining (R289). -/
def flushComb (s : State) : State :=
  s.fab.comb.foldl (fun s c => match flushFlow s (fun x => x.pkt.drank == c.pkt.drank && x.pkt.flow == c.pkt.flow) with
    | .sent s => s
    | .wait s => s
    | .dead s => s) s

/-- A flush read behind the posted writes that are outstanding below the service port, unless one is under way (R289). -/
def svpFlush (s : State) : State :=
  match (s.svp.reqs.filter fun r => !r.read).getLast? with
  | none => s
  | some w =>
    if s.svp.reqs.any (fun r => r.flush && decide (w.id < r.id)) || !s.svp.up then s
    else s.modSvp fun v => { v with
      out := v.out ++ [.flushRd v.nextReq]
      reqs := v.reqs ++ [⟨v.nextReq, true, true, 0, 0, s.ts, none⟩]
      nextReq := v.nextReq + 1 }

/-- Flush the posted paths of a path mask (R289, R336). -/
def flushPaths (s : State) (path : BitVec 2) : State :=
  let s := if path.getLsbD 0 then flushComb s else s
  if path.getLsbD 1 then svpFlush s else s

/-- FENCE: earlier commands of the ring have completed; with DRAIN the posted paths they used are flushed (R336). -/
def execFence (ring : BitVec 10) (s : State) : Out :=
  .next (if dspStopped s then s else
    match startedCmd s ring 4 with
    | none => s
    | some h =>
      let r := s.ring ring
      let drain := decide (bodyNat h.cmd 0x10 1 = 1)
      let m : Marker := { cmd := h.cmd, after := [], drain := drain, stamp := r.maxStamp, path := r.pathMask, seqs := lossSeqs s }
      let s := releaseRing (s.modDsp fun d => { d with markers := d.markers ++ [m] }) h.cmd
      if drain then flushPaths s r.pathMask else s)

/-- A posted path has drained to a stamp (R288). -/
def pathsDrained (s : State) (m : Marker) : Bool :=
  (!m.path.getLsbD 0 || decide (m.stamp.toNat ≤ (fabDrainedTo s).toNat)) &&
    (!m.path.getLsbD 1 || decide (m.stamp.toNat ≤ (svpDrainedTo s).toNat))

/-- LOSS was set on one of the paths during the wait (R336). -/
def lossSince (s : State) (m : Marker) : Bool :=
  let now := lossSeqs s
  (m.path.getLsbD 0 && now.extractLsb' 16 16 != m.seqs.extractLsb' 16 16) ||
    (m.path.getLsbD 1 && now.extractLsb' 0 16 != m.seqs.extractLsb' 0 16)

/-- The waiting marker of a ring with a command index. -/
def findMarker (s : State) (ring : BitVec 10) (k : BitVec 32) (opc : BitVec 8) : Option Marker :=
  s.dsp.markers.find? fun m => m.cmd.ring == ring && m.cmd.idx == k && m.cmd.opc == opc
/-- A marker has taken effect. -/
def dropMarker (s : State) (m : Marker) : State :=
  s.modDsp fun d => { d with markers := d.markers.filter fun x => !(x.cmd.ring == m.cmd.ring && x.cmd.idx == m.cmd.idx) }

/-- FENCE_COMPLETE: the drained-to stamps have reached the largest visibility stamp; the record carries that stamp, or the
present TS64 when nothing was written, and path mask 0 (R336). -/
def execFenceComplete (ring : BitVec 10) (k : BitVec 32) (s : State) : Out :=
  .next (if frozen s then s else
    match findMarker s ring k 4 with
    | none => s
    | some m =>
      if m.drain && !pathsDrained s m then s
      else
        let st := if m.drain && lossSince s m then stLoss else stOK
        let r := s.ring ring
        let s := dropMarker s m
        let vis := if r.wrote then m.stamp else s.ts
        let s := if m.cmd.norec && st == stOK then s else cmdRecord s m.cmd st vis 0 {}
        let s := sendToken (markBad s m.cmd st) m.cmd
        settleRing (s.modRing ring fun r => { r with active := r.active.filter (·.1 != k) }) ring)

/-! ### Steps and trays (R343 to R346) -/

/-- Step M is earlier than step N (R343). -/
def earlier (m n : BitVec 16) : Bool := let d := (n - m).toNat; decide (1 ≤ d ∧ d ≤ 32767)

/-- Record a step number in the held command and as open on its ring. -/
def openStep (s : State) (r : BitVec 10) (n : BitVec 16) : State :=
  s.modRing r fun x => { x with step := some n, held := x.held.map fun h => { h with cmd := { h.cmd with step := some n } } }

/-- A declared step of a ring that has not started. -/
def declared (c : CtxSt) (n : BitVec 16) (r : BitVec 10) : Bool := c.steps.any fun t => t.num == n && t.ring == r

/-- A rejected STEP_BEGIN or STEP_END (R343, R345). -/
def stepErr (s : State) (c : Cmd) (n : BitVec 16) : State :=
  rejectCmd s c stSteperr { step := n, lo := (energyOf s c.ctx).toNat }

/-- A step open on its ring is rejected when its number is earlier than NEXT, stays undeclared while it is later or 16 declared
steps of the context have not ended, and is declared otherwise; the first number sets NEXT (R343 steps 2 to 4). -/
def declareStep (s : State) (c : Cmd) (n : BitVec 16) : State :=
  match s.ctxSlot c.ctx with
  | none => s
  | some x =>
    let next := x.nextStep.getD n
    if declared x n c.ring then s
    else if earlier n next then stepErr (s.modRing c.ring fun x => { x with step := none }) { c with step := none } n
    else
      let s := s.modCtx c.ctx fun x => { x with nextStep := some next }
      if earlier next n || decide (16 ≤ x.steps.length) then s
      else
        let t : Step := ⟨n, c.ring, BitVec.ofNat 64 (bodyNat c 0x18 8), BitVec.ofNat 64 (bodyNat c 0x20 8), false, 0⟩
        s.modCtx c.ctx fun x => { x with nextStep := some (n + 1), steps := x.steps ++ [t] }

/-- STEP_BEGIN: rejected, held undeclared, or declared (R343). -/
def execStepBegin (ring : BitVec 10) (s : State) : Out :=
  .next (if dspStopped s then s else
    match (s.ring ring).held with
    | none => s
    | some h =>
      let c := h.cmd
      let n := BitVec.ofNat 16 (bodyNat c 0x10 2)
      if c.opc ≠ 9 then s
      else if c.step = some n then declareStep s c n
      else match (s.ring ring).step with
        | some m => stepErr s { c with step := some m } n
        | none => declareStep (openStep s ring n) { c with step := some n } n)

/-- Two steps conflict: one writes a tray the other reads or writes (R344). -/
def traysMeet (a b : Step) : Bool :=
  (a.reads &&& b.writes) != 0 || (a.writes &&& b.writes) != 0 || (a.writes &&& b.reads) != 0

/-- STEP_START: a declared step whose gate is met starts once no earlier unended step conflicts; its record is written
(R344, R348). -/
def execStepStart (ring : BitVec 10) (s : State) : Out :=
  .next (if dspStopped s then s else
    let s := translateHeld s ring
    match (s.ring ring).held with
    | none => s
    | some h =>
      match h.cmd.step, s.ctxSlot h.cmd.ctx with
      | some n, some x =>
        match x.steps.find? fun t => t.num == n && t.ring == ring && !t.started with
        | some t =>
          if h.cmd.opc = 9 ∧ h.gateMet ∧ x.steps.all (fun u => !(earlier u.num n) || !(traysMeet t u)) then
            let s := s.modCtx h.cmd.ctx fun x =>
              { x with steps := modFirst (fun u : Step => u.num == n && u.ring == ring) (fun u => { u with started := true }) x.steps }
            completeCmd (s.modRing ring fun r => { r with held := none }) h.cmd stOK none
              { step := n, lo := (energyOf s h.cmd.ctx).toNat }
          else s
        | none => s
      | _, _ => s)

/-- STEP_END: of the step open on its ring, or rejected; it awaits the step's commands taken before it (R345). With FINAL the
step is no longer open (R343). -/
def execStepEnd (ring : BitVec 10) (s : State) : Out :=
  .next (if dspStopped s then s else
    match startedCmd s ring 10 with
    | none => s
    | some h =>
      let c := h.cmd
      let n := BitVec.ofNat 16 (bodyNat c 0x10 2)
      if (s.ring ring).step ≠ some n then stepErr s c n
      else
        let after := ((s.ring ring).active.filter fun e => e.2 == some n).map (·.1)
        let m : Marker := { cmd := c, after := after, drain := false, stamp := 0, path := 0, seqs := 0 }
        let s := releaseRing (s.modDsp fun d => { d with markers := d.markers ++ [m] }) c
        if bodyNat c 0x12 1 = 1 then s.modRing ring fun r => { r with step := none } else s)

/-- STEP_END_EFFECT: the commands it awaited have completed; it releases its trays, or ends the step (R345, R346). -/
def execStepEndEffect (ring : BitVec 10) (k : BitVec 32) (s : State) : Out :=
  .next (if frozen s then s else
    match findMarker s ring k 10 with
    | none => s
    | some m =>
      let c := m.cmd
      let n := BitVec.ofNat 16 (bodyNat c 0x10 2)
      if m.after.any fun i => (s.ring ring).active.any (·.1 == i) then s
      else
        let s := dropMarker s m
        let bad := stepBad s c.ctx n ring
        let b : RecBody := { step := n, lo := (energyOf s c.ctx).toNat, hi := bad }
        if bodyNat c 0x12 1 = 1 then
          completeCmd (s.modCtx c.ctx (dropStep n ring)) c (if bad = 0 then stOK else stStepfail) none b
        else
          let rel := BitVec.ofNat 64 (bodyNat c 0x18 8)
          let free := fun t : Step => { t with reads := t.reads &&& ~~~rel, writes := t.writes &&& ~~~rel }
          let s := s.modCtx c.ctx fun x => { x with steps := modFirst (fun t : Step => t.num == n && t.ring == ring) free x.steps }
          completeCmd s c stOK none b)

/-! ### Event rings (R341) -/

/-- EVENT_RECORD_WRITE: the oldest waiting record is written once there is room; WR advances, in the entry and in DSP_EVWRm,
and the cause flag is set when enabled (R341). -/
def execEventRecordWrite (m : BitVec 8) (s : State) : Out :=
  .next (if frozen s then s else
    let e := s.ev m
    match e.recs with
    | [] => s
    | d :: rest =>
      if !e.bound || (e.wr - s.reg (Reg.dspEvRd + 4 * m.toNat)).toNat == slotsOf e.log2 then s
      else match agentWrite s .dsp 0 0 ((e.base + 64 * (e.wr.toNat % slotsOf e.log2)) / 64) Mask.full d false false with
        | .busy q => s.ask q
        | .refused => s
        | .ok s1 =>
          match agentPut s1 .dsp 0 (evEntry s1 m + 8) 4 (e.wr + 1).toNat with
          | .busy q => s.ask q
          | .refused => s
          | .ok s2 =>
            let s2 := s2.modEv m fun e => { e with wr := e.wr + 1, recs := rest }
            let s2 := s2.setReg (Reg.dspEvWr + 4 * m.toNat) (e.wr + 1)
            let on := (s2.reg (Reg.dspEvInten + 4 * (m.toNat / 32))).getLsbD (m.toNat % 32)
            let s2 := if on then s2.setFlag (Reg.dspEvCause + 4 * (m.toNat / 16)) (m.toNat % 16) else s2
            tidyEv s2 m)

/-- The host driver has consumed records up to a count (R341, R350). -/
def evRdWrite (s : State) (m : BitVec 8) (v : BitVec 32) : State :=
  let off := Reg.dspEvRd + 4 * m.toNat
  if (v - s.reg off).toNat ≤ (s.reg (Reg.dspEvWr + 4 * m.toNat) - s.reg off).toNat then s.setReg off v else s

/-- EVRD_WRITE (R341). -/
def execEvrdWrite (ag : RegAgent) (m : BitVec 8) (v : BitVec 32) (s : State) : Out :=
  .next (withReg s ag Reg.dspEvRd fun s => evRdWrite s m v)

/-- Energy charged to a context; saturation sets OVF and raises a notice (R348). -/
def chargeCtx (s : State) (ctx : Ctx) (uj : Nat) : State :=
  match s.ctxSlot ctx with
  | none => s
  | some c =>
    let e := satAdd c.energy uj
    let full := e == BitVec.allOnes 64 && !c.ovf
    let s := s.modCtx ctx fun c => { c with energy := e, ovf := c.ovf || full }
    if full then report s (satReport s) none else s

end Sys2Proof.Machine
end

