-- ==== Sys2Proof/Machine/Power.lean ====
section
/-! DEFINITION. The power manager (chapter 16): the control pass, the activity model and its telemetry, proofing, droop, thermal
limits, coolant, the regulator alert, and supply sag. -/

namespace Sys2Proof.Machine

/-- A flag of PWR_STAT (R501). -/
def pwrFlag (s : State) (bit : Nat) : State := s.setFlag Reg.pwrStat bit

/-! ### Sharing the budget (R477 to R479) -/

/-- The rest of the IOD, in W, which is deducted first. -/
def iodRest : Int := 70

/-- Floor of a domain: 0 links, 1 memory, 2 compute. -/
def domFloor (d : Nat) : Int :=
  match d with
  | 0 => 100
  | 1 => 300
  | _ => 80

/-- The part of a demand below the domain's ceiling; compute has none. -/
def domCeil (d : Nat) (w : Int) : Int :=
  match d with
  | 0 => min w 300
  | 1 => min w 820
  | _ => w

/-- The grants in priority order. -/
def shareOut (demand : List Int) : List Nat → Int → List (Nat × Int)
  | [], _ => []
  | d :: r, budget =>
    let rest := (r.map domFloor).foldl (· + ·) 0
    let g := max (domFloor d) (min (domCeil d ((demand[d]?).getD 0)) (budget - rest))
    (d, g) :: shareOut demand r (budget - g)

/-- The domains in priority order (R479). -/
def prioOrder (s : State) : List Nat := [s.fld Reg.pwrPrio 0 2, s.fld Reg.pwrPrio 2 2, s.fld Reg.pwrPrio 4 2]

/-- The grant of a domain. -/
def grantOf (g : List (Nat × Int)) (d : Nat) : Int := ((g.find? (·.1 == d)).map (·.2)).getD (domFloor d)

/-- The budget of a pass: the lesser headroom, less the rest of the IOD. -/
def passBudget (s : State) (i : PassInput) : Int :=
  min ((sustTarget s : Int) + i.slackSust) ((peakTarget s : Int) + i.slackPeak) - iodRest

/-- The highest of the caps 1 to n whose power fits a grant; 1, the floor, when none does (log entry 43). -/
def capFor (need : List Int) (n : Nat) (grant : Int) : Nat :=
  (List.range n).foldl (fun b k => match need[k]? with
    | some w => if w ≤ grant then max b (k + 1) else b
    | none => b) 1

/-- The highest step whose power fits a die's part of the compute grant (R478). -/
def dieStepFor (i : PassInput) (grant : Int) (cd : Nat) : Nat :=
  let total := i.dieShare.foldl (· + ·) 0
  let part := (i.dieShare[cd]?).getD 0
  let need := (i.dieNeed[cd]?).getD []
  (List.range (topStep + 1)).foldl (fun b k => match need[k]? with
    | some w => if w * total ≤ grant * part then k else b
    | none => b) 0

/-! ### The pass (R475) -/

/-- A base die has a sensor that caps its stacks at half (R493). -/
def dieHot (s : State) (d : Nat) : Bool := s.pwr.baseHot.any fun e => e.2 && e.1 / 16 == d

/-- The rate caps of the ports and of the stack controllers, by tier × 8 + stack. -/
def setCaps (s : State) (ports stackLim : Nat) : State :=
  s.modPwr fun p => { p with
    portCap := (List.range 12).map fun n => (n, ports)
    stackCap := (List.range 16).map fun n => (n, if dieHot s (n % 8 / 4) then min stackLim 8 else stackLim) }

/-- Proofing holds a die's voltage and steps (R490). -/
def proofing (s : State) (cd : Nat) : Bool := (mgetD none s.pwr.proof cd).isSome

/-- A cluster moves towards its setting: down at once, as far as the share requires; up by one step, once rail and droop allow; CAP when a
limit moves it down. -/
def moveCluster (k : Nat) (s : State) (cl : BitVec 6) : State :=
  let cur := (s.cluster cl).step
  let goal := min k (ceilingOf s cl)
  let want := fun (s : State) (w : Option Nat) => s.modPwr fun p => { p with want := mset p.want cl.toNat w }
  if !pllRuns s cl then want s none
  else if goal < cur then
    let s := if k < cur then pwrFlag s 0 else s
    want (s.modCluster cl fun c => { c with step := goal }) none
  else want s (if cur < goal then some (cur + 1) else none)

/-- One compute die in a pass. -/
def passDie (i : PassInput) (grant : Int) (s : State) (cd : Nat) : State :=
  if proofing s cd then s
  else
    let k := dieStepFor i grant cd
    let s := moveRail ((clustersOfDie cd).foldl (moveCluster k) s) cd
    (clustersOfDie cd).foldl takeWant s

/-- A throttled cluster's ceiling falls by one step, and the throttle releases proofing on its die (R489, R493). -/
def passThermal (s : State) (cl : BitVec 6) : State :=
  if (s.cluster cl).throttled then
    releaseProof (s.modCluster cl fun c => { c with thermDown := min (c.thermDown + 1) topStep, thermTs := some s.ts }) (cdOf cl)
  else s

/-- Charge the energy of a pass: to each context its activity, and of the filler's energy a part in proportion to the clusters its
launches held at engagement; none to CTX 0 (R490, R498; log entry 44). -/
def chargePass (s : State) (i : PassInput) : State :=
  let put := fun (s : State) (c : Ctx) (uj : Nat) => if c = 0 then s else chargeCtx s c uj
  let s := i.charge.foldl (fun s e => put s e.1 e.2) s
  let s := i.proofUj.zipIdx.foldl (fun s e =>
    let held := mgetD [] s.pwr.proofCtx e.2
    let n := held.foldl (fun n x => n + x.2) 0
    held.foldl (fun s x => put s x.1 (e.1 * x.2 / max n 1)) (s.bump Reg.pwrProofUj e.1)) s
  s.setReg Reg.pwrPower (i.avg1s ++ i.avg2ms)

/-- One control pass (R475, R478, R490). -/
def powerPass (s : State) (i : PassInput) : State :=
  let s := allClusters.foldl passThermal (chargePass s i)
  if s.pwr.forced then s
  else
    let g := shareOut i.demand (prioOrder s) (passBudget s i)
    let s := setCaps s (capFor i.linkNeed 8 (grantOf g 0)) (capFor i.memNeed 16 (grantOf g 1))
    (List.range 4).foldl (passDie i (grantOf g 2)) s

/-- POWER_PASS (R475). -/
def execPowerPass (i : PassInput) (s : State) : Out := .next (whileRunning s fun s => powerPass s i)

/-- RAIL_SETTLED: a rising rail has slewed at 10 mV/µs to its new voltage, and the clusters that wait change frequency (R482, R492). -/
def execRailSettled (cd : BitVec 2) (s : State) : Out :=
  .next (whileRunning s fun s =>
    let d := cd.toNat
    match mgetD none s.pwr.railTo d with
    | none => s
    | some (goal, ts) =>
      if since s ts (slewTicks s d (railOf s d) goal) then
        let s := s.modPwr fun p => { p with rail := mset p.rail d goal, railTo := mset p.railTo d none }
        (clustersOfDie d).foldl takeWant s
      else s)

/-! ### The activity model (R485, R486) -/

/-- ACTIVITY_MODEL_TICK (R485). -/
def execActivityModelTick (i : ModelInput) (s : State) : Out :=
  .next (whileRunning s fun s => s.modPwr fun p => { p with
    cur := (List.range 4).map fun d => (d, ((i.current[d]?).getD 0, (i.mean10[d]?).getD 0, (i.fallRate[d]?).getD 0)) })

/-- The rails whose current the package controller reports: the four core rails, two base rails, IOD, always-on, near-tier, far-tier and
fabric PHY rails (R18; log entry 45). -/
def railCount : Nat := 11

/-- The gain that a reading asks for, clamped (R485). -/
def gainTarget (reported modelled : Int) : Rat := max (4 / 5) (min (5 / 4) ((reported : Rat) / (modelled : Rat)))

/-- A reading is discarded (R486). -/
def badReading (reported modelled rated : Int) : Bool :=
  decide (reported < 0 ∨ 3 * rated < 2 * reported ∨ 2 * modelled < reported ∨ 2 * reported < modelled)

/-- A reading is accepted: one eighth of the change of the gain, and the calibration (R485, R486). A modelled current of 0 gives no
quotient, and the gain stays (log entry 45). -/
def acceptReading (s : State) (rail : Nat) (reported modelled : Int) : State :=
  let g := 1 + mgetD 0 s.pwr.gain rail
  let g := if modelled = 0 then g else g + (gainTarget reported modelled - g) / 8
  let ok := if s.pwr.calibrated then [] else insertNat s.pwr.telOk rail
  let all := s.pwr.calibrated || (List.range railCount).all ok.contains
  s.modPwr fun p => { p with
    gain := mset p.gain rail (g - 1), telTs := mset p.telTs rail (some s.ts)
    calibrated := all, telOk := if all then [] else ok }

/-- TELEMETRY_FRAME: an accepted reading updates the rail's gain; one with a bad CRC or out of bounds is discarded and counted (R485,
R486, R524). -/
def execTelemetryFrame (rail : BitVec 5) (crcOk : Bool) (reported modelled rated : Int) (s : State) : Out :=
  .next (
    if s.boot.inReset || decide (railCount ≤ rail.toNat) then s
    else if !crcOk || badReading reported modelled rated then pwrFlag (s.bump Reg.pwrTeldrop 1) 6
    else acceptReading s rail.toNat reported modelled)

/-- A rail has had no accepted reading within the last 10 ms (R485). -/
def railStale (s : State) (rail : Nat) : Bool :=
  match mgetD none s.pwr.telTs rail with
  | none => true
  | some t => since s t (10 * Config.msTicks)

/-- MODEL_UNCALIBRATED: 90 % of both limits, UNCAL, and a degraded event (R486). -/
def execModelUncalibrated (s : State) : Out :=
  .next (
    if !s.boot.inReset && s.pwr.calibrated && (List.range railCount).any (railStale s) then
      raise (pwrFlag (s.modPwr fun p => { p with calibrated := false, telOk := [] }) 7) 0x2D
    else s)

/-! ### Proofing (R487 to R490) -/

/-- A core is barrier-idle (R487). -/
def barrierIdle (s : State) (c : CoreId) : Bool :=
  let x := s.core c
  match x.st with
  | .gated (.tokWait _ _) => true
  | .gated (.strGet _) => true
  | .idle => x.started && (s.cluster c.cl).run.isSome
  | _ => false

/-- Barrier-idle and enabled cores of a compute die. -/
def idleOfDie (s : State) (cd : Nat) : Nat × Nat :=
  (clustersOfDie cd).foldl (fun n cl =>
    let l := enabledList s cl
    (n.1 + (l.filter fun p => barrierIdle s ⟨cl, p⟩).length, n.2 + l.length)) (0, 0)

/-- More than a quarter of the die's enabled cores are barrier-idle. -/
def manyIdle (s : State) (cd : Nat) : Bool :=
  let n := idleOfDie s cd
  decide (n.2 < 4 * n.1)

/-- The engaging condition: EN, many idle cores, and a fall faster than 5 A/µs (R487). -/
def proofWanted (s : State) (cd : Nat) : Bool :=
  (s.reg Reg.pwrProof).getLsbD 16 && manyIdle s cd && decide (5000 < (mgetD (0, 0, 0) s.pwr.cur cd).2.2)

/-- FADE in ticks: units of 10 µs, values below 10 act as 10 (R501). -/
def fadeTicks (s : State) : Nat := max (s.fld Reg.pwrProof 8 8) 10 * 10 * Config.usTicks

/-- The floor of a die's current in mA: FLOOR percent of the pre-barrier level, falling linearly to 0 over FADE (R488). -/
def proofFloor (s : State) (p : Proof) : Nat :=
  let t := s.ts.toNat - p.ts.toNat
  p.level * min (s.fld Reg.pwrProof 0 8) 80 * (fadeTicks s - t) / (100 * fadeTicks s)

/-- The contexts with a launch running on a compute die, each with the clusters its launches hold (R490). -/
def ctxsOfDie (s : State) (cd : Nat) : List (Ctx × Nat) :=
  (clustersOfDie cd).foldl (fun l cl => match (s.cluster cl).run with
    | none => l
    | some r => if l.any (·.1 == r.ctx) then modFirst (fun e : Ctx × Nat => e.1 == r.ctx) (fun e => (e.1, e.2 + 1)) l
                else l ++ [(r.ctx, 1)]) []

/-- PROOF_ENGAGE: the floor starts from the mean of the last 10 µs; step changes pending on the die are dropped (R487, R488, R500). -/
def execProofEngage (cd : BitVec 2) (s : State) : Out :=
  .next (whileRunning s fun s =>
    let d := cd.toNat
    if proofing s d || s.pwr.forced || !proofWanted s d then s
    else
      let p : Proof := { level := (mgetD (0, 0, 0) s.pwr.cur d).2.1, ts := s.ts }
      let cs := ctxsOfDie s d
      pwrFlag (s.modPwr fun w => { w with
        proof := mset w.proof d (some p), proofCtx := mset w.proofCtx d cs, railTo := mset w.railTo d none
        want := w.want.filter fun e => e.1 / 16 != d }) 1)

/-- PROOF_RELEASE: the floor has reached 0, or no more than a quarter of the cores are barrier-idle (R489). -/
def execProofRelease (cd : BitVec 2) (s : State) : Out :=
  .next (
    let d := cd.toNat
    match mgetD none s.pwr.proof d with
    | none => s
    | some p => if s.boot.inReset then s else if since s p.ts (fadeTicks s) || !manyIdle s d then releaseProof s d else s)

/-- PROOF_RELEASE_CMD: RELEASE of PWR_PROOF (R489). -/
def execProofReleaseCmd (ag : RegAgent) (s : State) : Out := .next (withReg s ag Reg.pwrProof releaseAll)

/-! ### Droop (R491, R492) -/

/-- DROOP_DETECT: one stretch, counted; the droop runs from the last firing (R491). -/
def execDroopDetect (cl : BitVec 6) (s : State) : Out :=
  .next (whileRunning s fun s =>
    if pllRuns s cl then
      pwrFlag ((s.modCluster cl fun c => { c with droop := true, droopTs := some s.ts }).bump Reg.pwrDroop 1) 2
    else s)

/-- DROOP_CLEAR: 50 ns after the detector last fired (R491). -/
def execDroopClear (cl : BitVec 6) (s : State) : Out :=
  .next (
    let c := s.cluster cl
    if c.droop && (match c.droopTs with
      | some t => since s t 200
      | none => true) then s.modCluster cl fun c => { c with droop := false, droopTs := some s.ts }
    else s)

/-! ### Thermal limits (R493, R494) -/

/-- Threshold of a sensor in 0.01 °C: PWR_THERM, no higher than 97 °C and 102 °C. -/
def thermThreshold (s : State) (base : Bool) : Int :=
  (if base then min (s.fld Reg.pwrTherm 8 8) 102 else min (s.fld Reg.pwrTherm 0 8) 97 : Nat) * 100

/-- A cluster begins to be throttled: THERM and a notice; proofing on its die is released (R489, R493). -/
def throttle (s : State) (cl : BitVec 6) : State :=
  if (s.cluster cl).throttled then s
  else
    let s := releaseProof (s.modCluster cl fun c => { c with throttled := true }) (cdOf cl)
    raiseAt (pwrFlag s 3) (dieCd cl) cl.toNat 0x28 0 0

/-- The other cluster above a base sensor (R471). -/
def pairCluster (cl : BitVec 6) : BitVec 6 := cl ^^^ 1

/-- THERMAL_THROTTLE: a sensor above its threshold lowers the ceiling at every pass; a base sensor throttles both clusters above it and
caps its die's stacks at half (R493). -/
def execThermalThrottle (cl : BitVec 6) (base : Bool) (reading : Int) (s : State) : Out :=
  .next (whileRunning s fun s =>
    if reading ≤ thermThreshold s base then s
    else if base then
      let s := s.modPwr fun p => { p with baseHot := mset p.baseHot (cl.toNat / 2) true }
      let s := s.modPwr fun p => { p with
        stackCap := (List.range 16).map fun n =>
          (n, if dieHot s (n % 8 / 4) then min (mgetD 16 p.stackCap n) 8 else mgetD 16 p.stackCap n) }
      throttle (throttle s cl) (pairCluster cl)
    else throttle s cl)

/-- THERMAL_CEILING_RAISE: both sensors read at least 3 °C below; the ceiling rises by one step per 100 µs (R493). -/
def execThermalCeilingRaise (cl : BitVec 6) (own base : Int) (s : State) : Out :=
  .next (whileRunning s fun s =>
    if thermThreshold s false - 300 < own ∨ thermThreshold s true - 300 < base then s
    else
      let s := s.modPwr fun p => { p with baseHot := mset p.baseHot (cl.toNat / 2) false }
      let c := s.cluster cl
      let due : Bool := match c.thermTs with
        | some t => since s t (100 * Config.usTicks)
        | none => true
      s.modCluster cl fun c =>
        if c.thermDown ≠ 0 ∧ due then { c with throttled := false, thermDown := c.thermDown - 1, thermTs := some s.ts }
        else { c with throttled := false })

/-- THERMAL_TRIP: a compute sensor at 100 °C or a base sensor, 16 on each base die, at 105 °C drives THERM_TRIP_N, and its event forces
the safe state (R471, R494, R505). -/
def execThermalTrip (base : Bool) (sensor : BitVec 6) (reading : Int) (s : State) : Out :=
  .next (
    if s.boot.inReset || decide (reading < if base then 10500 else 10000) || (base && sensor.getLsbD 5) then s
    else
      let s := s.modBoot fun b => { b with trip := true }
      if base then raiseAt s (dieMbd (sensor.getLsbD 4)) (64 + sensor.toNat % 16) 0x29 0 0
      else raiseAt s (dieCd sensor) sensor.toNat 0x29 0 0)

/-! ### Coolant (R495) -/

/-- COOLANT_FLOW_LOSS: in normal service a fatal event, which forces the safe state; ignored before. -/
def execCoolantFlowLoss (s : State) : Out :=
  .next (
    let s := s.modPwr fun p => { p with coolant := false }
    if s.boot.inReset || !s.pwr.service then s else raise s 0x2A)

/-- COOLANT_FLOW_OK_RISE: the filtered input rises. -/
def execCoolantFlowOkRise (s : State) : Out := .next (s.modPwr fun p => { p with coolant := true })

/-- The measured flow pulse frequency; one above 2,000 Hz is discarded and the last value held (R524). -/
def setFreq (s : State) (hz : BitVec 16) : State :=
  if 2000 < hz.toNat then s
  else s.setReg Reg.pwrFlow ((s.reg Reg.pwrFlow).extractLsb' 16 16 ++ hz)

/-- COOLANT_FLOW_LOW: 100 ms below MIN: the limit of 1,600 W, FLOW, and a degraded event. -/
def execCoolantFlowLow (hz : BitVec 16) (s : State) : Out :=
  .next (
    if s.boot.inReset then s
    else
      let s := setFreq s hz
      if !s.pwr.flowLow && decide (s.fld Reg.pwrFlow 0 16 < s.fld Reg.pwrFlow 16 16) then
        raise (pwrFlag (s.modPwr fun p => { p with flowLow := true }) 5) 0x2B
      else s)

/-- COOLANT_FLOW_RESTORED: 1 s at or above MIN ends the limit. -/
def execCoolantFlowRestored (hz : BitVec 16) (s : State) : Out :=
  .next (
    if s.boot.inReset then s
    else
      let s := setFreq s hz
      if s.fld Reg.pwrFlow 16 16 ≤ s.fld Reg.pwrFlow 0 16 then s.modPwr fun p => { p with flowLow := false } else s)

/-! ### Regulator alert and supply sag (R496, R497) -/

/-- REGULATOR_ALERT: with FWCTL clear the lowest step and the rate floors; with FWCTL set ALERT and a degraded event. -/
def execRegulatorAlert (s : State) : Out :=
  .next (
    if s.pwr.alert then s
    else
      let t := s.modPwr fun p => { p with alert := true }
      if s.boot.inReset then t
      else if fwctl t then raise (pwrFlag t 4) 0x2C
      else forceLowest t)

/-- REGULATOR_ALERT_END: the force ends. -/
def execRegulatorAlertEnd (s : State) : Out := .next (s.modPwr fun p => { p with alert := false, forced := false })

/-- A sag abandons a running or waiting commit, and CAL_STAT reports it; the committed slot stays (R497, R538). -/
def sagCommit (s : State) : State :=
  if s.cal.busy = some true ∨ s.cal.waiting then
    (s.modCal fun c => { c with busy := none, waiting := false }).setFlag Reg.calStat 3
  else s

/-- SUPPLY_SAG: a reading of the input outside 30 V to 60 V is discarded, counted, and counts as low (R497, R524). A level that becomes low
sets SAG and raises a notice. -/
def execSupplySag (input aon bad : Bool) (s : State) : Out :=
  .next (
    let low := input || bad
    let fresh := (low && !s.pwr.sagIn) || (aon && !s.pwr.sagAon)
    let s := s.modPwr fun p => { p with sagIn := p.sagIn || low, sagAon := p.sagAon || aon }
    if s.boot.inReset then s
    else
      let s := if bad then pwrFlag (s.bump Reg.pwrTeldrop 1) 6 else s
      if fresh then sagCommit (raise (pwrFlag s 8) 0x2E) else s)

/-- SUPPLY_SAG_END: the named levels are above their thresholds again. -/
def execSupplySagEnd (input aon : Bool) (s : State) : Out :=
  .next (s.modPwr fun p => { p with sagIn := p.sagIn && !input, sagAon := p.sagAon && !aon })

end Sys2Proof.Machine
end

