-- ==== Sys2Proof/Machine/Guards.lean ====
section
/-! DEFINITION. The guards of registers (R446, R447, R449): the G1 sequence and the G2 lock of each register agent. -/

namespace Sys2Proof.Machine

/-- The guard state in force: the majority copy (R449). -/
def guards (s : State) : GuardSt := s.regs.guard.a

/-- An agent's guard. -/
def guardOf (s : State) (ag : RegAgent) : Guard :=
  match ag with
  | .host => (guards s).host
  | .mgc => (guards s).mgc
  | .test => (guards s).test
  | .i3c => (guards s).i3c

/-- Write an agent's guard: all three copies take it (R449). -/
def setGuard (s : State) (ag : RegAgent) (g : Guard) : State :=
  let x := guards s
  let x := match ag with
    | .host => { x with host := g }
    | .mgc => { x with mgc := g }
    | .test => { x with test := g }
    | .i3c => { x with i3c := g }
  s.modRegs fun r => { r with guard := ⟨x, x, x⟩ }

/-- A guard error of a write: the flag, and a notice (R446, R447). -/
def guardError (s : State) (bit : Nat) : State := raise (s.setFlag Reg.gctlStat bit) 0x22

/-! ### G2 (R447) -/

/-- A lock stays open for 1,024 slow cycles. -/
def g2Ticks : Nat := 1024 * Config.slowTicks

/-- An agent's lock is open. -/
def lockOpen (s : State) (ag : RegAgent) : Bool :=
  match (guardOf s ag).open_ with
  | some t => !since s t g2Ticks
  | none => false

/-- A write to a G2 field: it takes effect while the agent's lock is open, and is discarded with G2ERR otherwise; the lock closes. -/
def g2Write (s : State) (ag : RegAgent) (f : State → State) : State :=
  let ok := lockOpen s ag
  let s := setGuard s ag { guardOf s ag with open_ := none }
  if ok then f s else guardError s 1

/-- GCTL_UNLOCK: the key opens the lock; any other closes it and sets G2ERR. -/
def unlock (s : State) (ag : RegAgent) (key : BitVec 16) : State :=
  if key = 0x5A17 then setGuard s ag { guardOf s ag with open_ := some s.ts }
  else (setGuard s ag { guardOf s ag with open_ := none }).setFlag Reg.gctlStat 1

/-! ### G1 (R446) -/

/-- A sequence waits 64 slow cycles for its complement. -/
def g1Ticks : Nat := 64 * Config.slowTicks

/-- A write to a G1 first word: an open sequence of the agent fails; a new one opens. -/
def g1First (s : State) (ag : RegAgent) (off : Nat) (v : BitVec 32) : State :=
  let s := if (guardOf s ag).g1.isSome then guardError s 0 else s
  setGuard s ag { guardOf s ag with g1 := some (off, v, s.ts) }

/-- A write to the word after a G1 register: the complement of the held value, within the 64 slow cycles, accepts it; anything else fails. -/
def g1Complement (s : State) (ag : RegAgent) (off : Nat) (v : BitVec 32) (accept : State → Nat → BitVec 32 → State) : State :=
  let g := (guardOf s ag).g1
  let s := setGuard s ag { guardOf s ag with g1 := none }
  match g with
  | some (a, w, t) => if off = a + 4 ∧ v = ~~~w ∧ s.ts.toNat ≤ t.toNat + g1Ticks then accept s a w else guardError s 0
  | none => guardError s 0

/-- G1_TIMEOUT: the 64 slow cycles of an open sequence have passed. -/
def execG1Timeout (ag : RegAgent) (s : State) : Out :=
  .next (match (guardOf s ag).g1 with
    | some (_, _, t) => if since s t g1Ticks then guardError (setGuard s ag { guardOf s ag with g1 := none }) 0 else s
    | none => s)

/-- GCTL_UNLOCK (R447). -/
def execGctlUnlock (ag : RegAgent) (key : BitVec 16) (s : State) : Out :=
  .next (withReg s ag Reg.gctlUnlock fun s => unlock s ag key)

/-- G2_LOCK_TIMEOUT: a lock closes 1,024 slow cycles after it opened. -/
def execG2LockTimeout (ag : RegAgent) (s : State) : Out :=
  .next (match (guardOf s ag).open_ with
    | some t => if since s t g2Ticks then setGuard s ag { guardOf s ag with open_ := none } else s
    | none => s)

end Sys2Proof.Machine
end

