-- ==== Sys2Proof/Machine/Coherence.lean ====
section
/-! DEFINITION. The coherence messages as commands (R238 to R248): what a home, a cluster or the host port does when it takes
one, and the reclaims and scans of the homes (R253, R255 to R258). -/

namespace Sys2Proof.Machine

/-! ### Requests at the home -/

/-- A home takes a request from its source; a cluster that has been isolated since is not heard (R242, R255). -/
def takeReqMsg (s : State) (h : BitVec 8) (src : Agent) (k : MsgKind) : State :=
  match takeMsg s src (.home h) k with
  | none => s
  | some (m, s1) =>
    let dead := match src with
      | .cluster c => (s.cluster c).isolated
      | _ => false
    if frozen s then s else if dead then s1 else if homeHeld s h then heldAnswer s1 h m else arrive s1 h m

/-- RDS (R244). -/
def execRds (h : BitVec 8) (src : BitVec 6) (s : State) : Out := .next (takeReqMsg s h (.cluster src) .rds)
/-- RDX (R244). -/
def execRdx (h : BitVec 8) (src : BitVec 6) (s : State) : Out := .next (takeReqMsg s h (.cluster src) .rdx)
/-- RDC (R245). -/
def execRdc (h : BitVec 8) (src : Agent) (s : State) : Out := .next (takeReqMsg s h src .rdc)
/-- WRP (R244, R245). -/
def execWrp (h : BitVec 8) (src : Agent) (s : State) : Out := .next (takeReqMsg s h src .wrp)
/-- RED (R244). -/
def execRed (h : BitVec 8) (src : BitVec 6) (s : State) : Out := .next (takeReqMsg s h (.cluster src) .red)
/-- RDH (R245). -/
def execRdh (h : BitVec 8) (s : State) : Out := .next (takeReqMsg s h .hpt .rdh)
/-- WRH (R245). -/
def execWrh (h : BitVec 8) (s : State) : Out := .next (takeReqMsg s h .hpt .wrh)

/-- HOME_ACCEPT: the oldest queued request of a line that is not busy is accepted (R228, R229, R234). -/
def execHomeAccept (h : BitVec 8) (line : Nat) (s : State) : Out :=
  .next (
    match takeFirst (fun q : QEntry => q.msg.line == line) (s.home h).queue with
    | none => s
    | some (q, r) =>
      if lineBusy s h line ∨ frozen s then s else acceptReq (s.modHome h fun x => { x with queue := r }) h q)

/-! ### Victims at the home -/

/-- A VCD that no transaction awaits comes from the owner (R246). -/
def vcdPossible (s : State) (h : BitVec 8) (c : BitVec 6) (line : Nat) : Bool :=
  let e := dirGet s.mem line
  (txnOf s h line).isSome || (e.cst == .X && e.sharers.getLsbD c.toNat)

/-- A home takes a VIC message (R230, R246). -/
def takeVic (s : State) (h : BitVec 8) (src : BitVec 6) (k : MsgKind) : State :=
  match takeMsg s (.cluster src) (.home h) k with
  | none => s
  | some (m, s1) => if frozen s then s else if homeHeld s h then heldAnswer s1 h m else onVic s1 h m src

/-- VCD; one from a cluster that is not the line's owner is not possible (R246). -/
def execVcd (h : BitVec 8) (src : BitVec 6) (s : State) : Out :=
  match takeMsg s (.cluster src) (.home h) .vcd with
  | some (m, _) => if vcdPossible s h src m.line || homeHeld s h then .next (takeVic s h src .vcd) else .fault .notPossible
  | none => .next s
/-- VCK (R246). -/
def execVck (h : BitVec 8) (src : BitVec 6) (s : State) : Out := .next (takeVic s h src .vck)
/-- VCN (R246). -/
def execVcn (h : BitVec 8) (src : BitVec 6) (s : State) : Out := .next (takeVic s h src .vcn)

/-! ### Forwards at the cluster (R247) -/

/-- A cluster's answer to a FWD goes to the home that sent it. -/
def fwdAnswer (s : State) (m : Msg) (cl : BitVec 6) (k : MsgKind) (flag : Bool) : State :=
  { s with net := s.net ++ [{ msg k (.cluster cl) m.src m.line m.ctx with flag := flag }] }

/-- The data a cluster sends to the requester of a FWD. -/
def fwdData (s : State) (m : Msg) (cl : BitVec 6) (w : L2Way) (g : Grant) : State :=
  { s with net := s.net ++ [{ msg .dat (.cluster cl) m.req m.line m.ctx with
      data := w.data, poison := w.poison, grant := g, tag := m.tag }] }

/-- Dirty data of a FWD goes back to the home. -/
def fwdDirty (s : State) (m : Msg) (cl : BitVec 6) (w : L2Way) (flag : Bool) : State :=
  { s with net := s.net ++ [{ msg .fdt (.cluster cl) m.src m.line m.ctx with data := w.data, poison := w.poison, flag := flag }] }

/-- The state a FSH grants: S, or host state S to the host port (R244, R245). -/
def fshGrant (m : Msg) : Grant := if m.orig = .rdh then .hostS else .S
/-- What a FRC's data carries: no state, or host state I. -/
def frcGrant (m : Msg) : Grant := if m.orig = .rdh then .hostI else .none

/-- What taking a FWD comes to. -/
inductive FwdRes where
  | next (s : State)
  | impossible
  deriving Repr

/-- A cluster answers a FWD from the line's state in its L2 (R247); a dead cluster's port answers NPD (R255); a held line
delays it (R282). -/
def answerFwd (s : State) (cl : BitVec 6) (m : Msg) (s1 : State) : FwdRes :=
  let c := s.cluster cl
  let gone : MsgKind := if m.kind = .inv then .iak else .npr
  if c.isolated then .next (fwdAnswer s1 m cl .npd false)
  else if c.wb.any (·.line == m.line) then .next (fwdAnswer s1 m cl .vpd false)
  else match l2Find c m.line with
    | none => .next (fwdAnswer s1 m cl gone false)
    | some (k, w) =>
      if (holder s cl w).isSome then .next s
      else
        let dirty := w.st == .M || w.st == .KE
        let drop := fun s : State => forgetWay s cl k m.line
        let toS := fun s : State => setWay s cl k (some { w with st := if w.st = .UP then .UP else .S })
        match m.kind with
        | .fsh =>
          let s := fwdData (toS s1) m cl w (fshGrant m)
          .next (fwdAnswer (if dirty then fwdDirty s m cl w false else s) m cl .fak dirty)
        | .fex =>
          if w.st = .S ∨ w.st = .UP then .impossible
          else .next (fwdAnswer (fwdData (drop s1) m cl w (if dirty then .M else .E)) m cl .fak false)
        | .frc =>
          if w.st = .S ∨ w.st = .UP then .impossible
          else .next (fwdAnswer (fwdData s1 m cl w (frcGrant m)) m cl .fak false)
        | _ => .next (if dirty then fwdDirty (drop s1) m cl w true else fwdAnswer (drop s1) m cl .iak false)

/-- A cluster takes the oldest FWD of a home when it is of a kind. -/
def takeFwd (s : State) (cl : BitVec 6) (h : BitVec 8) (k : MsgKind) : Out :=
  match takeMsg s (.home h) (.cluster cl) k with
  | none => .next s
  | some (m, s1) =>
    if frozen s then .next s else
    match answerFwd s cl m s1 with
    | .next t => .next t
    | .impossible => .fault .notPossible

/-- FSH (R247). -/
def execFsh (cl : BitVec 6) (h : BitVec 8) (s : State) : Out := takeFwd s cl h .fsh
/-- FEX; at a line in S or UP it is not possible (R247). -/
def execFex (cl : BitVec 6) (h : BitVec 8) (s : State) : Out := takeFwd s cl h .fex
/-- FRC; at a line in S or UP it is not possible (R247). -/
def execFrc (cl : BitVec 6) (h : BitVec 8) (s : State) : Out := takeFwd s cl h .frc
/-- INV (R247). -/
def execInv (cl : BitVec 6) (h : BitVec 8) (s : State) : Out := takeFwd s cl h .inv

/-! ### The host port's side (R410, R251) -/

/-- Device physical address of a host DPA: near tier first, then far (R408). -/
def paOfDpa (m : MemSt) (dpa : Nat) : Nat :=
  if dpa < tierLimit m .near then dpa else tierBase .far + (dpa - tierLimit m .near)

/-- The host request with an identity. -/
def hostReq (s : State) (i : Nat) : Option HostReq := s.hpt.reqs.find? (·.id == i)

/-- The exit from L0s or L1 when the port has a flit to send; a BISnp's time counts only in L0 (R419, R420). -/
def wakeLink (s : State) : State :=
  if s.hpt.link = .l0s ∨ s.hpt.link = .l1 then
    let d := match s.hpt.retrainTs with
      | some t => s.ts - t
      | none => 0
    s.modHpt fun h => { h with link := .l0, retrainTs := none, bis := h.bis.map fun b => { b with ts := b.ts + d } }
  else s

/-- The port sends a message to the host. -/
def hptSend (s : State) (m : HostMsg) : State := (wakeLink s).modHpt fun h => { h with out := h.out ++ [m] }

/-- A BIConflict whose earlier requests have all been answered is acknowledged (R411). -/
def settleConflicts (s : State) : State :=
  let wait := fun e : BitVec 64 × List Nat => e.2.any fun i => s.hpt.reqs.any (·.id == i)
  let go := s.hpt.conflicts.filter fun e => !wait e
  let s := s.modHpt fun h => { h with conflicts := h.conflicts.filter wait }
  go.foldl (fun s e => hptSend s (.biConflictAck e.1)) s

/-- A host request has been answered; the response to one from before the link was lost is discarded (R421). -/
def endHostReq (s : State) (i : Nat) (m : HostMsg) : State :=
  let lost := s.hpt.reqs.any fun r => r.id == i && r.lost
  let s := s.modHpt fun h => { h with reqs := h.reqs.filter (·.id != i) }
  settleConflicts (if lost then s else hptSend s m)

/-- The host state that a DAT to the host port grants. -/
def hostGrant : Grant → HostState
  | .hostS => .S
  | .hostA => .A
  | _ => .I

/-- Data reaches the host port: the DRS leaves on the link and ACK goes to the home (R240, R410, R259). -/
def hostDat (s : State) (m : Msg) : State :=
  if m.tag = .agent then agentDat s .hpt m.line else
  let ack := { s with net := s.net ++ [msg .ack .hpt (.home (homeOf s.mem m.line)) m.line 0] }
  match m.tag with
  | .host i =>
    match hostReq s i with
    | some r => endHostReq ack i (.drs r.hpa m.data m.poison (hostGrant m.grant))
    | none => ack
  | _ => ack

/-- A host write has been performed (R287, R410); a refusal is answered with Cmp too, or with poisoned data (R192). -/
def hostCmp (s : State) (m : Msg) : State :=
  match m.tag with
  | .host i =>
    match hostReq s i with
    | some r => endHostReq s i (if r.read then .drs r.hpa (Config.poisonData r.line) true .I else .cmp r.hpa .I)
    | none => s
  | _ => s

/-- A dead host's answer to a back-invalidation: BIRspI without data; a line it held modified is marked poisoned (R258). -/
def deadBir (s : State) (h : BitVec 8) (line : Nat) : State :=
  let s := if (dirGet s.mem line).hst = .A then (memPoison s line).bump (homeReg h Reg.homePoison) 1 else s
  onBir s h line .I true

/-- The host physical address at which a committed decoder maps a line; 0 where none does (R408). -/
def hpaOfLine (s : State) (line : Nat) : BitVec 64 :=
  let a := line * 64
  let dpa := if a < tierBase .far then a else a - tierBase .far + tierLimit s.mem .near
  (s.hpt.hdm.findSome? fun e =>
    let d := e.2
    if d.committed ∧ d.dpa ≤ dpa ∧ dpa < d.dpa + d.size then some (BitVec.ofNat 64 (d.base + (dpa - d.dpa))) else none).getD 0

/-- BISNP: the host port takes a back-invalidation snoop and sends it to the host (R251, R411, R413). A dead host's port
answers it as BIRspI (R258). -/
def execBisnp (h : BitVec 8) (s : State) : Out :=
  .next (
    match takeMsg s (.home h) .hpt .bis with
    | none => s
    | some (m, s1) =>
      if frozen s then s
      else if s.hpt.dead then deadBir s1 h m.line
      else if !linkUp s ∨ 512 ≤ s.hpt.bis.length then s
      else
        let a := hpaOfLine s m.line
        let s1 := hptSend s1 (.bisnp a m.bis)
        s1.modHpt fun p => { p with bis := p.bis ++ [{ line := m.line, hpa := a, kind := m.bis, ts := s.ts, hdt := false }] })

/-- BIR: the host's answer to the BISnp of a line reaches its home, behind the HDT that precedes it (R251, R252). -/
def execBir (line : Nat) (rsp : HostState) (s : State) : Out :=
  .next (
    match s.hpt.bis.find? (·.line == line) with
    | none => s
    | some b =>
      if frozen s || s.net.any (fun m => m.kind == .hdt && m.line == line) then s
      else onBir (s.modHpt fun p => { p with bis := p.bis.filter (·.line != line) }) (homeOf s.mem line) line rsp b.hdt)

/-- HDT: a home takes the host's modified data (R252); the host write it came from has then been performed (R287). -/
def execHdt (h : BitVec 8) (s : State) : Out :=
  .next (
    match takeMsg s .hpt (.home h) .hdt with
    | none => s
    | some (m, s1) =>
      if frozen s then s
      else
        let s := onHdt s1 h m
        match m.tag with
        | .host i =>
          match hostReq s i with
          | some r => endHostReq s i (.cmp r.hpa .I)
          | none => s
        | _ => s)

/-! ### Responses at the home -/

/-- A home takes a response of a cluster. -/
def takeRsp (s : State) (h : BitVec 8) (src : BitVec 6) (k : MsgKind) (f : State → Msg → State) : State :=
  match takeMsg s (.cluster src) (.home h) k with
  | none => s
  | some (m, s1) => if frozen s then s else f s1 m

/-- ACK: the transaction that granted a copy ends (R240). -/
def execAck (h : BitVec 8) (src : Agent) (s : State) : Out :=
  .next (match takeMsg s src (.home h) .ack with
    | none => s
    | some (m, s1) => if frozen s then s else onAck s1 h m.line src)
/-- FAK (R247). -/
def execFak (h : BitVec 8) (src : BitVec 6) (s : State) : Out := .next (takeRsp s h src .fak fun s m => onFak s h m src)
/-- IAK (R247). -/
def execIak (h : BitVec 8) (src : BitVec 6) (s : State) : Out := .next (takeRsp s h src .iak fun s m => onNpr s h m src false)
/-- NPR (R244). -/
def execNpr (h : BitVec 8) (src : BitVec 6) (s : State) : Out := .next (takeRsp s h src .npr fun s m => onNpr s h m src false)
/-- NPD: as NPR, an owned line poisoned first (R256). -/
def execNpd (h : BitVec 8) (src : BitVec 6) (s : State) : Out := .next (takeRsp s h src .npd fun s m => onNpr s h m src true)
/-- VPD (R244). -/
def execVpd (h : BitVec 8) (src : BitVec 6) (s : State) : Out := .next (takeRsp s h src .vpd fun s m => onVpd s h m src)
/-- FDT (R244, R247). -/
def execFdt (h : BitVec 8) (src : BitVec 6) (s : State) : Out := .next (takeRsp s h src .fdt fun s m => onFdt s h m src)

/-! ### Answers at the cluster -/

/-- The cluster tells the home that its data or grant has come (R240). -/
def sendAck (s : State) (cl : BitVec 6) (line : Nat) : State :=
  { s with net := s.net ++ [toHome s .ack cl line 0] }

/-- The miss on a line has been answered. -/
def endMiss (s : State) (cl : BitVec 6) (line : Nat) : State :=
  s.modCluster cl fun c => { c with miss := c.miss.filter (·.line != line) }

/-- The lines of a core's lmv.in moves that lie on a physical line: move and line numbers. -/
def movesOn (s : State) (core : CoreId) (line : Nat) : List (Nat × Nat) :=
  (List.range 4).flatMap fun i =>
    match mgetD none (s.core core).lmv i with
    | none => []
    | some m =>
      if m.out then [] else
      (List.range m.count).filterMap fun b =>
        if m.done.getLsbD b then none else
        match translate s core.cl m.ctx (lmvVa m b) .read with
        | .ok l _ => if l.tgt = 0 ∧ physOf l (lmvVa m b).toNat / 64 = line then some (i, b) else none
        | .miss _ => none

/-- Data that allocates nothing goes to the core that asked: its stalled load or fetch, or its line moves (R105, R190, R245). -/
def giveRdc (s : State) (core : CoreId) (line : Nat) (d : Line) (poison : Bool) : State :=
  let s := match (s.core core).pend with
    | some p => if p.dest = .device ∧ p.pa / 64 = line ∧ !p.alloc then finishLoad s core p d poison else s
    | none => s
  (movesOn s core line).foldl (fun s e => lmvTake s core e.1 e.2 d poison) s

/-- The state in which a granted line is held. -/
def grantState : Grant → L2State
  | .S => .S
  | .M => .M
  | _ => .E

/-- Data for a miss: installed in the L2 with its state, an L1 prefetch filled, ACK sent; none while no way is free (R181,
R186, R240). -/
def clusterDat (s : State) (cl : BitVec 6) (m : Msg) (x : Miss) : Option State :=
  let core : CoreId := ⟨cl, x.core⟩
  match x.kind with
  | .rdc => some (giveRdc (endMiss s cl m.line) core m.line m.data m.poison)
  | _ =>
    let w : L2Way :=
      { st := grantState m.grant, line := m.line, ctx := x.ctx, data := m.data, poison := m.poison, used := true, vck := 0,
        hold := none, holdTs := 0, cinv := false }
    let put := match l2Find (s.cluster cl) m.line with
      | some (k, _) => some (putWay s cl k w)
      | none => installLine s cl w
    put.map fun s =>
      let s := sendAck (endMiss s cl m.line) cl m.line
      if x.l1pf && !m.poison then s.modCore core (fillL1 ⟨m.line, x.ctx, m.data, false⟩) else s

/-- DAT: line data reaches its requester (R240, R244); a cluster isolated since then has its grants acknowledged by its port
(R255). -/
def execDat (dst src : Agent) (s : State) : Out :=
  .next (
    match takeMsg s src dst .dat with
    | none => s
    | some (m, s1) =>
      if frozen s then s else
      match dst with
      | .hpt => hostDat s1 m
      | .cluster cl =>
        if (s.cluster cl).isolated then sendAck s1 cl m.line
        else match (s.cluster cl).miss.find? (·.line == m.line) with
          | some x => (clusterDat s1 cl m x).getD s
          | none => sendAck s1 cl m.line
      | _ => agentDat s1 dst m.line)

/-- GNT: a line held in UP becomes E (R235, R244). -/
def execGnt (cl : BitVec 6) (h : BitVec 8) (s : State) : Out :=
  .next (
    match takeMsg s (.home h) (.cluster cl) .gnt with
    | none => s
    | some (m, s1) =>
      if frozen s then s
      else if (s.cluster cl).isolated then sendAck s1 cl m.line
      else
        let s1 := sendAck (endMiss s1 cl m.line) cl m.line
        match l2Find (s.cluster cl) m.line with
        | some (k, w) => if w.st = .UP then setWay s1 cl k (some { w with st := .E }) else s1
        | none => s1)

/-- A VIC has its CMP: the credit returns; WB ends, or a VCK is outstanding no more (R235, R241). -/
def vicCmp (s : State) (cl : BitVec 6) (h : BitVec 8) (m : Msg) : State :=
  let s := s.modCluster cl fun c => { c with vicUsed := mset c.vicUsed h.toNat (mgetD 0 c.vicUsed h.toNat - 1) }
  let s := match m.orig with
    | .vcd => s.modCluster cl fun c => match takeFirst (fun w : WbLine => w.line == m.line) c.wb with
        | some (_, r) => { c with wb := r }
        | none => c
    | .vck =>
      match l2Find (s.cluster cl) m.line with
      | some (k, w) =>
        let n := w.vck - 1
        setWay s cl k (some { w with vck := n, st := if w.st = .KE ∧ n = 0 then .E else w.st })
      | none => s
    | _ => s
  match m.tag with
  | .write t => forgetOut s cl t
  | _ => s

/-- A WRP or RED has its CMP: a copy kept in S takes the bytes; the write is performed (R244, R277). -/
def writeCmp (s : State) (cl : BitVec 6) (t : Nat) : State :=
  match (s.cluster cl).outw.find? (·.tag == t) with
  | none => s
  | some o =>
    let s := if o.keep then
        match l2Find (s.cluster cl) o.line with
        | some (k, w) =>
          let s := storeReaches s cl 256 o.line
          let s := s.modCore ⟨cl, o.core⟩ (updateL1 o.line w.ctx o.mask o.data)
          setWay s cl k (some { w with data := mergeLine w.data o.mask o.data })
        | none => s
      else s
    forgetOut s cl t

/-- CMP: a write, an add or a VIC of the requester is done (R238); an isolated cluster's is discarded (R255). -/
def execCmp (dst : Agent) (h : BitVec 8) (s : State) : Out :=
  .next (
    match takeMsg s (.home h) dst .cmp with
    | none => s
    | some (m, s1) =>
      if frozen s then s else
      match dst with
      | .hpt => hostCmp s1 m
      | .cluster cl =>
        if (s.cluster cl).isolated then s1
        else if m.flag then vicCmp s1 cl h m
        else match m.tag with
          | .write t => writeCmp s1 cl t
          | _ => s1
      | _ => s1)

/-- A refused miss: the load or fetch that stalls the core, the atomic that asked for ownership, a store that asked for its
line, or a line move raises 0x04 (R84, R86, R92, R108). -/
def refuseMiss (s : State) (cl : BitVec 6) (x : Miss) : State :=
  let core : CoreId := ⟨cl, x.core⟩
  let s := endMiss s cl x.line
  let s := match l2Find (s.cluster cl) x.line with
    | some (k, w) => if w.st = .UP then forgetWay s cl k x.line else s
    | none => s
  let c := s.core core
  if x.pf || x.l1pf then s
  else match c.pend with
    | some p => if p.dest = .device ∧ p.pa / 64 = x.line then refuseLoad s core p else refuseRest s core c x
    | none => refuseRest s core c x
where
  /-- The refused request was not a load's. -/
  refuseRest (s : State) (core : CoreId) (c : CoreSt) (x : Miss) : State :=
    match c.xwait with
    | some e =>
      if e.code = excContext then raiseExc s core e.code e.addr e.word else refuseStore s core c x
    | none => refuseStore s core c x
  /-- The oldest unsent store to the line, or a line move of the line, is refused. -/
  refuseStore (s : State) (core : CoreId) (c : CoreSt) (x : Miss) : State :=
    match takeFirst (fun e : SbEntry => !e.sent && e.kind == .store && e.dest == .device && e.pa / 64 == x.line) c.sb with
    | some (e, r) => raiseLate (s.modCore core fun c => { c with sb := r }) core e.launch excContext e.pc e.va e.word
    | none =>
      match (movesOn s core x.line).head? with
      | some (i, b) => lmvFail s core i b excContext
      | none => s

/-- A refused write: its core raises 0x04 with the write's own pc (R86); a line of a move fails (R108). -/
def refuseWrite (s : State) (cl : BitVec 6) (t : Nat) : State :=
  match (s.cluster cl).outw.find? (·.tag == t) with
  | none => s
  | some o =>
    let core : CoreId := ⟨cl, o.core⟩
    match o.src with
    | .lmv i b => lmvFail (forgetOut s cl t) core i b excContext
    | .dropped => forgetOut s cl t
    | _ => raiseLate (forgetOut s cl t) core o.launch excContext o.pc o.va o.word

/-- NCX: a refusal reaches the requester (R86, R229). -/
def execNcx (dst : Agent) (h : BitVec 8) (s : State) : Out :=
  .next (
    match takeMsg s (.home h) dst .ncx with
    | none => s
    | some (m, s1) =>
      if frozen s then s else
      match dst with
      | .hpt => hostCmp s1 m
      | .cluster cl =>
        if (s.cluster cl).isolated then s1
        else match m.tag with
          | .write t => refuseWrite s1 cl t
          | _ =>
            match (s.cluster cl).miss.find? (·.line == m.line) with
            | some x => refuseMiss s1 cl x
            | none => s1
      | _ => s1)

/-! ### Retries (R242) -/

/-- RTY: the requester holds its request until CRG. -/
def execRty (dst : Agent) (h : BitVec 8) (s : State) : Out :=
  .next (
    match takeMsg s (.home h) dst .rty with
    | none => s
    | some (m, s1) =>
      if frozen s then s
      else { s1 with retried := s1.retried ++ [{ m with kind := m.orig, src := dst, dst := .home h }] })

/-- CRG: the requester resends its oldest retried request to that home. -/
def execCrg (dst : Agent) (h : BitVec 8) (s : State) : Out :=
  .next (
    match takeMsg s (.home h) dst .crg with
    | none => s
    | some (_, s1) =>
      if frozen s then s else
      match takeFirst (fun m : Msg => m.src == dst && m.dst == .home h) s1.retried with
      | some (m, r) => { s1 with retried := r, net := s1.net ++ [m] }
      | none => s1)

/-! ### Time-outs, reclaims and scans -/

/-- The FWD time-out of a home in ticks: slow cycles, values below 50 act as 50 (R260). -/
def fwdTmo (s : State) (h : BitVec 8) : Nat := max (s.fld (homeReg h Reg.homeFwdTmo) 0 16) 50 * Config.slowTicks

/-- HOME_FWD_TIMEOUT: a cluster has left a FWD unanswered for HOME_FWD_TMO: FWDTMO and a severe fault that names it (R255). -/
def execHomeFwdTimeout (h : BitVec 8) (line : Nat) (cl : BitVec 6) (s : State) : Out :=
  .next (
    match txnOf s h line with
    | none => s
    | some t =>
      if t.wait.contains cl && since s t.fwdTs (fwdTmo s h) && pathUp s (dieOfAgent (.home h)) (dieOfAgent (.cluster cl)) && !(s.cluster cl).isolated && !frozen s then
        raiseAt (s.setFlag (homeReg h Reg.homeStat) 0) (dieCd cl) cl.toNat 0x10 0 (BitVec.ofNat 64 (line * 64))
      else s)

/-- The directory entries of a slice: key and entry. -/
def dirOf (m : MemSt) (h : BitVec 8) : List (Nat × DirEntry) :=
  m.dir.filterMap fun e => if e.1 / 65536 = h.toNat then e.2.map fun d => (e.1, d) else none

/-- The clusters a source of messages is. -/
def fromCluster (cl : BitVec 6) (m : Msg) : Bool := m.src == .cluster cl

/-- Step 1 of a reclaim: the cluster's queued requests are discarded and its entries freed (R256). -/
def discardRequests (s : State) (h : BitVec 8) (cl : BitVec 6) : State :=
  let gone := (s.home h).queue.filter fun q => fromCluster cl q.msg
  let s := s.modHome h fun x => { x with
    queue := x.queue.filter fun q => !fromCluster cl q.msg
    retry := x.retry.filter (· != .cluster cl)
    granted := x.granted.filter (·.1 != .cluster cl) }
  let s := { s with
    retried := s.retried.filter fun m => !(fromCluster cl m && m.dst == .home h)
    net := s.net.filter fun m => !(fromCluster cl m && m.dst == .home h && msgClass m.kind == .req) }
  gone.foldl (fun s q => freeEntry s h (.cluster cl) q.shared) s

/-- One directory entry under a reclaim: the cluster leaves a shared line; a line it owns is marked poisoned where asked, and
its entry cleared (R256, R257). -/
def reclaimEntry (h : BitVec 8) (cl : BitVec 6) (poison : Bool) (s : State) (e : Nat × DirEntry) : State :=
  let d := e.2
  if !d.sharers.getLsbD cl.toNat || lineBusy s h d.line then s
  else
    let sh := d.sharers &&& ~~~clBit cl
    let s := if poison && d.cst == .X then (memPoison s d.line).bump (homeReg h Reg.homePoison) 1 else s
    s.modMem fun m => dirPut m e.1 { d with cst := cstOf d.cst sh, sharers := sh }

/-- A reclaim of a cluster at a slice: it waits for victims that arrived whole, and passes over busy lines until they end
(R256, R257). RECLAIM is set when the die's last slice is done. -/
def reclaimScan (s : State) (h : BitVec 8) (cl : BitVec 6) : State :=
  match (s.home h).reclaim.find? (·.1 == cl) with
  | none => s
  | some (_, poison) =>
    let s := discardRequests s h cl
    if s.net.any (fun m => fromCluster cl m && m.dst == .home h) || (s.home h).vic.any (fromCluster cl) then s
    else
      let s := (dirOf s.mem h).foldl (reclaimEntry h cl poison) s
      if (dirOf s.mem h).any fun e => e.2.sharers.getLsbD cl.toNat then s
      else
        let s := s.modHome h fun x => { x with reclaim := x.reclaim.filter (·.1 != cl) }
        let left := (List.range 128).any fun i =>
          (mget s.mem.homes (i + (if dieOfHome h then 128 else 0))).reclaim.any (·.1 == cl)
        if left then s else s.setFlag (homeReg h Reg.homeStat) 1

/-- CLUSTER_RECLAIM_SCAN (R256, R257). -/
def execClusterReclaimScan (h : BitVec 8) (cl : BitVec 6) (s : State) : Out :=
  .next (if frozen s then s else reclaimScan s h cl)

/-- One directory entry under a host reclaim: HST S becomes I, a line in A is marked poisoned (R258). -/
def hostReclaimEntry (h : BitVec 8) (s : State) (e : Nat × DirEntry) : State :=
  let d := e.2
  if d.hst = .I || lineBusy s h d.line then s
  else
    let s := if d.hst = .A then (memPoison s d.line).bump (homeReg h Reg.homePoison) 1 else s
    s.modMem fun m => dirPut m e.1 { d with hst := .I }

/-- HOST_RECLAIM_SCAN: a slice gives up every host state; HOSTRC is set when the
die's last slice is done, and every page reverts to device bias when all are (R258). -/
def execHostReclaimScan (h : BitVec 8) (s : State) : Out :=
  .next (
    if !(s.home h).hostReclaim || frozen s then s
    else
      let s := (dirOf s.mem h).foldl (hostReclaimEntry h) s
      if (dirOf s.mem h).any fun e => e.2.hst != .I then s
      else
        let s := s.modHome h fun x => { x with hostReclaim := false }
        let left := (List.range 128).any fun i => (mget s.mem.homes (i + (if dieOfHome h then 128 else 0))).hostReclaim
        let s := if left then s else s.setFlag (homeReg h Reg.homeStat) 2
        if (List.range 256).any fun i => (mget s.mem.homes i).hostReclaim then s
        else s.modMem fun m => { m with biasEarly := 0, bias := [], flipping := [] })

/-! ### Bias flips (R253) -/

/-- One line of a flipping page: the host gives it up under a back-invalidation of the scan's own (R253). -/
def flipLine (h : BitVec 8) (s : State) (e : Nat × DirEntry) : State :=
  let d := e.2
  if d.hst = .I || lineBusy s h d.line then s
  else
    let t : Txn := { (default : Txn) with line := d.line, req := { (default : Msg) with line := d.line }, phase := .snoop, bis := some .inv, fwdTs := s.ts, scan := true }
    sendBis (s.modHome h fun x => { x with txns := x.txns ++ [t] }) h d.line .inv

/-- An HPT_BIAS_CMD whose pages no longer flip sets DONE (R414). -/
def hptBiasGo (s : State) : State :=
  match s.hpt.biasJob with
  | none => s
  | some ps =>
    if ps.any fun p => isFlipping s.mem p then s
    else (s.modHpt fun h => { h with biasJob := none }).setFlag Reg.hptBiasStat 0

/-- The flip of a page to device bias ends when all 256 slices have reported. -/
def endFlip (s : State) (page : Nat) : State :=
  hptBiasGo (s.modMem fun m => { setBias m page false with flipping := m.flipping.filter (·.1 != page) })

/-- BIAS_FLIP_SCAN: a slice's scan of a flipping page; the slice reports when no line of the page has a host state and no scan
of its own is open (R253). -/
def execBiasFlipScan (h : BitVec 8) (page : Nat) (s : State) : Out :=
  .next (
    match s.mem.flipping.find? (·.1 == page) with
    | none => s
    | some (_, done) =>
      if frozen s || done.contains h then s
      else
        let mine := fun s : State => (dirOf s.mem h).filter fun e => pageOf e.2.line == page && e.2.hst != .I
        let s := (mine s).foldl (flipLine h) s
        if !(mine s).isEmpty || (s.home h).txns.any (fun t => pageOf t.line == page && t.scan) then s
        else
          let s := s.modMem fun m => { m with flipping := m.flipping.map fun f => if f.1 = page then (f.1, h :: f.2) else f }
          if ((s.mem.flipping.find? (·.1 == page)).map (·.2.length)).getD 0 = 256 then endFlip s page else s)

/-- Begin the flip of a page: at once to shared; to device through the scan; nothing when the page is so already or is
flipping (R253). -/
def beginFlip (s : State) (page : Nat) (shared : Bool) : State :=
  if shared then
    if isFlipping s.mem page then s else s.modMem fun m => setBias m page true
  else if sharedBias s.mem page ∧ !isFlipping s.mem page then s.modMem fun m => { m with flipping := m.flipping ++ [(page, [])] }
  else s

/-- The flip of a page to a bias is done. -/
def flipDone (s : State) (page : Nat) (shared : Bool) : Bool := sharedBias s.mem page == shared && !isFlipping s.mem page

end Sys2Proof.Machine
end

