-- ==== Sys2Proof/Machine/MemEvents.lean ====
section
/-! DEFINITION. The near-memory reduction unit (R213 to R216), range maintenance (R217 to R219) and patrol scrubbing (R222,
R223). -/

namespace Sys2Proof.Machine

/-! ### Near-memory adds -/

/-- The bytes of an add's operand. -/
def redBytes : RedOp → Nat
  | .i32 => 4
  | .i64 => 8
  | .f32 => 4
  | .bf16 => 2

/-- The sum an add leaves (R93). -/
def redSum (op : RedOp) (a b : Nat) : Nat :=
  match op with
  | .i32 => (a + b) % 2 ^ 32
  | .i64 => (a + b) % 2 ^ 64
  | .f32 => nmuAdd fmtF32 a b
  | .bf16 => nmuAdd fmtBf16 a b

/-- The NMU applies the add of a transaction to its line in the base cache; an add to a poisoned line is discarded (R214,
R216). -/
def nmuApply (s : State) (h : BitVec 8) (t : Txn) : State :=
  let m := t.req
  let cls := classOfAgent s (dieOfHome h) m.src m.cls
  let n := redBytes m.red
  let done := fun s : State => endTxn (homeSend s (answer h m .cmp)) h t
  match memRead s t.line cls m.stream with
  | (d, p, s) =>
    if p then done (nmuDrop s h)
    else
      let v := redSum m.red (lineNat d m.off n) (lineNat m.data m.off n)
      done (memWrite s t.line (maskAt m.off n) (lineAt m.off n v) false cls m.stream)

/-- NMU_ADD: the oldest add at a slice whose copies are gone is applied (R213 to R216). -/
def execNmuAdd (h : BitVec 8) (s : State) : Out :=
  .next (if frozen s then s else
    match (s.home h).txns.find? fun t => t.phase == .nmu with
    | none => s
    | some t => nmuApply s h t)

/-! ### Range maintenance -/

/-- Offset of word w of engine n's registers on a die (R219). -/
def rmReg (die : Bool) (n w : Nat) : Nat := Reg.mbd die (Reg.bccRm n w)
/-- The key of engine n of a die. -/
def rmKeyOf (die : Bool) (n : Nat) : Nat := (if die then 64 else 0) + n
/-- A 64-bit value from two register words. -/
def regPair (s : State) (lo : Nat) : Nat := (s.reg lo).toNat + (s.reg (lo + 4)).toNat * 2 ^ 32
/-- Set a 64-bit value in two register words. -/
def setRegPair (s : State) (lo : Nat) (v : BitVec 64) : State :=
  (s.setReg lo (v.extractLsb' 0 32)).setReg (lo + 4) (v.extractLsb' 32 32)

/-- The operation that a command's OP names; 0b00 names none (R219). -/
def rmOpOf (op : BitVec 2) : Option RmOp :=
  match op with
  | 1 => some .clean
  | 2 => some .invalidate
  | 3 => some .cleanInvalidate
  | _ => none

/-- A write to BCC_RMn_CMD: refused while the engine is busy, an error with nothing done, or a snapshot of the range (R219). -/
def rmCmd (s : State) (die : Bool) (n : Nat) (op : Option RmOp) : State :=
  let stat := rmReg die n 0x14
  let addr := regPair s (rmReg die n 0x00)
  let len := regPair s (rmReg die n 0x08)
  if 32 < n then s
  else if (mgetD none s.mem.rm (rmKeyOf die n)).isSome then s.setFlag stat 1
  else match op with
    | none => s.setFlag stat 2
    | some op =>
      if len = 0 ∨ addr % 64 ≠ 0 ∨ len % 64 ≠ 0 ∨ 0x080000000000 < addr + len then s.setFlag stat 2
      else s.modMem fun m => { m with rm := mset m.rm (rmKeyOf die n) (some ⟨op, addr, len, none, []⟩) }

/-- RM_CLEAN (R217, R219). -/
def execRmClean (ag : RegAgent) (die : Bool) (n : BitVec 6) (s : State) : Out :=
  .next (withReg s ag (rmReg die n.toNat 0x10) fun s => rmCmd s die n.toNat (some .clean))
/-- RM_INVALIDATE (R217, R219). -/
def execRmInvalidate (ag : RegAgent) (die : Bool) (n : BitVec 6) (s : State) : Out :=
  .next (withReg s ag (rmReg die n.toNat 0x10) fun s => rmCmd s die n.toNat (some .invalidate))
/-- RM_CLEAN_INVALIDATE (R217, R219). -/
def execRmCleanInvalidate (ag : RegAgent) (die : Bool) (n : BitVec 6) (s : State) : Out :=
  .next (withReg s ag (rmReg die n.toNat 0x10) fun s => rmCmd s die n.toNat (some .cleanInvalidate))

/-- A line lies in a range. -/
def inRange (r : RmRun) (line : Nat) : Bool := decide (r.addr ≤ line * 64 ∧ line * 64 < r.addr + r.len)

/-- A cluster engine tells the home of a removed line with VCN (R217, R246). -/
def rmDrop (s : State) (cl : BitVec 6) (key : Nat) (w : L2Way) : State :=
  sendVic (forgetWay s cl key w.line) cl .vcn w.line 0 false .vic

/-- One line in a cluster engine's step: none while the line is in transit, held, or without a slot (R217, R218, R236, R282);
the flag says that a write went out. -/
def rmClusterLine (s : State) (cl : BitVec 6) (op : RmOp) (line : Nat) : Option (Bool × State) :=
  let c := s.cluster cl
  if inTransit c line then none
  else match l2Find c line with
    | none => some (false, s)
    | some (k, w) =>
      if (holder s cl w).isSome ∨ w.st = .UP ∨ w.st = .KE ∨ !vicSlot s cl line then none
      else match op with
        | .clean => if w.st = .M then some (true, writeThrough s cl k w .vic) else some (false, s)
        | .invalidate => some (false, rmDrop s cl k w)
        | .cleanInvalidate =>
          if w.st = .M then some (true, evictWay s cl k w .vic) else some (false, rmDrop s cl k w)

/-- A base-die engine's step on one way of its base cache: a dirty line goes to its stack, and leaves or stays clean (R217). -/
def rmBaseWay (r : RmRun) (m : MemSt) (e : Nat × Option BccWay) : MemSt :=
  match e.2 with
  | none => m
  | some w =>
    if !inRange r w.line then m
    else
      let m := if r.op != .invalidate && w.dirty then stackWrite m w.line w.data w.poison else m
      { m with bcc := mset m.bcc e.1 (if r.op = .clean then some { w with dirty := false } else none) }

/-- The lines of a range that a cluster's L2 holds. -/
def rmLines (s : State) (cl : BitVec 6) (r : RmRun) : List Nat :=
  (s.cluster cl).l2.filterMap fun e => e.2.bind fun w => if inRange r w.line then some w.line else none

/-- A write of the engine has become visible: the line is in WB or KE no more. -/
def rmVisible (s : State) (cl : BitVec 6) (line : Nat) : Bool :=
  let c := s.cluster cl
  !(c.wb.any (·.line == line)) && ((l2Find c line).map (fun e => e.2.vck == 0)).getD true

/-- The engine ends: STAMP and DONE (R219). -/
def rmFinish (s : State) (die : Bool) (n : Nat) : State :=
  (setRegPair (s.modMem fun m => { m with rm := mset m.rm (rmKeyOf die n) none }) (rmReg die n 0x18) s.ts).setFlag
    (rmReg die n 0x14) 0

/-- A cluster engine passes the lines it can pass now, once each. -/
def rmClusterStep (s : State) (die : Bool) (n : Nat) (cl : BitVec 6) (r : RmRun) : State :=
  let one := fun (a : State × List Nat × List Nat) (line : Nat) =>
    match rmClusterLine a.1 cl r.op line with
    | some (true, t) => (t, a.2.1, line :: a.2.2)
    | some (false, t) => (t, a.2.1, a.2.2)
    | none => (a.1, a.2.1 ++ [line], a.2.2)
  match (r.todo.getD (rmLines s cl r)).foldl one (s, [], r.wrote) with
  | (t, todo, wrote) =>
    let wait := wrote.filter fun line => !rmVisible t cl line
    if todo.isEmpty && wait.isEmpty then rmFinish t die n
    else t.modMem fun m => { m with rm := mset m.rm (rmKeyOf die n) (some { r with todo := some todo, wrote := wait }) }

/-- RM_DONE: a running engine does its lines, and ends when every write of it is visible (R217, R218). A cluster engine works
while its cluster's clock runs. -/
def execRmDone (die : Bool) (n : BitVec 6) (s : State) : Out :=
  .next (if frozen s then s else
    match mgetD none s.mem.rm (rmKeyOf die n.toNat) with
    | none => s
    | some r =>
      if n = 32 then
        let mine := s.mem.bcc.filter fun e => dieOfHome (BitVec.ofNat 8 (e.1 / 65536)) == die
        rmFinish (s.modMem fun m => mine.foldl (rmBaseWay r) m) die 32
      else
        let cl := BitVec.ofNat 6 (n.toNat + if die then 32 else 0)
        let c := s.cluster cl
        if c.pll = .running ∧ !c.isolated then rmClusterStep s die n.toNat cl r else s)

/-! ### Patrol scrubbing -/

/-- The stack controller of a line on its base die, 0 to 3 near and 4 to 7 far, and the tier-wide stack number (R193, R523);
none outside the near and far tiers. -/
def scrubPlace (m : MemSt) (line : Nat) : Option (Bool × Nat × Nat × Nat) :=
  match locate m (line * 64) with
  | some (.near, A) => some (false, stackOf m.nearMode A, stackOffset m.nearMode A, tierSize .near / 8)
  | some (.far, A) => some (true, stackOf m.farMode A, stackOffset m.farMode A, tierSize .far / 8)
  | _ => none

/-- A scrub read found an error: SCR_STAT, the counter and the event (R223, R505, R523). -/
def scrubError (s : State) (die far : Bool) (n line : Nat) (bad : Bool) : State :=
  let s := s.setFlag (Reg.mbd die Reg.scrStat) (if bad then 1 else 0)
  let s := s.bump (Reg.mbd die (if bad then Reg.scrUe else Reg.scrCe)) 1
  raiseAt s (dieMbd die) n ((if far then 3 else 1) + (if bad then 1 else 0)) 0 (BitVec.ofNat 64 (line * 64))

/-- SCRUB_READ: the scrubber reads a line that its home is not using. A corrected line is written back or, when dirty above,
left; an uncorrectable one is marked poisoned in its stack (R222, R223). -/
def execScrubRead (die : Bool) (line : Nat) (found : EccOutcome) (s : State) : Out :=
  .next (
    match scrubPlace s.mem line with
    | none => s
    | some (far, n, o, size) =>
      let h := homeOf s.mem line
      if dieOfHome h ≠ die ∨ !(s.reg (Reg.mbd die Reg.scrCtl)).getLsbD 0 ∨ lineBusy s h line ∨ frozen s then s
      else
        let key := (if die then 8 else 0) + n % 4 + (if far then 4 else 0)
        let s := s.modMem fun m => { m with scrub := mset m.scrub key ((o + 64) * 1000 / size % 1000) }
        match found with
        | .clean => s
        | .corrected => scrubError s die far n line false
        | .uncorrectable => scrubError (s.modMem fun m => setPoison m line true) die far n line true)

/-- SCRUB_OVERRUN: a pass has overrun its period by 25 %: OVERRUN and a notice (R222, R523). -/
def execScrubOverrun (die : Bool) (stack : BitVec 3) (s : State) : Out :=
  .next (if frozen s then s else
    raiseAt (s.setFlag (Reg.mbd die Reg.scrStat) 2) (dieMbd die) (stack.toNat % 4 + if die then 4 else 0) 0x27 0 0)

end Sys2Proof.Machine
end

