-- ==== Sys2Proof/Machine/Prism.lean ====
section
/-! DEFINITION. Prism (R379 to R395): trees, chunks, combining, coverage, loss and repair, and what a member does with each
packet of its tree. -/

namespace Sys2Proof.Machine

/-! ### Accessors -/

/-- A tree, when it is loaded. -/
def treeOf (s : State) (t : BitVec 6) : Option Tree := mgetD none s.prz.trees t.toNat
/-- Set or clear a tree. -/
def setTree (s : State) (t : BitVec 6) (x : Option Tree) : State :=
  { s with prz := { s.prz with trees := mset s.prz.trees t.toNat x } }
/-- The running collective of a tree. -/
def collOf (s : State) (t : BitVec 6) : Option Coll := (treeOf s t).bind (·.coll)
/-- Change the running collective of a tree. -/
def modColl (s : State) (t : BitVec 6) (f : Coll → Coll) : State :=
  match treeOf s t with
  | none => s
  | some x => setTree s t (some { x with coll := x.coll.map f })
/-- Change the child with a rank. -/
def modKid (s : State) (t : BitVec 6) (rank : BitVec 16) (f : Child → Child) : State :=
  modColl s t fun c => { c with kids := modFirst (fun k : Child => k.rank == rank && k.live) f c.kids }
/-- Live children in order. -/
def liveKids (c : Coll) : List Child := c.kids.filter (·.live)

/-- What a line holds now, read as RDC would answer and without an effect: the owner's copy, else the home's. -/
def peekLine (s : State) (line : Nat) : Line :=
  let e := dirGet s.mem line
  let own := if e.cst = .X then (sharersOf e.sharers).head? else none
  match own.bind fun o => l2Find (s.cluster o) line with
  | some (_, w) => w.data
  | none => (memPeek s.mem line).1

/-- The rank of a member index, from the tree's member list (R379). -/
def memberRank (s : State) (x : Tree) (i : Nat) : BitVec 16 :=
  let a := x.members + 2 * i
  BitVec.ofNat 16 (lineNat (peekLine s (a / 64)) (a % 64) 2)

/-- The physical address of a rank, where its entry is valid (R362). -/
def rankAddr (s : State) (rank : BitVec 16) : Option (BitVec 16) :=
  let e := match mgetD none s.fab.rankTab rank.toNat with
    | some e => e
    | none =>
      let a := baseOf s Reg.fabRanktab 12 + 4 * rank.toNat
      BitVec.ofNat 32 (lineNat (peekLine s (a / 64)) (a % 64) 4)
  if e.getLsbD 31 then some (e.extractLsb' 0 16) else none

/-- The parent is the root: member index 0 has its rank (R380). -/
def parentIsRoot (s : State) (x : Tree) (c : Coll) : Bool := memberRank s x 0 == c.parentRank

/-! ### Chunks -/

/-- Chunks of a collective (R385). -/
def chunkCount (c : Coll) : Nat := (c.len + 63) / 64
/-- Lines of chunk k. -/
def chunkLines (c : Coll) (k : Nat) : Nat := min 64 (c.len - 64 * k)

/-- The key of a line across a posted path. -/
def gotKey (d : Dest) (pa : Nat) : Nat :=
  match d with
  | .device => pa / 64
  | .fabric r => 2 ^ 60 + r.toNat * 2 ^ 40 + pa / 64
  | .bus => 2 ^ 80 + pa / 64

/-- Read one line of SRC: its data and poison, a refusal counting as poison (log entry 32); none while it must wait. -/
def przReadLine (s : State) (t : BitVec 6) (x : Tree) (c : Coll) (va : Nat) : Option (Line × Bool) × State :=
  match leafFor c.pages va .read with
  | none => (none, s)
  | some l =>
    let pa := physOf l va
    let key := gotKey (destOf l) pa
    let asked := fun s : State => (none, modColl s t fun c => { c with got := (key, none) :: c.got })
    match destOf l with
    | .device =>
      match agentReadAny s .dsp 1 x.ctx (pa / 64) false with
      | .ok (d, p, s) => (some (d, p), s)
      | .busy q => (none, s.ask q)
      | .refused => (some (Config.poisonData (pa / 64), true), s)
    | dest =>
      match c.got.find? (·.1 == key) with
      | some (_, some r) => (some r, s)
      | some (_, none) => (none, s)
      | none =>
        match dest with
        | .fabric r =>
          match fabRead s r (przFlow t) x.ctx pa 1 (.prism t) with
          | .sent s => asked s
          | .wait s => (none, s)
          | .dead s => (some (Config.poisonData (pa / 64), true), s)
        | _ =>
          match svpRead s x.ctx pa (.prism t) with
          | .sent s => asked s
          | .wait s => (none, s)
          | .dropped s => (some (Config.poisonData (pa / 64), true), s)

/-- A line that Prism asked for across a posted path has come. -/
def przData (s : State) (t : BitVec 6) (key : Nat) (d : Line) (p : Bool) : State :=
  modColl s t fun c => { c with got := (key, some (d, p)) :: c.got.filter (·.1 != key) }

/-- Read n lines of SRC from a line on; none while one must wait. -/
def przReadLines (t : BitVec 6) (x : Tree) (c : Coll) (va : Nat) : Nat → State → Option (List Line × Bool) × State
  | 0, s => (some ([], false), s)
  | n + 1, s =>
    match przReadLine s t x c va, s with
    | (none, s), _ => (none, s)
    | (some (d, p), s), _ =>
      match przReadLines t x c (va + 64) n s with
      | (none, s) => (none, s)
      | (some (ds, q), s) => (some (d :: ds, p || q), s)

/-- Read chunk k of SRC (R385, R386). -/
def readChunk (s : State) (t : BitVec 6) (x : Tree) (c : Coll) (k : Nat) : Option Chunk × State :=
  match przReadLines t x c (c.src.toNat + 4096 * k) (chunkLines c k) s with
  | (none, s) => (none, s)
  | (some (ds, p), s) => (some (k, ds, p), modColl s t fun c => { c with got := c.got.filter (·.2.isNone) })

/-- Write one line at a virtual address; a refused or lost line is not written (log entry 32); an error while it must wait. -/
def przWriteLine (s : State) (t : BitVec 6) (x : Tree) (c : Coll) (va : Nat) (d : Line) (p : Bool) : Except Ask State :=
  match leafFor c.pages va .write with
  | none => .error none
  | some l =>
    let pa := physOf l va
    match destOf l with
    | .device =>
      match agentWrite s .dsp 1 x.ctx (pa / 64) Mask.full d p false with
      | .ok s => .ok s
      | .busy q => .error q
      | .refused => .ok s
    | .fabric r =>
      match fabWrite s r (przFlow t) x.ctx pa Mask.full d p (.prism t) with
      | .sent s => .ok s
      | .wait _ => .error none
      | .dead s => .ok (s.setFlag Reg.fabDrainStat 0)
    | .bus =>
      match svpWrite s x.ctx pa Mask.full d (.prism t) with
      | .sent s => .ok s
      | .wait _ => .error none
      | .dropped s => .ok s

/-- Write lines one after another; an error while one must wait. -/
def przWriteLines (t : BitVec 6) (x : Tree) (c : Coll) (p : Bool) : Nat → List Line → State → Except Ask State
  | _, [], s => .ok s
  | va, d :: ds, s =>
    match przWriteLine s t x c va d p with
    | .error q => .error q
    | .ok s => przWriteLines t x c p (va + 64) ds s

/-- Write a chunk to DST (R385). -/
def writeChunk (s : State) (t : BitVec 6) (x : Tree) (c : Coll) (k : Chunk) : Except Ask State :=
  przWriteLines t x c k.2.2 (c.dst.toNat + 4096 * k.1) k.2.1 s

/-! ### Combining (R386) -/

/-- A binary32 sum, nearest even. -/
def sum32 (a b : Nat) : Nat := nmuAdd fmtF32 a b
/-- A bf16 value as binary32. -/
def bf16To32 (a : Nat) : Nat := a % 65536 * 65536
/-- A binary32 value rounded to bf16. -/
def f32ToBf16 (a : Nat) : Nat := (roundFp fmtBf16 (.mode 0) false .ieee .either (decodeFp fmtF32 a)).1

/-- The bytes of an element (R381 DTYPE). -/
def elemBytes (dtype : Nat) : Nat :=
  match dtype with
  | 1 => 8
  | 3 => 8
  | 4 => 2
  | _ => 4

/-- The format of a float element. -/
def elemFmt (dtype : Nat) : Fmt :=
  match dtype with
  | 3 => fmtF64
  | 4 => fmtBf16
  | _ => fmtF32

/-- A float is NaN. -/
def fmtNan (f : Fmt) (v : Nat) : Bool := decide (f.inf false < v % 2 ^ (f.eb + f.mb))

/-- A float order by its bits: sign and magnitude as an integer. -/
def floatOrd (f : Fmt) (v : Nat) : Int :=
  let m : Int := (v % 2 ^ (f.eb + f.mb) : Nat)
  if v / 2 ^ (f.eb + f.mb) % 2 = 1 then -m else m

/-- Max or min of two floats; with a NaN, or of two zeros, a free value (log entry 29). -/
def floatPick (f : Fmt) (max : Bool) (a b : Nat) : Nat :=
  if fmtNan f a || fmtNan f b || (floatOrd f a == 0 && floatOrd f b == 0) then Config.przMaxMin a b % 2 ^ f.bits
  else if (floatOrd f a < floatOrd f b) == max then b else a

/-- Max or min of two integers of n bytes. -/
def intPick (n : Nat) (max : Bool) (a b : Nat) : Nat :=
  if ((BitVec.ofNat (8 * n) a).toInt < (BitVec.ofNat (8 * n) b).toInt) == max then b else a

/-- Combine one element of own and children's values, in child order (R386). -/
def combineElem (dtype rop : Nat) (own : Nat) (kids : List Nat) : Nat :=
  let n := elemBytes dtype
  let float := decide (2 ≤ dtype)
  if rop = 0 then
    match dtype with
    | 4 => f32ToBf16 ((kids.map bf16To32).foldl sum32 (bf16To32 own))
    | 2 => kids.foldl sum32 own
    | 3 => kids.foldl (fun a b => nmuAdd fmtF64 a b) own
    | _ => (own + kids.foldl (· + ·) 0) % 2 ^ (8 * n)
  else if float then kids.foldl (floatPick (elemFmt dtype) (rop == 1)) own
  else kids.foldl (intPick n (rop == 1)) own

/-- Combine one line. -/
def combineLine (dtype rop : Nat) (own : Line) (kids : List Line) : Line :=
  let n := elemBytes dtype
  BitVec.ofNat 512 ((List.range (64 / n)).foldl (fun a i =>
    a + (combineElem dtype rop (lineNat own (n * i) n) (kids.map fun l => lineNat l (n * i) n)) % 2 ^ (8 * n) * 2 ^ (8 * n * i)) 0)

/-- Combine chunk k of the own SRC with that of each child. -/
def combineChunk (c : Coll) (own : Chunk) (kids : List Chunk) : Chunk :=
  let line := fun i : Nat => combineLine c.dtype c.rop ((own.2.1[i]?).getD 0) (kids.map fun k => (k.2.1[i]?).getD 0)
  (own.1, (List.range own.2.1.length).map line, own.2.2 || kids.any (·.2.2))

/-! ### Packets (R384) -/

/-- A packet of a tree. -/
def przPacket (t : BitVec 6) (ctx : Ctx) (seq : BitVec 32) (ty : BitVec 8) (rank : BitVec 16) (low : BitVec 26)
    (body : BitVec 256) (pay : List Line) (poison : Bool) : Packet :=
  { (default : Packet) with
    ty := ty, cls := if ty = 0x08 then 2 else 1, drank := rank, flow := if ty = 0x08 then przFlow t else przCtlFlow t,
    ctx := ctx, arg := seq ++ (t ++ low), body := body, pay := pay, poison := poison }

/-- Something has been sent to a neighbour (R388). -/
def noteTx (s : State) (t : BitVec 6) (rank : BitVec 16) : State :=
  modColl s t fun c => { c with
    parentTx := if c.parentRank = rank then s.ts else c.parentTx
    kids := c.kids.map fun k => if k.rank = rank then { k with lastTx := s.ts } else k }

/-- A control packet waits to be sent. -/
def queueCtl (s : State) (t : BitVec 6) (x : Tree) (c : Coll) (ty : BitVec 8) (rank : BitVec 16) (low : BitVec 26)
    (body : BitVec 256) (pay : List Line) : State :=
  { s with prz := { s.prz with out := s.prz.out ++ [(t, przPacket t x.ctx c.seq ty rank low body pay false)] } }

/-- The same control packet to each live child. -/
def toKids (s : State) (t : BitVec 6) (x : Tree) (c : Coll) (ty : BitVec 8) (low : BitVec 26) (body : BitVec 256)
    (pay : List Line) : State :=
  (liveKids c).foldl (fun s k => queueCtl s t x c ty k.rank low body pay) s

/-- A control packet to the parent, where there is one. -/
def toParent (s : State) (t : BitVec 6) (x : Tree) (c : Coll) (ty : BitVec 8) (low : BitVec 26) (body : BitVec 256)
    (pay : List Line) : State :=
  if x.root || c.parentLost then s else queueCtl s t x c ty c.parentRank low body pay

/-- Send the control packets that can be sent, in order for each destination. -/
def przPump (s : State) : State :=
  let step := fun (a : State × List (BitVec 6 × Packet)) (e : BitVec 6 × Packet) =>
    if a.2.any (fun f => f.2.drank == e.2.drank && f.2.flow == e.2.flow) then (a.1, a.2 ++ [e])
    else match sendRank a.1 e.2 [] a.1.ts with
      | .sent s => (noteTx s e.1 e.2.drank, a.2)
      | .wait s => (s, a.2 ++ [e])
      | .dead s => (s, a.2)
  match s.prz.out.foldl step (s, []) with
  | (s, rest) => { s with prz := { s.prz with out := rest } }

/-- A sender's index in bytes 0 and 1, another 16-bit value in 2 and 3, a third in 4 and 5. -/
def bodyOf (a b c : BitVec 16) : BitVec 256 := (c ++ (b ++ a)).setWidth 256

/-- Send one chunk to a neighbour. -/
def sendChunk (s : State) (t : BitVec 6) (x : Tree) (c : Coll) (rank : BitVec 16) (k : Chunk) : SendRes :=
  match sendRank s (przPacket t x.ctx c.seq 0x08 rank (BitVec.ofNat 26 k.1) 0 k.2.1 k.2.2) [] s.ts with
  | .sent s => .sent (noteTx s t rank)
  | r => r

/-! ### Ranges of member indices (R389) -/

/-- Add a range, merging it with the one it touches before it. -/
def mergeRange (l : List (BitVec 16 × BitVec 16)) (r : BitVec 16 × BitVec 16) : List (BitVec 16 × BitVec 16) :=
  let sorted := sortBy (fun a b => decide (a.1.toNat ≤ b.1.toNat)) (r :: l)
  sorted.foldr (fun x acc => match acc with
    | [] => [x]
    | y :: t => if y.1.toNat ≤ x.2.toNat + 1 then (x.1, if x.2.toNat < y.2.toNat then y.2 else x.2) :: t else x :: y :: t) []

/-- Entries as a payload: lo in the low half of each 4 bytes (R389). -/
def entryLines (es : List (BitVec 16 × BitVec 16)) : List Line :=
  (List.range ((es.length + 15) / 16)).map fun i =>
    BitVec.ofNat 512 ((List.range 16).foldl (fun n j =>
      n + ((es[16 * i + j]?).map fun e => (e.2 ++ e.1).toNat).getD 0 * 2 ^ (32 * j)) 0)

/-- The n entries of a payload from entry i on. -/
def linesEntries (ls : List Line) (i n : Nat) : List (BitVec 16 × BitVec 16) :=
  (List.range n).map fun j =>
    let k := i + j
    let v := BitVec.ofNat 32 (lineNat ((ls[k / 16]?).getD 0) (4 * (k % 16)) 4)
    (v.extractLsb' 0 16, v.extractLsb' 16 16)

/-- DONE packets to the parent that carry covered ranges and lost entries, at most 1,024 in each, MORE in all but the last. -/
def sendDones (t : BitVec 6) (x : Tree) (c : Coll) : Nat → List (BitVec 16 × BitVec 16) → List (BitVec 16 × BitVec 16) → State → State
  | 0, _, _, s => s
  | n + 1, cov, lost, s =>
    let cv := cov.take 1024
    let ls := lost.take (1024 - cv.length)
    let more := decide (cv.length < cov.length ∨ ls.length < lost.length)
    let low := (BitVec.ofBool more) ++ (0#3 ++ (BitVec.ofNat 11 ls.length ++ BitVec.ofNat 11 cv.length))
    let s := toParent s t x c 0x22 low 0 (entryLines (cv ++ ls))
    if more then sendDones t x c n (cov.drop cv.length) (lost.drop ls.length) s else s

/-- Report ranges and entries up, or settle them at the root (R389, R392). -/
def reportUp (s : State) (t : BitVec 6) (x : Tree) (c : Coll) (cov lost : List (BitVec 16 × BitVec 16)) : State :=
  let s := modColl s t fun c => { c with covered := cov.foldl mergeRange c.covered, lost := c.lost ++ lost, eventTs := s.ts }
  if x.root || !c.sentDone || (cov.isEmpty && lost.isEmpty) then s
  else sendDones t x c (cov.length + lost.length) cov lost s

/-! ### The end of a member's collective (R387) -/

/-- A collective of the tree ends on this member: the command's record carries the count, SEQ and flags (R387). -/
def przEnd (s : State) (t : BitVec 6) (x : Tree) (c : Coll) (status : BitVec 8) (count : Nat) (flags : BitVec 8) : State :=
  let s := match mgetD none s.dsp.colls t.toNat with
    | none => s
    | some cmd =>
      let flags := flags ||| (if x.root then 1 else 0)
      completeCmd (s.modDsp fun d => { d with colls := mset d.colls t.toNat none }) cmd status
        (if c.wrote.isEmpty then none else some (s.ts, 0)) { lo := count, hi := c.seq.toNat + flags.toNat * 2 ^ 32 }
  match treeOf s t with
  | none => s
  | some x => setTree s t (some { x with coll := none })

/-- A member ends without a SUMMARY: the count in its record is a free value (log entry 31). -/
def przEndFree (s : State) (t : BitVec 6) (x : Tree) (c : Coll) (status flags : BitVec 8) : State :=
  let (n, s) := s.draw
  przEnd s t x c status (Config.przCount n).toNat flags

/-- A member fails or is unloaded: LEAVE to its parent and children, and its end (R379, R387). -/
def przLeave (s : State) (t : BitVec 6) (x : Tree) (c : Coll) (reason : BitVec 26) (status flags : BitVec 8) : State :=
  let b := bodyOf x.own x.hi 0
  przPump (przEndFree (toKids (toParent s t x c 0x28 reason b []) t x c 0x28 reason b []) t x c status flags)

/-- A translation fault of a Prism command is resolved FATAL (R320, R387). -/
def przFatal (s : State) (t : BitVec 6) : State :=
  match treeOf s t with
  | none => s
  | some x =>
    match x.coll with
    | none => s
    | some c => przLeave s t x c 1 stXltfault 0

/-- An orphan ends with PARTIAL, without a bitmap (R390). -/
def przOrphan (s : State) (t : BitVec 6) (x : Tree) (c : Coll) : State :=
  (przEndFree s t x c stPartial 2).setFlag Reg.przStat 2

/-- The root is lost: ABORT to the children, and the end with PARTIAL (R390). -/
def przRootLost (s : State) (t : BitVec 6) (x : Tree) (c : Coll) : State :=
  przPump ((przEndFree (toKids s t x c 0x27 0 0 []) t x c stPartial 4).setFlag Reg.przStat 3)

/-! ### A member's own progress -/

/-- Retranslate a paused collective's pages; it goes on once it has them all (R308). -/
def przRetranslate (s : State) (t : BitVec 6) : State :=
  match collOf s t, mgetD none s.dsp.colls t.toNat with
  | some c, some cmd =>
    if !c.paused then s
    else match readGen s cmd.ctx with
      | .error q => s.ask q
      | .ok (g, s) =>
        let s := if c.gen = g then s else modColl s t fun c => { c with gen := g, pages := [] }
        let need := (cmdRanges s cmd).flatMap fun r => (rangePages r.1 r.2.1).map fun p => (p, r.2.2)
        let one := fun (s : State) (q : Nat × Access) =>
          if ((collOf s t).map fun c => c.pages.any (·.1 == q)).getD true then s
          else match engTranslate s (.prism t) cmd.ctx (BitVec.ofNat 64 q.1) q.2 with
            | .ok l s => modColl s t fun c => { c with pages := c.pages ++ [(q, l)] }
            | .miss s => s
        let s := need.foldl one s
        modColl s t fun c => { c with paused := !(need.all fun q => c.pages.any (·.1 == q)) }
  | _, _ => s

/-- A member takes the chunks that have arrived: each is written once and goes on to every child (R385, R391). -/
def przTakeIn (t : BitVec 6) : Nat → State → State
  | 0, s => s
  | n + 1, s =>
    match treeOf s t with
    | none => s
    | some x =>
      match x.coll with
      | none => s
      | some c =>
        match c.inq with
        | [] => s
        | k :: rest =>
          let pass := fun s : State => modColl s t fun c => { c with
            inq := rest
            wrote := if c.wrote.contains k.1 then c.wrote else k.1 :: c.wrote
            kids := c.kids.map fun i => if i.live then { i with sendq := i.sendq ++ [k] } else i }
          if c.wrote.contains k.1 then przTakeIn t n (pass s)
          else if c.paused then s
          else match writeChunk s t x c k with
            | .error q => s.ask q
            | .ok s => przTakeIn t n (pass s)

/-- Chunk k of each live child that is not adopted, in child order; none while one is missing (R386). -/
def kidChunks (c : Coll) (k : Nat) : Option (List Chunk) :=
  (liveKids c).foldr (fun i acc => if i.adopted then acc else
    match acc, i.chunks.find? (·.1 == k) with
    | some l, some x => some (x :: l)
    | _, _ => none) (some [])

/-- The result of chunk k at this node goes on: up to the parent, or at the root into DST and, for ALLREDUCE, down (R386). -/
def przResult (s : State) (t : BitVec 6) (x : Tree) (c : Coll) (k : Chunk) : Except Ask State :=
  let next := fun s : State => modColl s t fun c => { c with upNext := c.upNext + 1 }
  if x.root then
    (writeChunk s t x c k).map fun s => next (modColl s t fun c => { c with
      wrote := k.1 :: c.wrote
      result := if c.op = 2 then c.result ++ [k] else c.result })
  else if !c.parentReady then .error none
  else match sendChunk s t x c c.parentRank k with
    | .sent s => .ok (next s)
    | .wait _ => .error none
    | .dead s => .ok (next s)

/-- The reduction phase goes on by up to n chunks; poison in the own SRC ends the member's command (R386, R387). -/
def przReduce (t : BitVec 6) : Nat → State → State
  | 0, s => s
  | n + 1, s =>
    match treeOf s t with
    | none => s
    | some x =>
      match x.coll with
      | none => s
      | some c =>
        if c.paused || !(c.op == 1 || c.op == 2) || c.joined || c.parentLost || decide (chunkCount c ≤ c.upNext) then s
        else match kidChunks c c.upNext with
          | none => s
          | some ks =>
            match readChunk s t x c c.upNext with
            | (none, s) => s
            | (some own, s) =>
              if own.2.2 then przLeave s t x c 2 stPoison 0
              else match przResult s t x c (combineChunk c own ks) with
                | .error q => s.ask q
                | .ok s =>
                  let drop := fun i : Child => { i with chunks := i.chunks.filter (·.1 != c.upNext) }
                  przReduce t n (modColl s t fun c => { c with kids := c.kids.map drop })

/-- The chunk that the root sends next: of SRC for BCAST, of the result for ALLREDUCE. -/
def rootChunk (s : State) (t : BitVec 6) (x : Tree) (c : Coll) (k : Nat) : Option Chunk × State :=
  if c.op = 0 then (if c.paused then (none, s) else readChunk s t x c k)
  else (c.result.find? (·.1 == k), s)

/-- Send a child what it may have now, up to n chunks (R383, R385, R391). -/
def przDown (t : BitVec 6) (rank : BitVec 16) : Nat → State → State
  | 0, s => s
  | n + 1, s =>
    match treeOf s t with
    | none => s
    | some x =>
      match x.coll with
      | none => s
      | some c =>
        match (liveKids c).find? (·.rank == rank) with
        | none => s
        | some i =>
          if !i.ready || !(c.op == 0 || c.op == 2) then s
          else if x.root then
            if chunkCount c ≤ i.next then s
            else match rootChunk s t x c i.next with
              | (none, s) => s
              | (some k, s) =>
                let go := fun s : State => przDown t rank n (modKid s t rank fun i => { i with next := i.next + 1 })
                match sendChunk s t x c rank k with
                | .sent s => go s
                | .wait s => s
                | .dead s => go s
          else match i.sendq with
            | [] => s
            | k :: rest =>
              let go := fun s : State => przDown t rank n (modKid s t rank fun i => { i with sendq := rest })
              match sendChunk s t x c rank k with
              | .sent s => go s
              | .wait s => s
              | .dead s => go s

/-- The root has sent every chunk to each live child. -/
def sentAll (c : Coll) : Bool := (liveKids c).all fun i => decide (chunkCount c ≤ i.next)

/-- A node's own part is done (R389). -/
def ownDone (x : Tree) (c : Coll) : Bool :=
  match c.op with
  | 0 => if x.root then sentAll c else decide (chunkCount c ≤ c.wrote.length)
  | 1 => decide (chunkCount c ≤ c.upNext) || c.joined
  | 2 => if x.root then decide (chunkCount c ≤ c.upNext) && sentAll c else decide (chunkCount c ≤ c.wrote.length)
  | _ => true

/-- DONE goes up when the own part is done and every child has sent DONE or is lost (R389); to a parent whose READY has come
(log entry 33). The root covers its own index. -/
def przDoneUp (s : State) (t : BitVec 6) : State :=
  match treeOf s t with
  | none => s
  | some x =>
    match x.coll with
    | none => s
    | some c =>
      if c.sentDone || !ownDone x c || (liveKids c).any (fun k => !k.done) then s
      else if x.root then modColl s t fun c => { c with sentDone := true, covered := mergeRange c.covered (x.own, x.own) }
      else if !c.parentReady || c.parentLost || c.joining.isSome then s
      else
        let cov := mergeRange c.covered (x.own, x.own)
        let s := modColl s t fun c => { c with sentDone := true, covered := cov }
        sendDones t x c (cov.length + c.lost.length) cov c.lost s

/-! ### The root settles (R392) -/

/-- A member index lies in a covered range. -/
def isCovered (c : Coll) (i : Nat) : Bool := c.covered.any fun r => decide (r.1.toNat ≤ i ∧ i ≤ r.2.toNat)
/-- A lost entry names a member index. -/
def isLost (c : Coll) (i : Nat) : Bool := c.lost.any fun r => r.1.toNat == i
/-- Every index is settled. -/
def allSettled (x : Tree) (c : Coll) : Bool := (List.range x.n).all fun i => isCovered c i || isLost c i
/-- The unreached members: unsettled, or named as lost. -/
def unreached (x : Tree) (c : Coll) : List Nat := (List.range x.n).filter fun i => !isCovered c i || isLost c i

/-- A half of the bitmap by rank: 64 lines from byte 4,096 × half on (R384, R392). -/
def bitmapHalf (ranks : List Nat) (half : Nat) : List Line :=
  (List.range 64).map fun i =>
    let base := 32768 * half + 512 * i
    BitVec.ofNat 512 ((List.range 512).foldl (fun n b => if ranks.contains (base + b) then n + 2 ^ b else n) 0)

/-- The root's result: the count, the bitmap, and the SUMMARY to every child (R392). -/
def rootSettle (s : State) (t : BitVec 6) (x : Tree) (c : Coll) : State :=
  let un := unreached x c
  let n := un.length
  let ranks := un.map fun i => (memberRank s x i).toNat
  let lo := bitmapHalf ranks 0
  let hi := bitmapHalf ranks 1
  let s := toKids s t x c 0x23 (BitVec.ofNat 26 n) 0 []
  let s := if n = 0 then s else
    toKids (toKids s t x c 0x23 (BitVec.ofNat 26 (65536 + n)) 0 lo) t x c 0x23 (BitVec.ofNat 26 (2 * 65536 + n)) 0 hi
  modColl s t fun c => { c with summary := some n, bitLo := some lo, bitHi := some hi }

/-- The root settles once every index is settled. -/
def przRoot (s : State) (t : BitVec 6) : State :=
  match treeOf s t with
  | none => s
  | some x =>
    match x.coll with
    | none => s
    | some c => if x.root && c.sentDone && c.summary.isNone && allSettled x c then rootSettle s t x c else s

/-- In a reduction with an unreached member the contents of DST are unspecified (R393): free values. -/
def przSpoil (t : BitVec 6) (x : Tree) (c : Coll) : Nat → Nat → State → Except Ask State
  | _, 0, s => .ok s
  | va, n + 1, s =>
    let (d, s) := s.draw
    match przWriteLine s t x c va (Config.partialReduction d) false with
    | .error q => .error q
    | .ok s => przSpoil t x c (va + 64) n s

/-- A member that has written every chunk and holds every part of the SUMMARY writes a non-zero bitmap and completes (R387,
R392). -/
def przComplete (s : State) (t : BitVec 6) : State :=
  match treeOf s t with
  | none => s
  | some x =>
    match x.coll with
    | none => s
    | some c =>
      match c.summary with
      | none => s
      | some 0 => if x.root || !usesDst c.op x.root || decide (chunkCount c ≤ c.wrote.length) then przEnd s t x c stOK 0 0 else s
      | some (n + 1) =>
        if !(x.root || !usesDst c.op x.root || decide (chunkCount c ≤ c.wrote.length)) || c.paused then s
        else match c.bitLo, c.bitHi with
          | some lo, some hi =>
            let spoil := (c.op == 1 || c.op == 2) && usesDst c.op x.root
            match if spoil then przSpoil t x c c.dst.toNat c.len s else .ok s with
            | .error q => s.ask q
            | .ok s1 =>
              match przWriteLines t x c false c.unreach.toNat (lo ++ hi) s1 with
              | .error q => s.ask q
              | .ok s1 => przEnd s1 t x { c with wrote := 0 :: c.wrote } stPartial (n + 1) 0
          | _, _ => s

/-- The reissue under way ends when every live child has had every chunk again (R391). -/
def przReissueEnd (s : State) (t : BitVec 6) : State := modColl s t fun c => { c with reissuing := c.reissuing && !sentAll c }

/-- Everything a member can do now. -/
def przAdvance (s : State) (t : BitVec 6) : State :=
  let n := ((collOf s t).map fun c => c.inq.length).getD 0
  let s := przReduce t 64 (przTakeIn t n (przRetranslate s t))
  let kids := ((collOf s t).map fun c => (liveKids c).map (·.rank)).getD []
  let s := kids.foldl (fun s r => przDown t r 64 s) s
  przPump (przComplete (przRoot (przDoneUp (przReissueEnd s t) t) t) t)

/-! ### Loss (R388, R390) -/

/-- A child is lost: a lost entry names it, unless it had sent DONE; the node goes on without it (R388, R389). -/
def loseKid (s : State) (t : BitVec 6) (x : Tree) (c : Coll) (k : Child) : State :=
  let s := modKid s t k.rank fun k => { k with live := false, sendq := [], chunks := [] }
  if k.done then s else reportUp s t x c [] [(k.idx, k.hi)]

/-- The parent is lost: JOIN to the alternate, an orphan without one, ABORT below a lost root (R390). -/
def loseParent (s : State) (t : BitVec 6) (x : Tree) (c : Coll) : State :=
  if parentIsRoot s x c then przRootLost s t x c
  else if x.alt = 0xFFFF ∨ c.joined ∨ c.joining.isSome then przOrphan s t x c
  else
    let s := modColl s t fun c => { c with parentLost := true, joining := some s.ts }
    queueCtl s t x c 0x24 x.alt 0 (bodyOf x.own x.hi 0) []

/-- A neighbour is lost (R387, R388). -/
def loseNeighbour (s : State) (t : BitVec 6) (rank : BitVec 16) : State :=
  match treeOf s t with
  | none => s
  | some x =>
    match x.coll with
    | none => s
    | some c =>
      if !x.root && !c.parentLost && c.parentRank == rank then loseParent s t x c
      else match (liveKids c).find? (·.rank == rank) with
        | some k => loseKid s t x c k
        | none => s

/-! ### Packets that arrive (R382 to R392) -/

/-- The rank of the neighbour that sent a packet: the parent or a child whose physical address is its SRC. -/
def neighbourOf (s : State) (x : Tree) (src : BitVec 16) : Option (BitVec 16) :=
  let ranks : List (BitVec 16) := match x.coll with
    | some c => [c.parentRank] ++ (c.kids.map fun k : Child => k.rank) ++ [x.alt]
    | none => [x.parent] ++ (x.kids.map fun k : BitVec 16 × BitVec 16 × BitVec 16 => k.1) ++ [x.alt]
  ranks.find? fun r => rankAddr s r == some src

/-- A packet of the tree has come from a neighbour (R388). -/
def noteRx (s : State) (t : BitVec 6) (rank : BitVec 16) : State :=
  modColl s t fun c => { c with
    parentRx := if c.parentRank = rank then s.ts else c.parentRx
    kids := c.kids.map fun k => if k.rank = rank then { k with lastRx := s.ts } else k }

/-- READY from a neighbour permits data to it (R383). -/
def onReady (s : State) (t : BitVec 6) (rank : BitVec 16) : State :=
  modColl s t fun c => { c with
    parentReady := c.parentReady || c.parentRank == rank
    kids := c.kids.map fun k => if k.rank = rank then { k with ready := true } else k }

/-- A chunk comes from the parent, to be written and sent on, or from a child, to be combined (R385, R386). -/
def onChunk (s : State) (t : BitVec 6) (x : Tree) (c : Coll) (rank : BitVec 16) (k : Chunk) : State :=
  if !x.root && c.parentRank == rank then
    if c.op = 0 ∨ c.op = 2 then modColl s t fun c => { c with inq := c.inq ++ [k] } else s
  else if c.op = 1 ∨ c.op = 2 then modKid s t rank fun i => { i with chunks := i.chunks ++ [k] }
  else s

/-- DONE from a child: its parts are taken together (R389); at a completed root it is dropped with the SEQ. -/
def onDone (s : State) (t : BitVec 6) (x : Tree) (c : Coll) (rank : BitVec 16) (p : Packet) : State :=
  match (liveKids c).find? (·.rank == rank) with
  | none => s
  | some k =>
    let nc := (p.arg.extractLsb' 0 11).toNat
    let cov := k.part ++ linesEntries p.pay 0 nc
    let lost := k.partLost ++ linesEntries p.pay nc (p.arg.extractLsb' 11 11).toNat
    if p.arg.getLsbD 25 then modKid s t rank fun k => { k with part := cov, partLost := lost }
    else reportUp (modKid s t rank fun k => { k with part := [], partLost := [], done := true }) t x c cov lost

/-- A SUMMARY part is held and goes to every child (R392). -/
def onSummary (s : State) (t : BitVec 6) (x : Tree) (c : Coll) (p : Packet) : State :=
  let n := (p.arg.extractLsb' 0 16).toNat
  let s := toKids s t x c 0x23 (p.arg.extractLsb' 0 26) 0 p.pay
  match (p.arg.extractLsb' 16 2).toNat with
  | 0 => modColl s t fun c => { c with summary := some n }
  | 1 => modColl s t fun c => { c with bitLo := some p.pay }
  | 2 => modColl s t fun c => { c with bitHi := some p.pay }
  | _ => s

/-- ADOPT goes to the own parent; at the root a reissue is due (R384, R391). -/
def onAdopt (s : State) (t : BitVec 6) (x : Tree) (c : Coll) (body : BitVec 256) : State :=
  if x.root then
    modColl s t fun c => { c with eventTs := s.ts, adopts := if c.op = 0 ∨ c.op = 2 then some (c.adopts.getD s.ts) else c.adopts }
  else toParent s t x c 0x26 0 body []

/-- JOIN at an alternate parent that runs the same SEQ: JOINOK, a new child, ADOPT up to the root (R390). JOIN permits data to
it as READY does (log entry 33). -/
def onJoin (s : State) (t : BitVec 6) (x : Tree) (c : Coll) (p : Packet) : State :=
  let i := p.body.extractLsb' 0 16
  let hi := p.body.extractLsb' 16 16
  let rank := memberRank s x i.toNat
  let k : Child :=
    { (default : Child) with rank := rank, idx := i, hi := hi, live := true, ready := true, adopted := true, lastRx := s.ts, lastTx := s.ts,
                             next := if c.op = 0 ∨ c.op = 2 then chunkCount c else 0 }
  let s := queueCtl s t x c 0x25 rank 0 (bodyOf x.own 0 0) []
  let s := modColl s t fun c => { c with kids := c.kids.filter (·.rank != rank) ++ [k] }
  onAdopt s t x c (bodyOf i hi x.own)

/-- JOINOK: the alternate is the parent now; DONE goes to it again (R390, log entry 33). -/
def onJoinok (s : State) (t : BitVec 6) (x : Tree) (c : Coll) : State :=
  if c.joining.isNone then s
  else modColl s t fun c => { c with
    parentRank := x.alt, parentReady := true, parentLost := false, joining := none, joined := true, sentDone := false,
    parentRx := s.ts, parentTx := s.ts }

/-- A packet that Prism drops is counted (R382). -/
def przDropped (s : State) : State := s.bump Reg.przDrop 1

/-- Prism accepts a packet of a tree (R369, R382): it is dropped and counted unless the tree runs its SEQ under its CTX; READY
for the next SEQ is remembered (log entry 33). -/
def przAccept (s : State) (p : Packet) : State :=
  let t := p.arg.extractLsb' 26 6
  let seq := p.arg.extractLsb' 32 32
  match treeOf s t with
  | none => przDropped s
  | some x =>
    if x.ctx ≠ p.ctx then przDropped s
    else
      let frm := neighbourOf s x p.src
      match x.coll with
      | none => early s t x seq p frm
      | some c =>
        if c.seq ≠ seq then early s t x seq p frm
        else
          let s := match frm with
            | some r => noteRx s t r
            | none => s
          match p.ty.toNat, frm with
          | 0x08, some r => przAdvance (onChunk s t x c r ((p.arg.extractLsb' 0 20).toNat, p.pay, p.poison)) t
          | 0x20, some r => przAdvance (onReady s t r) t
          | 0x21, _ => s
          | 0x22, some r => przAdvance (onDone s t x c r p) t
          | 0x23, some _ => przAdvance (onSummary s t x c p) t
          | 0x24, _ => przAdvance (onJoin s t x c p) t
          | 0x25, _ => przAdvance (onJoinok s t x c) t
          | 0x26, _ => przAdvance (onAdopt s t x c p.body) t
          | 0x27, _ => przRootLost s t x c
          | 0x28, some r => przAdvance (loseNeighbour s t r) t
          | _, _ => s
where
  /-- A packet of another SEQ: READY for the next one is kept. -/
  early (s : State) (t : BitVec 6) (x : Tree) (seq : BitVec 32) (p : Packet) (frm : Option (BitVec 16)) : State :=
    match frm with
    | some r =>
      if p.ty = 0x20 ∧ seq = x.seq + 1 then
        setTree s t (some { x with early := if x.early.contains r then x.early else r :: x.early })
      else przDropped s
    | none => przDropped s

/-! ### Commands of the dispatcher and the host -/

/-- A tree entry's fields (R379): the tree it describes, where they are in range. -/
def treeOfEntry (v : Nat) : Option Tree :=
  let f := fun off n : Nat => bitsN v (8 * off) (8 * n)
  let own := f 0 2
  let kids := f 7 1
  let n := f 4 2
  let his := (List.range kids).map fun i => f (0x20 + 2 * i) 2
  let idxs := (own + 1) :: his.map (· + 1)
  let kid := fun i : Nat => (BitVec.ofNat 16 (f (0x10 + 2 * i) 2), BitVec.ofNat 16 ((idxs[i]?).getD 0), BitVec.ofNat 16 ((his[i]?).getD 0))
  if n = 0 ∨ 32768 < n ∨ 1 < f 6 1 ∨ 8 < kids ∨ 2 ^ 20 ≤ f 0xC 4 ∨ f 0x38 8 ≠ 0 then none
  else some
    { own := BitVec.ofNat 16 own, hi := BitVec.ofNat 16 (f 2 2), n := n, root := decide (f 6 1 = 1), parent := BitVec.ofNat 16 (f 8 2),
      alt := BitVec.ofNat 16 (f 0xA 2), ctx := BitVec.ofNat 20 (f 0xC 4), members := f 0x30 8, kids := (List.range kids).map kid,
      seq := 0, early := [], coll := none }

/-- LOAD of a tree (R379). A collective that runs, or an entry outside its ranges, sets LOADERR (log entry 34). -/
def treeLoad (s : State) (t : BitVec 6) : State :=
  if (collOf s t).isSome then s.setFlag Reg.przStat 0
  else match agentWord s .dsp 0 (baseOf s Reg.przTtabLo 12 + 64 * t.toNat) 64 with
    | .busy q => s.ask q
    | .refused => s.setFlag Reg.przStat 0
    | .ok (v, p, s1) =>
      match if p then none else treeOfEntry v with
      | none => s1.setFlag Reg.przStat 0
      | some x => setTree s1 t (some x)

/-- UNLOAD of a tree (R379). -/
def treeUnload (s : State) (t : BitVec 6) : State :=
  match treeOf s t with
  | none => s
  | some x =>
    match x.coll with
    | none => setTree s t none
    | some c => setTree (przLeave s t x c 3 stAborted 8) t none

/-- TREE_LOAD (R379). -/
def execTreeLoad (ag : RegAgent) (t : BitVec 6) (s : State) : Out :=
  .next (withReg s ag Reg.przTreeCtl fun s => if frozen s then s else treeLoad s t)
/-- TREE_UNLOAD (R379). -/
def execTreeUnload (ag : RegAgent) (t : BitVec 6) (s : State) : Out :=
  .next (withReg s ag Reg.przTreeCtl fun s => if frozen s then s else treeUnload s t)

/-- The collective that a command starts on a tree (R381 to R383). -/
def newColl (s : State) (x : Tree) (h : HeldCmd) (paused : Bool) : Coll :=
  let c := h.cmd
  let kid := fun k : BitVec 16 × BitVec 16 × BitVec 16 =>
    { (default : Child) with rank := k.1, idx := k.2.1, hi := k.2.2, live := true, ready := x.early.contains k.1, lastRx := s.ts, lastTx := s.ts }
  { (default : Coll) with
    seq := x.seq + 1, src := BitVec.ofNat 64 (bodyNat c 0x10 8), dst := BitVec.ofNat 64 (bodyNat c 0x18 8),
    len := bodyNat c 0x20 4, op := bodyNat c 0x25 1, dtype := bodyNat c 0x26 1, rop := bodyNat c 0x27 1,
    unreach := BitVec.ofNat 64 (bodyNat c 0x28 8), pages := h.pages, gen := h.gen, paused := paused, kids := x.kids.map kid,
    parentRank := x.parent, parentReady := x.early.contains x.parent, parentRx := s.ts, parentTx := s.ts, eventTs := s.ts }

/-- COLLECTIVE: takes the next SEQ of its tree, sends READY to every neighbour, and goes on as its chunks and packets allow
(R381 to R383); rejected when the tree is no longer loaded for its context. -/
def execCollective (ring : BitVec 10) (s : State) : Out :=
  .next (if dspStopped s then s else
    match startedCmd s ring 3 with
    | none => s
    | some h =>
      let t := BitVec.ofNat 6 (collTree h.cmd)
      match treeOf s t with
      | none => rejectCmd s h.cmd stBadcmd {}
      | some x =>
        if x.ctx ≠ h.cmd.ctx then rejectCmd s h.cmd stBadcmd {}
        else if x.coll.isSome then s
        else match readGen s h.cmd.ctx with
          | .error q => s.ask q
          | .ok (g, s) =>
            let c := newColl s x h (h.gen != g)
            let x := { x with seq := x.seq + 1, early := [], coll := some c }
            let s := releaseRing ((setTree s t (some x)).modDsp fun d => { d with colls := mset d.colls t.toNat (some h.cmd) }) h.cmd
            let b := bodyOf x.own 0 0
            przAdvance (toKids (toParent s t x c 0x20 0 b []) t x c 0x20 0 b []) t)

/-- COLLECTIVE_COMPLETE: a member does what it can and completes when it holds everything (R387). -/
def execCollectiveComplete (t : BitVec 6) (s : State) : Out :=
  .next (if frozen s then s else przAdvance s t)

/-! ### Timers (R388, R390 to R392) -/

/-- The stamps of the last packets from and to a neighbour. -/
def neighbourTs (x : Tree) (c : Coll) (rank : BitVec 16) : Option (Stamp × Stamp) :=
  if !x.root && !c.parentLost && c.parentRank == rank then some (c.parentRx, c.parentTx)
  else ((liveKids c).find? fun k : Child => k.rank == rank).map fun k : Child => (k.lastRx, k.lastTx)

/-- Apply a function to the running collective of a tree. -/
def withColl (s : State) (t : BitVec 6) (f : Tree → Coll → State) : State :=
  if frozen s then s else
  match treeOf s t with
  | none => s
  | some x =>
    match x.coll with
    | none => s
    | some c => f x c

/-- PRZ_HB_TIMER: HB to a neighbour that has been sent nothing for 10 µs (R388). -/
def execPrzHbTimer (t : BitVec 6) (nb : BitVec 16) (s : State) : Out :=
  .next (withColl s t fun x c =>
    match neighbourTs x c nb with
    | none => s
    | some (_, tx) =>
      if !since s tx (10 * Config.usTicks) then s
      else match sendRank s (przPacket t x.ctx c.seq 0x21 nb 0 (bodyOf x.own 0 0) [] false) [] s.ts with
        | .sent s => noteTx s t nb
        | .wait s => s
        | .dead s => s)

/-- PRZ_NEIGHBOUR_LOST: nothing from a neighbour for 50 µs (R388). -/
def execPrzNeighbourLost (t : BitVec 6) (nb : BitVec 16) (s : State) : Out :=
  .next (withColl s t fun x c =>
    match neighbourTs x c nb with
    | none => s
    | some (rx, _) =>
      if since s rx (50 * Config.usTicks) then przAdvance (loseNeighbour (s.setFlag Reg.przStat 1) t nb) t else s)

/-- JOIN_TIMEOUT: no JOINOK for 50 µs (R390). -/
def execJoinTimeout (t : BitVec 6) (s : State) : Out :=
  .next (withColl s t fun x c =>
    match c.joining with
    | none => s
    | some ts => if since s ts (50 * Config.usTicks) then przOrphan s t x c else s)

/-- PRZ_REISSUE: 2 µs after the first ADOPT that no reissue has covered, the root sends every chunk again (R391). -/
def execPrzReissue (t : BitVec 6) (s : State) : Out :=
  .next (withColl s t fun x c =>
    match c.adopts with
    | none => s
    | some ts =>
      if !x.root || c.reissuing || c.summary.isSome || !since s ts (2 * Config.usTicks) then s
      else przAdvance (modColl s t fun c => { c with
        adopts := none, reissuing := true, kids := c.kids.map fun k => { k with next := 0 } }) t)

/-- ROOT_SETTLE_TIMEOUT: 100 µs after the latest DONE, ADOPT or lost entry, every live child having sent DONE, the root
completes (R392). -/
def execRootSettleTimeout (t : BitVec 6) (s : State) : Out :=
  .next (withColl s t fun x c =>
    if x.root && c.summary.isNone && since s c.eventTs (100 * Config.usTicks) && (liveKids c).all (·.done) then
      przAdvance (rootSettle s t x c) t
    else s)

end Sys2Proof.Machine
end

