-- ==== Sys2Proof/Machine/Fabric.lean ====
section
/-! DEFINITION. The scale fabric (R351 to R378): frames and link retry, packets in flow order, answers and resends, dead
destinations, combining, and time synchronisation. -/

namespace Sys2Proof.Machine

/-! ### Frames (R352 to R355) -/

/-- The bits of a packet's header from its first two words (R358). -/
def packetOf (ws : List (BitVec 128)) : Packet :=
  let w := fun i : Nat => (ws[i]?).getD 0
  let h : BitVec 256 := w 1 ++ w 0
  let n := (h.extractLsb' 121 7).toNat
  let line := fun i : Nat => w (2 + 4 * i + 3) ++ w (2 + 4 * i + 2) ++ w (2 + 4 * i + 1) ++ w (2 + 4 * i)
  { ty := h.extractLsb' 0 8, poison := h.getLsbD 15, cls := h.extractLsb' 8 2, dst := h.extractLsb' 16 16,
    src := h.extractLsb' 32 16, drank := h.extractLsb' 48 16, base := h.extractLsb' 64 16, flow := h.extractLsb' 80 16,
    hops := h.extractLsb' 116 5, ctx := h.extractLsb' 96 20, stamp := h.extractLsb' 128 48, fseq := h.extractLsb' 176 16,
    arg := h.extractLsb' 192 64, body := if n = 0 then w 3 ++ w 2 else 0, pay := (List.range n).map line }

/-- The words of a packet whose header starts with these words. -/
def packetWords (ws : List (BitVec 128)) : Nat :=
  let n := (((ws[0]?).getD 0).extractLsb' 121 7).toNat
  if n = 0 then 4 else 2 + 4 * n

/-- Cut the packets off a stream of words: idle words between packets are skipped, an unfinished packet stays (R355). -/
def cutPackets : Nat → List (BitVec 128) → List Packet × List (BitVec 128)
  | 0, ws => ([], ws)
  | n + 1, ws =>
    match ws with
    | [] => ([], [])
    | w :: t =>
      if w.extractLsb' 0 8 = 0 then cutPackets n t
      else if ws.length < packetWords ws then ([], ws)
      else match cutPackets n (ws.drop (packetWords ws)) with
        | (ps, rest) => (packetOf ws :: ps, rest)

/-- The class of a defined packet type (R359). -/
def typeClass (ty : BitVec 8) : Option (BitVec 2) :=
  match ty.toNat with
  | 0x01 | 0x02 | 0x03 | 0x08 => some 2
  | 0x10 | 0x11 | 0x12 => some 0
  | 0x20 | 0x21 | 0x22 | 0x23 | 0x24 | 0x25 | 0x26 | 0x27 | 0x28 | 0x30 => some 1
  | _ => none

/-- A packet enters a port's buffers, or is discarded and counted: an undefined type, or another complex's (R359, R361). -/
def packetIn (n : BitVec 4) (s : State) (p : Packet) : State :=
  if typeClass p.ty ≠ some p.cls ∨ p.dst ≠ (s.reg Reg.fabMyaddr).extractLsb' 0 16 then s.bump Reg.fabDiscard 1
  else s.modPort n fun x => { x with rx := x.rx ++ [p] }

/-- Frames up to an FSN are acknowledged (R353). -/
def ackFrames (l : List (BitVec 16 × Nat)) (asn : BitVec 16) : List (BitVec 16 × Nat) :=
  if l.any (·.1 == asn) then (l.dropWhile (·.1 != asn)).drop 1 else l

/-- The sender replays what is unacknowledged: the frames count, and the replay raises its event (R353, R397, R505). -/
def replayFrames (s : State) (n : BitVec 4) : State :=
  let k := (s.port n).unacked.length
  if k = 0 then s
  else
    let s := s.modPort n fun x => { x with unacked := x.unacked.map fun f => (f.1, f.2 + 1) }
    raiseAt (s.bump (Reg.fabPort n.toNat 0x18) k) dieIod n.toNat 0x17 0 0

/-- What a good frame's link header brings: acknowledgement, credits, and a replay on NAK (R352, R353, R355). -/
def frameHeader (s : State) (n : BitVec 4) (f : Frame) : State :=
  let s := s.modPort n fun x => { x with
    unacked := ackFrames x.unacked f.asn
    crRsp := x.crRsp + f.crRsp.toNat
    crCtl := x.crCtl + f.crCtl.toNat
    crReq := x.crReq + f.crReq.toNat }
  if f.nak then replayFrames s n else s

/-- FABRIC_FRAME_RX: a good frame in FSN order is taken; on another one the receiver discards until the replay begins and
sends NAK (R353). A NULL frame carries acknowledgement and credits only. -/
def execFabricFrameRx (port : BitVec 4) (f : Frame) (s : State) : Out :=
  .next (if frozen s || (s.port port).st != .up then s else
    let s := if f.corrected = 0 then s else s.bump (Reg.fabPort port.toNat 0x10) f.corrected
    let x := s.port port
    if !f.good then s.modPort port fun x => { x with await := true, nak := true }
    else if f.null then frameHeader s port f
    else if f.fsn ≠ x.rxFsn + 1 then s.modPort port fun x => { x with nak := x.nak || !x.await, await := true }
    else
      let s := frameHeader s port f
      let ws := x.part ++ f.words
      match cutPackets ws.length ws with
      | (ps, rest) =>
        ps.foldl (packetIn port) (s.modPort port fun x => { x with rxFsn := f.fsn, await := false, nak := false, part := rest }))

/-! ### Port training (R354, R355, R397) -/

/-- A port begins a retrain. -/
def portRetrain (s : State) (n : BitVec 4) : State :=
  s.modPort n fun x => { x with st := .training, fresh := false }

/-- FAB_PORT_RETRAIN: a frame has been replayed 8 times without being accepted, or frame lock was lost for 1 µs (R354). -/
def execFabPortRetrain (port : BitVec 4) (why : RetrainCause) (s : State) : Out :=
  .next (
    let x := s.port port
    let due : Bool := match why with
      | .replays => ((x.unacked.head?).map fun f => decide (8 ≤ f.2)).getD false
      | .lostLock => true
    if x.st = .up ∧ due ∧ !frozen s then portRetrain s port else s)

/-- Resend a sequenced packet unchanged on the next port of its mask (R373). -/
def resendAt (s : State) (i : Nat) : State :=
  match s.fab.sent[i]? with
  | none => s
  | some e =>
    match routeEntry s e.pkt.dst with
    | .error q => s.ask q
    | .ok (mask, s) =>
      match nextPort s mask e.pkt e.port with
      | none => s
      | some n =>
        let s := s.modFab fun b => { b with sent := b.sent.modify i fun e => { e with port := n, last := s.ts, nakTs := none } }
        transmit (s.bump Reg.fabResend 1) n e.pkt

/-- Resend every unanswered packet that a port holds (R354, R373). -/
def resendPort (s : State) (n : BitVec 4) : State :=
  (List.range s.fab.sent.length).foldl (fun s i =>
    if ((s.fab.sent[i]?).map (·.port)) = some n then resendAt s i else s) s

/-- FAB_RETRAIN_DONE: the port is up again with a replay from the last ASN; after 3 failures in a row it is FAILED, and what it
holds goes to other ports (R354). -/
def execFabRetrainDone (port : BitVec 4) (ok : Bool) (s : State) : Out :=
  .next (
    let x := s.port port
    if x.st ≠ .training ∨ x.fresh ∨ frozen s then s
    else if ok then
      let s := s.modPort port fun x => { x with st := .up, fails := 0, await := false, unacked := x.unacked.map fun f => (f.1, 0) }
      let s := raiseAt (s.setFlag (Reg.fabPort port.toNat 0x08) 0) dieIod port.toNat 0x18 0 0
      replayFrames s port
    else if x.fails < 2 then s.modPort port fun x => { x with fails := x.fails + 1 }
    else
      let s := s.modPort port fun x => { x with st := .failed, fails := 3, unacked := [], part := [] }
      let s := raiseAt (s.setFlag (Reg.fabPort port.toNat 0x08) 1) dieIod port.toNat 0x19 0 0
      resendPort s port)

/-- RETRAIN written to a port that is enabled: it retrains now, and leaves FAILED (R354, R397). -/
def retrainCmd (s : State) (n : BitVec 4) : State :=
  match (s.port n).st with
  | .off => s
  | .training => s
  | _ => (portRetrain s n).modPort n fun x => { x with fails := 0 }

/-- FAB_PORT_RETRAIN_CMD (R397). -/
def execFabPortRetrainCmd (ag : RegAgent) (port : BitVec 4) (s : State) : Out :=
  .next (withReg s ag (Reg.fabPort port.toNat 0) fun s => if frozen s then s else retrainCmd s port)

/-- EN of a port as it applies: an enabled port trains, a disabled one is off (R397). -/
def portEnable (s : State) (n : BitVec 4) (en : Bool) : State :=
  let x := s.port n
  if en && x.st == .off then s.modPort n fun _ => { (default : PortSt) with st := .training, fresh := true, rxFsn := 0xFFFF }
  else if !en then s.modPort n fun _ => { (default : PortSt) with st := .off, rxFsn := 0xFFFF }
  else s

/-- FAB_PORT_TRAINED: a port that was enabled has trained; its peer's buffers are its credits (R355). -/
def execFabPortTrained (port : BitVec 4) (s : State) : Out :=
  .next (
    let x := s.port port
    if x.st = .training ∧ x.fresh ∧ !frozen s then
      s.modPort port fun x => { x with st := .up, fresh := false, crRsp := 512, crCtl := 128, crReq := 1536 }
    else s)

/-! ### Responses (R370, R371) -/

/-- A response to a packet: the flow, CTX and FSEQ of what it answers (R359, R360). -/
def rspPacket (s : State) (p : Packet) (ty : BitVec 8) (fseq : BitVec 16) (arg : BitVec 64) (pay : List Line) : Packet × State :=
  let (n, s) := s.draw
  ({ (default : Packet) with ty := ty, cls := 0, dst := p.src, drank := Config.rspDrank n, flow := p.flow, ctx := p.ctx,
                             fseq := fseq, arg := arg, pay := pay }, s)

/-- Send a response; an error while the port must wait. A dead destination's response is discarded. -/
def respond (s : State) (p : Packet) (ty : BitVec 8) (fseq : BitVec 16) (arg : BitVec 64) (pay : List Line) : Except Ask State :=
  match rspPacket s p ty fseq arg pay with
  | (r, s) =>
    match sendTo s r [] s.ts with
    | .sent s => .ok s
    | .wait _ => .error none
    | .dead s => .ok s

/-- NAK codes (R359). -/
def nakRefused : BitVec 64 := 1
def nakWrongrank : BitVec 64 := 2
def nakBusy : BitVec 64 := 3

/-! ### Performing a packet (R369) -/

/-- The first line a packet names. -/
def pktLine (p : Packet) : Nat := (p.arg.extractLsb' 0 44).toNat / 64

/-- A line that fabric receive may not write, or may not read (R371). -/
def pktRefused (s : State) (p : Packet) (write : Bool) (line : Nat) : Bool :=
  isReserved s.mem line || (write && isPacked line) || !ctxPasses s.mem p.ctx line

/-- What performing a packet came to: performed, with the state and whether an answer of its own has gone; or it must wait. -/
abbrev Perf := Except Ask (State × Bool)

/-- Read lines as RDC for an RD; an error while one is in use. -/
def pktReadLines (p : Packet) : Nat → Nat → State → Except Ask (List (Line × Bool) × State)
  | _, 0, s => .ok ([], s)
  | line, n + 1, s =>
    match agentReadAny s .fab 0 p.ctx line false with
    | .ok (d, q, s) => (pktReadLines p (line + 1) n s).map fun r => ((d, q) :: r.1, r.2)
    | .busy q => .error q
    | .refused => .error none

/-- Answer an RD with its lines (R359, R370). -/
def performRd (s : State) (p : Packet) : Perf :=
  let n := (p.arg.extractLsb' 48 6).toNat + 1
  if (List.range n).any fun i => pktRefused s p false (pktLine p + i) then
    (respond s p 0x12 p.fseq nakRefused []).map fun s => (s, true)
  else match pktReadLines p (pktLine p) n s with
    | .error q => .error q
    | .ok (ls, s) =>
      let bad := ls.zipIdx.foldl (fun b e => if e.1.2 then b ||| (1#64 <<< e.2) else b) 0#64
      (respond s p 0x11 p.fseq bad (ls.map (·.1))).map fun s => (s, true)

/-- Perform WR or WRM as WRP of each line; none of it where a line is refused (R369, R371). -/
def performWr (s : State) (p : Packet) (masked : Bool) : Perf :=
  let lines := if masked then p.pay.take 1 else p.pay
  let m := if masked then ((p.pay[1]?).getD 0).extractLsb' 0 64 else Mask.full
  if (List.range lines.length).any fun i => pktRefused s p true (pktLine p + i) then
    (respond s p 0x12 p.fseq nakRefused []).map fun s => (s, true)
  else
    let step := fun (a : Except Ask State) (e : Line × Nat) => a.bind fun s =>
      match agentWrite s .fab 0 p.ctx (pktLine p + e.2) m e.1 p.poison false with
      | .ok s => .ok s
      | .busy q => .error q
      | .refused => .error none
    (lines.zipIdx.foldl step (.ok s)).map fun s => (s, false)

/-- Perform a sequenced packet (R369). -/
def perform (s : State) (p : Packet) : Perf :=
  match p.ty.toNat with
  | 0x01 => performWr s p false
  | 0x02 => performWr s p true
  | 0x03 => performRd s p
  | _ => .ok (przAccept s p, false)

/-! ### Flow order (R365, R368 to R370) -/

/-- Whether a sequence number comes before another one. -/
def seqBefore (a b : BitVec 16) : Bool := let d := (b - a).toNat; decide (0 < d ∧ d < 32768)

/-- The receive state of a flow. -/
def flowOf (s : State) (src flow : BitVec 16) : Option RxFlow := s.fab.flows.find? fun f => f.src == src && f.flow == flow
/-- Change a flow. -/
def modFlow (s : State) (src flow : BitVec 16) (f : RxFlow → RxFlow) : State :=
  s.modFab fun b => { b with flows := modFirst (fun x : RxFlow => x.src == src && x.flow == flow) f b.flows }

/-- ACK a flow when nothing of it is pending, or 16 packets have been performed (R370). -/
def ackFlow (s : State) (x : RxFlow) : State :=
  match flowOf s x.src x.flow with
  | none => s
  | some f =>
    if f.unacked = 0 ∨ (!f.waiting.isEmpty ∧ f.unacked < 16) then s
    else
      let p : Packet := { (default : Packet) with src := x.src, flow := x.flow, ctx := f.ctx }
      match respond s p 0x10 (f.next - 1) 0 [] with
      | .ok s => modFlow s x.src x.flow fun f => { f with unacked := 0 }
      | .error q => s.ask q

/-- Perform the waiting packets of a flow that are next, in FSEQ order, up to n. -/
def pumpFlow (src flow : BitVec 16) : Nat → State → State
  | 0, s => s
  | n + 1, s =>
    match flowOf s src flow with
    | none => s
    | some f =>
      match f.waiting.find? fun p : Packet => p.fseq == f.next with
      | none => s
      | some p =>
        match perform s p with
        | .error q => s.ask q
        | .ok (s, answered) =>
          let s := modFlow s src flow fun f => { f with
            waiting := f.waiting.filter fun q : Packet => q.fseq != p.fseq
            next := f.next + 1
            unacked := if answered then f.unacked else f.unacked + 1
            ctx := p.ctx
            last := s.ts }
          pumpFlow src flow n s

/-- Every flow performs what it can and acknowledges. -/
def pumpFlows (s : State) : State :=
  s.fab.flows.foldl (fun s f => ackFlow (pumpFlow f.src f.flow (f.waiting.length) s) f) s

/-- A packet that has been performed before is answered again and not performed again (R369). -/
def answerAgain (s : State) (f : RxFlow) (p : Packet) : Except Ask State :=
  if p.ty = 0x03 then (performRd s p).map (·.1) else respond s p 0x10 (f.next - 1) 0 []

/-- A sequenced packet reaches its flow: WRONGRANK, BUSY, a repeat, or it waits for its turn (R365, R369). An error while
its answer must wait. -/
def enterFlow (s : State) (p : Packet) : Except Ask State :=
  let my := s.reg Reg.fabMyrank
  if !my.getLsbD 31 || my.extractLsb' 0 16 != p.drank then
    (respond (s.setFlag Reg.fabStat 1) p 0x12 p.fseq nakWrongrank [])
  else
    let put := fun s : State => modFlow s p.src p.flow fun f =>
      { f with waiting := if f.waiting.any (fun q : Packet => q.fseq == p.fseq) then f.waiting else f.waiting ++ [p], last := s.ts }
    match flowOf s p.src p.flow with
    | none =>
      if 16384 ≤ s.fab.flows.length then respond (s.setFlag Reg.fabStat 2) p 0x12 p.fseq nakBusy []
      else .ok (put (s.modFab fun b => { b with flows := b.flows ++ [⟨p.src, p.flow, p.base, [], 0, s.ts, p.ctx⟩] }))
    | some f =>
      let f' := if seqBefore f.next p.base then { f with next := p.base } else f
      if seqBefore p.fseq f'.next then answerAgain s f' p
      else .ok (put (modFlow s p.src p.flow fun _ => f'))

/-- The oldest packet of a class on a port, when it has a type. -/
def rxTake (s : State) (n : BitVec 4) (ty : BitVec 8) : Option (Packet × State) :=
  let cls := (typeClass ty).getD 0
  match takeFirst (fun p : Packet => p.cls == cls) (s.port n).rx with
  | some (p, r) => if p.ty = ty then some (p, s.modPort n fun x => { x with rx := r }) else none
  | none => none

/-- Fabric receive takes a sequenced packet of a type from a port, and every flow goes on (R369). -/
def takeSeq (s : State) (n : BitVec 4) (ty : BitVec 8) : State :=
  if frozen s then s else
  match rxTake s n ty with
  | none => pumpFlows s
  | some (p, s1) =>
    match enterFlow s1 p with
    | .ok s => pumpFlows s
    | .error q => s.ask q

/-- FAB_WR (R369). -/
def execFabWr (port : BitVec 4) (s : State) : Out := .next (takeSeq s port 0x01)
/-- FAB_WRM (R369). -/
def execFabWrm (port : BitVec 4) (s : State) : Out := .next (takeSeq s port 0x02)
/-- FAB_RD (R369). -/
def execFabRd (port : BitVec 4) (s : State) : Out := .next (takeSeq s port 0x03)
/-- PZD (R369, R385). -/
def execPzd (port : BitVec 4) (s : State) : Out := .next (takeSeq s port 0x08)
/-- PRZ_READY (R383). -/
def execPrzReady (port : BitVec 4) (s : State) : Out := .next (takeSeq s port 0x20)
/-- PRZ_DONE (R389). -/
def execPrzDone (port : BitVec 4) (s : State) : Out := .next (takeSeq s port 0x22)
/-- PRZ_SUMMARY (R392). -/
def execPrzSummary (port : BitVec 4) (s : State) : Out := .next (takeSeq s port 0x23)
/-- JOIN (R390). -/
def execJoin (port : BitVec 4) (s : State) : Out := .next (takeSeq s port 0x24)
/-- JOINOK (R390). -/
def execJoinok (port : BitVec 4) (s : State) : Out := .next (takeSeq s port 0x25)
/-- ADOPT (R384, R391). -/
def execAdopt (port : BitVec 4) (s : State) : Out := .next (takeSeq s port 0x26)
/-- PRZ_ABORT (R390). -/
def execPrzAbort (port : BitVec 4) (s : State) : Out := .next (takeSeq s port 0x27)
/-- LEAVE (R387). -/
def execLeave (port : BitVec 4) (s : State) : Out := .next (takeSeq s port 0x28)

/-- PRZ_HB: a heartbeat enters no flow (R368, R388). -/
def execPrzHb (port : BitVec 4) (s : State) : Out :=
  .next (if frozen s then s else
    match rxTake s port 0x21 with
    | some (p, s) => przAccept s p
    | none => s)

/-! ### Answers at the sender (R370, R371) -/

/-- The sequenced packet that a response names. -/
def answered (p : Packet) (e : SentPkt) : Bool := e.pkt.dst == p.src && e.pkt.flow == p.flow

/-- FAB_ACK: every write and Prism packet of the flow up to the FSEQ has been performed (R370); a read awaits its RDD. -/
def execFabAck (port : BitVec 4) (s : State) : Out :=
  .next (if frozen s then s else
    match rxTake s port 0x10 with
    | none => s
    | some (p, s) =>
      let hit := fun e : SentPkt => answered p e && e.pkt.ty != 0x03 && !seqBefore p.fseq e.pkt.fseq
      let done := s.fab.sent.filter hit
      let s := s.modFab fun b => { b with sent := b.sent.filter fun e => !hit e }
      przPump (done.foldl (fun s e => e.srcs.foldl (fun s x => postedDone s false x) s) s))

/-- Read data reaches the source that asked for it (R370, R371). -/
def deliver (s : State) (d : Dest) (pa : Nat) (line : Line) (poison : Bool) (src : PktSrc) : State :=
  match src with
  | .load c =>
    match (s.core c).pend with
    | some q => if q.dest = d ∧ q.pa / 64 = pa / 64 then finishLoad s c q line poison else s
    | none => s
  | .lmv c i b => lmvTake s c i b line poison
  | .dmaRead q n => dmaData s q n line poison
  | .gate r =>
    match ((s.ring r).held).map (·.cmd.waitAddr) with
    | some a => gateValue s r (lineWord line (a.toNat % 64) 8) poison
    | none => s
  | .prism t => przData s t (gotKey d pa) line poison
  | _ => s

/-- RDD: the data of an RD (R370). -/
def execRdd (port : BitVec 4) (s : State) : Out :=
  .next (if frozen s then s else
    match rxTake s port 0x11 with
    | none => s
    | some (p, s) =>
      match s.fab.sent.find? fun e => answered p e && e.pkt.ty == 0x03 && e.pkt.fseq == p.fseq with
      | none => s
      | some e =>
        let s := s.modFab fun b => { b with sent := b.sent.filter fun x => !(answered p x && x.pkt.ty == 0x03 && x.pkt.fseq == p.fseq) }
        let line := (p.pay[0]?).getD 0
        let pa := (e.pkt.arg.extractLsb' 0 44).toNat
        e.srcs.foldl (fun s x => deliver s (.fabric e.pkt.drank) pa line (p.arg.getLsbD 0) x) s)

/-- A source learns that its request was refused (R371): a core raises 0x04, a DMA ends with REFUSED, a gate and a Prism read
take it as poison (log entry 32). -/
def refuseSrc (s : State) (d : Dest) (pa : Nat) (src : PktSrc) : State :=
  match src with
  | .store c tag => refuseWrite s c.cl tag
  | .load c =>
    match (s.core c).pend with
    | some q => if q.dest = d ∧ q.pa / 64 = pa / 64 then refuseLoad s c q else s
    | none => s
  | .lmv c i b => lmvFail s c i b excContext
  | .dma q n => if (dmaHead s q).map (·.id) = some n then dmaStop s q stRefused else s
  | .dmaRead q n => if (dmaHead s q).map (·.id) = some n then dmaStop s q stRefused else s
  | .gate r => gateValue s r 0 true
  | .prism t => przData s t (gotKey d pa) (Config.poisonData (pa / 64)) true

/-- FAB_NAK: a refused packet is answered; WRONGRANK and BUSY have it resent 1 µs later (R371, R373). -/
def execFabNak (port : BitVec 4) (s : State) : Out :=
  .next (if frozen s then s else
    match rxTake s port 0x12 with
    | none => s
    | some (p, s) =>
      let hit := fun e : SentPkt => answered p e && e.pkt.fseq == p.fseq
      match s.fab.sent.find? hit with
      | none => s
      | some e =>
        let code := p.arg.extractLsb' 0 8
        if code = 1 then
          let s := s.modFab fun b => { b with sent := b.sent.filter fun e => !hit e }
          e.srcs.foldl (fun s x => refuseSrc s (.fabric e.pkt.drank) (e.pkt.arg.extractLsb' 0 44).toNat x) s
        else if code = 2 ∨ code = 3 then
          let s := if code = 2 then s.setFlag Reg.fabStat 1 else s
          s.modFab fun b => { b with sent := modFirst hit (fun e => { e with nakTs := some s.ts }) b.sent }
        else s)

/-! ### Resends and dead destinations (R373, R374) -/

/-- FAB_ACK_TMO in ticks (R397). -/
def ackTmo (s : State) : Nat := min (max (s.fld Reg.fabAckTmo 0 16) 250) 1250 * Config.slowTicks

/-- FAB_ACK_TIMEOUT: a packet that has had no answer for FAB_ACK_TMO is resent (R373). -/
def execFabAckTimeout (i : Nat) (s : State) : Out :=
  .next (if frozen s then s else
    match s.fab.sent[i]? with
    | some e => if since s e.last (ackTmo s) then resendAt s i else s
    | none => s)

/-- FAB_NAK_RESEND: 1 µs after NAK WRONGRANK or BUSY the packet is resent (R373). -/
def execFabNakResend (i : Nat) (s : State) : Out :=
  .next (if frozen s then s else
    match (s.fab.sent[i]?).bind (·.nakTs) with
    | some t => if since s t Config.usTicks then resendAt s i else s
    | none => s)

/-- A source learns that its destination is dead: its write is lost, its read returns poison (R292). -/
def loseSrc (s : State) (d : Dest) (pa : Nat) (src : PktSrc) : State :=
  match src with
  | .gate r => gateValue s r 0 true
  | .prism t => przData s t (gotKey d pa) (Config.poisonData (pa / 64)) true
  | x => postedDone s true x

/-- A destination is dead: R292 for every packet to it, the DEAD crumb, the dead list of 256 (R374, R513). -/
def declareDead (s : State) (dst : BitVec 16) : State :=
  let mine := s.fab.sent.filter fun e => e.pkt.dst == dst
  let writes := mine.filter fun e => e.pkt.ty == 1 || e.pkt.ty == 2
  let count := writes.foldl (fun n e => n + e.srcs.length) 0
  let addr := ((writes.head?).map fun e => e.pkt.arg.extractLsb' 0 48).getD 0
  let ctx := ((mine.head?).map fun e => e.pkt.ctx).getD 0
  let s := s.modFab fun b => { b with
    sent := b.sent.filter fun e => e.pkt.dst != dst
    dead := ((b.dead.filter (· != dst)) ++ [dst]).drop (if 256 ≤ (b.dead.filter (· != dst)).length then 1 else 0) }
  let s := mine.foldl (fun s e => e.srcs.foldl (fun s x =>
    loseSrc s (.fabric e.pkt.drank) (e.pkt.arg.extractLsb' 0 44).toNat x) s) ((s.setFlag Reg.fabDrainStat 0).setFlag Reg.fabStat 0)
  raiseAs s dieIod 0 0x1A ctx 0 0x02 count (dst ++ addr)

/-- FAB_DEST_DEAD: a packet has had no answer within 9 × FAB_ACK_TMO of its first send (R374). -/
def execFabDestDead (dst : BitVec 16) (s : State) : Out :=
  .next (if !frozen s && s.fab.sent.any (fun e => e.pkt.dst == dst && since s e.first (9 * ackTmo s)) then declareDead s dst else s)

/-- FAB_COMBINE_TIMEOUT: a write held for combining for 500 ns is sent (R375). -/
def execFabCombineTimeout (i : Nat) (s : State) : Out :=
  .next (if frozen s then s else
    match s.fab.comb[i]? with
    | some c =>
      if since s c.ts 2000 then
        match flushFlow s (fun x => x.pkt.drank == c.pkt.drank && x.pkt.flow == c.pkt.flow) with
        | .sent s => s
        | .wait s => s
        | .dead s => s
      else s
    | none => s)

/-- FLOW_ENTRY_FREE: nothing pending for 500 µs (R369). -/
def execFlowEntryFree (src flow : BitVec 16) (s : State) : Out :=
  .next (match flowOf s src flow with
    | none => s
    | some f =>
      if f.waiting.isEmpty && f.unacked == 0 && since s f.last (500 * Config.usTicks) && !frozen s then
        s.modFab fun b => { b with flows := b.flows.filter fun x => !(x.src == src && x.flow == flow) }
      else s)

/-! ### Table invalidation (R364, R374) -/

/-- The addresses of ranks whose cached entry differs from the table: INV applies their change (log entry 35). -/
def changedAddrs (s : State) : List (BitVec 16) :=
  s.fab.rankTab.flatMap fun e =>
    match e.2 with
    | none => []
    | some old =>
      let a := baseOf s Reg.fabRanktab 12 + 4 * e.1
      let new := BitVec.ofNat 32 (lineNat (peekLine s (a / 64)) (a % 64) 4)
      if new = old then [] else [old.extractLsb' 0 16, new.extractLsb' 0 16]

/-- INV: the cached tables drop, and a destination whose rank entry changed leaves the dead list (R364, R374). -/
def tabInv (s : State) : State :=
  let back := changedAddrs s
  s.modFab fun b => { b with rankTab := [], routeTab := [], dead := b.dead.filter fun d => !back.contains d }

/-- FAB_TAB_INV (R364). -/
def execFabTabInv (ag : RegAgent) (s : State) : Out := .next (withReg s ag Reg.fabTabCtl fun s => if frozen s then s else tabInv s)

/-- The dead list without an address, or empty (R374, R397). -/
def deadClr (s : State) (all : Bool) (addr : BitVec 16) : State :=
  s.modFab fun b => { b with dead := if all then [] else b.dead.filter (· != addr) }

/-- FAB_DEAD_CLR (R374). -/
def execFabDeadClr (ag : RegAgent) (all : Bool) (addr : BitVec 16) (s : State) : Out :=
  .next (withReg s ag Reg.fabDeadClr fun s => if frozen s then s else deadClr s all addr)

/-! ### Time synchronisation (R376, R377) -/

/-- ROLE in force: 3 acts as off, as do PARENT 12 to 15 for a follower (R397). -/
def tsRole (s : State) : Nat :=
  let r := s.fld Reg.fabTsCtl 4 2
  if r = 3 then 0 else if r = 1 ∧ 12 ≤ s.fld Reg.fabTsCtl 0 4 then 0 else r

/-- A TSY packet. -/
def tsyPacket (dst : BitVec 16) (arg : BitVec 64) (t1 t2 t3 : Stamp) (rsp : Bool) : Packet :=
  { (default : Packet) with ty := 0x30, cls := 1, dst := dst, flow := 0x4000, arg := arg,
                            body := (BitVec.ofBool rsp).setWidth 64 ++ (t3 ++ (t2 ++ t1)) }

/-- Send a packet on a port of its own, when the port can send it. -/
def sendOn (s : State) (n : BitVec 4) (p : Packet) : Option State :=
  if portReady (s.port n) p then some (transmit s n (stamped s p)) else none

/-- TSY_SEND: a follower asks its parent port for the time (R376). -/
def execTsySend (s : State) : Out :=
  .next (if tsRole s ≠ 1 ∨ frozen s then s else
    let (n, t) := s.draw
    (sendOn t (BitVec.ofNat 4 (s.fld Reg.fabTsCtl 0 4)) (tsyPacket (Config.tsyDst n) 0 s.ts 0 0 false)).getD s)

/-- LOCK after an exchange: three in a row within 2 ns set it, one beyond 10 ns clears it (R377). -/
def noteOffset (s : State) (ofs : Int) : State :=
  s.modFab fun b =>
    let good := if ofs.natAbs ≤ 2000 then b.good + 1 else 0
    { b with good := good, ofs := ofs, tsyTs := s.ts, lock := if 10000 < ofs.natAbs then false else b.lock || decide (3 ≤ good) }

/-- Correct an offset in ps, positive when TS64 is behind: a changed rate within 10 µs, one step forward when farther behind,
half rate when farther ahead (R377). -/
def correct (s : State) (ofs : Int) : State :=
  if 10000000 < ofs then { s with ts := s.ts + BitVec.ofNat 64 (ofs.toNat / 250), tsRate := .nominal }
  else if ofs < -10000000 then { s with tsRate := .half }
  else
    let p : Int := (min (Config.tsPpm ofs) 100 : Nat)
    { s with tsRate := if ofs = 0 then .nominal else .ppm (if ofs < 0 then -p else p) }

/-- The offset of an answered exchange in ps (R376). -/
def offsetOf (t1 t2 t3 t4 : Stamp) (arg : BitVec 64) : Int :=
  (250 * ((t2 - t1).toInt - (t4 - t3).toInt) - arg.toInt) / 2

/-- TSY: a request is answered with the receive and send times; an answer gives the offset, and a follower corrects it (R376,
R377). -/
def execTsy (port : BitVec 4) (s : State) : Out :=
  .next (if frozen s then s else
    match rxTake s port 0x30 with
    | none => s
    | some (p, s1) =>
      if p.body.getLsbD 192 then
        if tsRole s ≠ 1 then s1
        else
          let ofs := offsetOf (p.body.extractLsb' 0 64) (p.body.extractLsb' 64 64) (p.body.extractLsb' 128 64) s.ts p.arg
          noteOffset (correct s1 ofs) ofs
      else if tsRole s = 0 then s1
      else (sendOn s1 port (tsyPacket p.src p.arg (p.body.extractLsb' 0 64) s.ts s.ts true)).getD s)

/-- TS_LOCK_TIMEOUT: 5 ms with no answer clears LOCK (R377). -/
def execTsLockTimeout (s : State) : Out :=
  .next (if since s s.fab.tsyTs (5 * Config.msTicks) && !frozen s then s.modFab fun b => { b with lock := false, good := 0 } else s)

end Sys2Proof.Machine
end

