-- ==== Sys2Proof/Machine/XltCmds.lean ====
section
/-! DEFINITION. Resolving translation faults (R320, R321) and the invalidation handshake (R308 to R310). -/

namespace Sys2Proof.Machine

/-! ### Resolving -/

/-- The key that the resolve registers name: CTX and page (R320). -/
def rsvKey (s : State) : Ctx × Nat :=
  ((s.reg Reg.xltRsvCtx).extractLsb' 0 20, s.fld Reg.xltRsvVaLo 25 7 + s.fld Reg.xltRsvVaHi 0 20 * 128)

/-- Lines of a move on a page that are not done. -/
def movePage (m : LineMove) (vpn : Nat) : List Nat :=
  (List.range m.count).filter fun b => !m.done.getLsbD b && vpnOf (lmvVa m b).toNat == vpn

/-- A move's page is fatal: its first line there raises 0x06, the others are not moved (R108, R320). -/
def fatalMove (s : State) (c : CoreId) (i vpn : Nat) : State :=
  match mgetD none (s.core c).lmv i with
  | none => s
  | some m =>
    match movePage m vpn with
    | [] => s
    | b :: rest =>
      let skip := rest.foldl (fun d k => d ||| (1#128 <<< k)) 0#128
      let s := lmvFail s c i b excXlt
      s.modCore c fun x => { x with lmv := mset x.lmv i ((mgetD none x.lmv i).map fun m => { m with done := m.done ||| skip, lost := true }) }

/-- A waiter of a page that is resolved FATAL (R320). -/
def fatalWaiter (vpn : Nat) (s : State) (wt : Waiter) : State :=
  match wt with
  | .core c =>
    match (s.core c).st, (s.core c).xwait with
    | .gated .xlt, some e => raiseExc s c excXlt e.addr e.word
    | _, _ => s
  | .lmv c i => fatalMove s c i vpn
  | .dmaQ q => dmaStop s q stXltfault
  | .ring r => failHeld s r stXltfault
  | .prism t => przFatal s t

/-- Resolve the open record of the key: every waiter is released at once; a record that has not been delivered is still
written, with EARLY (R320). -/
def resolve (s : State) (fatal : Bool) : State :=
  let (ctx, vpn) := rsvKey s
  let hit := fun r : FaultRec => !r.resolved && r.ctx == ctx && r.vpn == vpn
  match s.xlt.recs.find? hit with
  | none => s.setFlag Reg.xltRsvStat 1
  | some r =>
    let recs := if r.delivered then s.xlt.recs.filter fun x => !hit x
      else modFirst hit (fun x : FaultRec => { x with resolved := true, early := true, waiters := x.waiters }) s.xlt.recs
    let s := s.modXlt fun x => { x with recs := recs }
    let s := if fatal then r.waiters.foldl (fatalWaiter vpn) s else r.waiters.foldl releaseWaiter s
    s.setFlag Reg.xltRsvStat 0

/-- XLT_RESOLVE_RETRY (R320). -/
def execXltResolveRetry (ag : RegAgent) (s : State) : Out :=
  .next (withReg s ag Reg.xltRsvCmd fun s => if frozen s then s else resolve s false)
/-- XLT_RESOLVE_FATAL (R320). -/
def execXltResolveFatal (ag : RegAgent) (s : State) : Out :=
  .next (withReg s ag Reg.xltRsvCmd fun s => if frozen s then s else resolve s true)

/-! ### What an invalidation covers (R310) -/

/-- The pages of an invalidation: all of a context, or a range of page numbers. -/
structure Cover where
  ctx : Ctx
  all : Bool
  first : Nat
  count : Nat
  deriving DecidableEq, Repr, Inhabited

/-- A page of a context is covered. -/
def covers (v : Cover) (ctx : Ctx) (vpn : Nat) : Bool := ctx == v.ctx && (v.all || decide (v.first ≤ vpn ∧ vpn < v.first + v.count))

/-- A virtual address of a context is covered. -/
def coversVa (v : Cover) (ctx : Ctx) (va : Nat) : Bool := covers v ctx (vpnOf va)

/-- A TLB entry is covered: a 16 GiB entry when a page of it is. -/
def coversEnt (v : Cover) (e : TlbEnt) : Bool :=
  if e.leaf.big then
    e.ctx == v.ctx && (v.all || decide (v.first < (e.vpn / 512 + 1) * 512 ∧ e.vpn / 512 * 512 < v.first + v.count))
  else covers v e.ctx e.vpn

/-- A TLB without its covered entries. -/
def dropTlb (v : Cover) (t : SMap (Option TlbEnt)) : SMap (Option TlbEnt) :=
  mmap t fun _ e => match e with
    | some x => if coversEnt v x then none else some x
    | none => none

/-- A running descriptor whose pages are covered pauses: its translations are made again before it goes on (R308). -/
def pauseDma (v : Cover) (x : Dma) : Dma :=
  if x.pages.any fun p => coversVa v x.cmd.ctx p.1.1 then { x with paused := true, gen := x.gen - 1 } else x

/-- A running collective whose pages are covered pauses (R308). -/
def pauseTree (v : Cover) (x : Tree) : Tree :=
  { x with coll := x.coll.map fun c =>
    if c.pages.any fun p => coversVa v x.ctx p.1.1 then { c with paused := true, gen := c.gen - 1 } else c }

/-- Steps 1 and 2 of an invalidation: every TLB and walk cache drops what it covers, running descriptors pause (R310). A walk in
flight reads the tables when it ends, so it has restarted. -/
def invDrop (s : State) (v : Cover) : State :=
  let entry := baseOf s Reg.xltCtxtLo 20 + 16 * v.ctx.toNat
  { s with
    clus := mmap s.clus fun _ c => { c with tlb := dropTlb v c.tlb }
    xlt := { s.xlt with
      tlb2 := dropTlb v s.xlt.tlb2
      engTlb := dropTlb v s.xlt.engTlb
      walkCache := s.xlt.walkCache.filter fun e => !(e.2.2 == v.ctx && (v.all || e.1 != entry)) }
    dsp := { s.dsp with dma := mmap s.dsp.dma fun _ q => match q with
      | x :: t => pauseDma v x :: t
      | [] => [] }
    prz := { s.prz with trees := mmap s.prz.trees fun _ t => t.map (pauseTree v) } }

/-! ### Step 3: what it waits for -/

/-- A core has an access under way that a dropped entry translated. -/
def coreBusyOn (v : Cover) (c : CoreSt) : Bool :=
  (c.sb.any fun e => e.kind != .marker && coversVa v e.ctx e.va.toNat) || (c.cb.any fun l => coversVa v l.ctx l.va.toNat) ||
    ((c.pend.map fun p => coversVa v p.ctx p.va.toNat).getD false) ||
    (List.range 4).any fun i => match mgetD none c.lmv i with
      | some m => (List.range m.count).any fun b => !m.out && m.sent.getLsbD b && !m.done.getLsbD b && coversVa v m.ctx (lmvVa m b).toNat
      | none => false

/-- A cluster has an access under way at device scope; an isolated cluster has none that will be performed. -/
def clusterBusyOn (s : State) (v : Cover) (n : Nat) : Bool :=
  let c := mget s.clus n
  !c.isolated && ((c.outw.any fun o => o.dest == .device && coversVa v o.ctx o.va.toNat) || (c.miss.any fun m => m.ctx == v.ctx) ||
    s.cores.any fun e => e.1 / 256 == n && coreBusyOn v e.2)

/-- An engine has an access under way: a DMA between 4 KiB boundaries, a Prism or gate read across a posted path. -/
def engineBusyOn (s : State) (v : Cover) : Bool :=
  (s.dsp.dma.any fun q => match q.2 with
    | x :: _ => x.cmd.ctx == v.ctx && x.paused && (x.waiting || x.buf.isSome ||
        (decide (0 < x.next ∧ x.next < x.lines) && (x.src.toNat + 64 * x.next) % 4096 != 0))
    | [] => false) ||
    (s.prz.trees.any fun t => match t.2 with
      | some x => x.ctx == v.ctx && ((x.coll.map fun c => c.paused && c.got.any (·.2.isNone)).getD false)
      | none => false) ||
    s.dsp.rings.any fun r => match r.2.held with
      | some h => h.gateWait && coversVa v h.cmd.ctx h.cmd.waitAddr.toNat
      | none => false

/-- Every access translated under a dropped entry has been performed at device scope (R310 step 3). -/
def invQuiet (s : State) (v : Cover) : Bool := !(engineBusyOn s v) && (List.range 64).all fun n => !clusterBusyOn s v n

/-! ### Step 4: GEN -/

/-- Every queued translated descriptor of a context is translated again before it starts (R309). -/
def markAgain (s : State) (ctx : Ctx) : State :=
  let dma := fun x : Dma => if x.cmd.ctx = ctx ∧ x.next = 0 ∧ x.buf.isNone ∧ !x.waiting then { x with paused := true, pages := [] } else x
  let ring := fun r : RingSt =>
    { r with held := r.held.map fun h => if h.cmd.ctx = ctx ∧ !h.gateWait then { h with pages := [] } else h }
  s.modDsp fun d => { d with
    dma := mmap d.dma fun _ q => q.map dma
    rings := mmap d.rings fun _ r => ring r }

/-- GEN of a context advances by a masked write of bytes 8 and 9 of its entry; while EN is 0 nothing is written (R309, R310);
an error while the entry's line is in use. -/
def genAdvance (s : State) (ctx : Ctx) : Except Ask State :=
  if !(s.reg Reg.xltCtxtLo).getLsbD 0 then .ok (markAgain s ctx)
  else match readGen s ctx with
    | .error q => .error q
    | .ok (g, s) =>
      match agentPut s .walker 0 (baseOf s Reg.xltCtxtLo 20 + 16 * ctx.toNat + 8) 2 (g + 1).toNat with
      | .busy q => .error q
      | .refused => .ok s
      | .ok s => .ok (if g = 0xFFFF then markAgain s ctx else s)

/-! ### Commands -/

/-- The pages that the invalidation registers name; none where RANGE names none, or goes beyond VA bit 51 (R325). -/
def invCover (s : State) (all : Bool) : Option Cover :=
  let ctx := (s.reg Reg.xltInvCtx).extractLsb' 0 20
  let first := s.fld Reg.xltInvVaLo 25 7 + s.fld Reg.xltInvVaHi 0 20 * 128
  let count := s.fld Reg.xltInvPages 0 18
  if all then some ⟨ctx, true, 0, 0⟩
  else if count = 0 ∨ 2 ^ 27 < first + count then none
  else some ⟨ctx, false, first, count⟩

/-- A write to XLT_INV_CMD: none of its operations sets ERR, a write while one runs REFUSED; else the invalidation starts
(R310, R325). -/
def invCmd (s : State) (op : Nat) : State :=
  if s.xlt.inv.isSome then s.setFlag Reg.xltInvStat 1
  else match if op = 1 then invCover s false else if op = 2 then invCover s true else none with
    | none => s.setFlag Reg.xltInvStat 2
    | some v => (invDrop s v).modXlt fun x => { x with inv := some (v.all, v.first, v.count, v.ctx) }

/-- XLT_INV_RANGE (R310). -/
def execXltInvRange (ag : RegAgent) (s : State) : Out :=
  .next (withReg s ag Reg.xltInvCmd fun s => if frozen s then s else invCmd s 1)
/-- XLT_INV_CONTEXT (R310). -/
def execXltInvContext (ag : RegAgent) (s : State) : Out :=
  .next (withReg s ag Reg.xltInvCmd fun s => if frozen s then s else invCmd s 2)

/-- XLT_INV_DONE: the accesses are performed, GEN has advanced; STAMP and DONE (R310). -/
def execXltInvDone (s : State) : Out :=
  .next (match s.xlt.inv with
    | none => s
    | some (all, first, count, ctx) =>
      if !invQuiet s ⟨ctx, all, first, count⟩ || frozen s then s
      else match genAdvance s ctx with
        | .error q => s.ask q
        | .ok s => (setRegPair (s.modXlt fun x => { x with inv := none }) Reg.xltInvStamp s.ts).setFlag Reg.xltInvStat 0)

end Sys2Proof.Machine
end

