-- ==== Sys2Proof/Machine/PageCmds.lean ====
section
/-! DEFINITION. The page commands: BIAS (R253, R338), PREFETCH and ADVISE MIGRATE (R323, R324). Each starts once and goes on in
later steps of the same command until it completes. -/

namespace Sys2Proof.Machine

/-- A command's job. -/
def jobOf (s : State) (ring : BitVec 10) (opc : BitVec 8) : Option PageJob :=
  s.dsp.jobs.find? fun j => j.cmd.ring == ring && j.cmd.opc == opc
/-- Whether a job is a command's. -/
def sameJob (c : Cmd) (j : PageJob) : Bool := j.cmd.ring == c.ring && j.cmd.idx == c.idx
/-- Change a job. -/
def modJob (s : State) (c : Cmd) (f : PageJob → PageJob) : State :=
  s.modDsp fun d => { d with jobs := modFirst (sameJob c) f d.jobs }
/-- A started command becomes a job. -/
def startJob (s : State) (c : Cmd) (pages skipped : List Nat) : State :=
  releaseRing (s.modDsp fun d => { d with jobs := d.jobs ++ [⟨c, pages, skipped, 0, 0, 0⟩] }) c
/-- A job's command completes. -/
def endJob (s : State) (c : Cmd) (wrote : Wrote) (b : RecBody) : State :=
  completeCmd (s.modDsp fun d => { d with jobs := d.jobs.filter fun j => !sameJob c j }) c stOK wrote b

/-! ### BIAS -/

/-- The pages a BIAS names. -/
def biasPages (c : Cmd) : List Nat := (List.range (bodyNat c 0x18 2 % 512)).map fun i => bodyNat c 0x10 8 / 2 ^ 25 + i

/-- A page of another context is skipped (R338). -/
def biasSkips (s : State) (ctx : Ctx) (page : Nat) : Bool :=
  let tag := ownerTag s.mem page
  tag != ctx && tag != 0xFFFFF

/-- The flips of a BIAS that are not skipped begin; the job awaits them (R253). -/
def biasStart (s : State) (c : Cmd) : State :=
  let mine := (biasPages c).filter fun p => !biasSkips s c.ctx p
  let skip := (biasPages c).filter (biasSkips s c.ctx)
  let s := startJob s c mine skip
  mine.foldl (fun s p => beginFlip s p (bodyNat c 0x1A 1 % 2 = 1)) s

/-- A BIAS completes when no page of it is flipping (R253). -/
def biasGo (s : State) (j : PageJob) : State :=
  if j.pages.any fun p => isFlipping s.mem p then s else endJob s j.cmd none { lo := j.skipped.length }

/-- BIAS: the flips begin; once begun, it completes when every flip is done (R253, R334, R338). -/
def execBias (ring : BitVec 10) (s : State) : Out :=
  .next (if dspStopped s then s else
    let s := match startedCmd s ring 5 with
      | some h => biasStart s h.cmd
      | none => s
    match jobOf s ring 5 with
    | some j => biasGo s j
    | none => s)

/-! ### PREFETCH -/

/-- The part of a prefetch's range that lies in a page. -/
def prefetchPart (c : Cmd) (page : Nat) : Nat × Nat :=
  let a := bodyNat c 0x10 8
  let e := a + bodyNat c 0x18 8
  (max a page, min e (page + 2 ^ 25))

/-- Read up to n lines of a page's part into the base cache from line i on (R324); the index reached. -/
def fillLines (c : Cmd) (pa last : Nat) : Nat → Nat → State → Nat × State
  | i, 0, s => (i, s)
  | i, n + 1, s =>
    if last < pa / 64 + i then (i, s)
    else match agentReadAny s .dsp 0 c.ctx (pa / 64 + i) (bodyNat c 0x20 1 / 2 % 2 = 1) with
      | .busy q => (i, s.ask q)
      | .refused => fillLines c pa last (i + 1) n s
      | .ok (_, _, s) => fillLines c pa last (i + 1) n s

/-- The first page of a prefetch goes on: translated into both second-level TLBs, or skipped where it would fault; with FILL its
lines are read, 4,096 a step (R324). -/
def prefetchPage (s : State) (j : PageJob) (page : Nat) : State :=
  let c := j.cmd
  let next := fun s : State => modJob s c fun j => { j with pages := j.pages.drop 1, next := 0 }
  if pageHeld s c.ctx (BitVec.ofNat 64 page) then s
  else match walk s c.ctx (BitVec.ofNat 64 page) .read with
    | .busy q => s.ask q
    | .fault _ _ _ s => next (modJob s c fun j => { j with skipped := j.skipped ++ [page] })
    | .ok l seen s =>
      let s := fillTlb2 (fillTlb2 (fillWalkCache s c.ctx seen) false c.ctx page l) true c.ctx page l
      let (lo, hi) := prefetchPart c page
      if bodyNat c 0x20 1 % 2 = 0 ∨ l.tgt ≠ 0 then next s
      else
        let pa := physOf l lo
        let last := (pa + (hi - lo) - 1) / 64
        match fillLines c pa last j.next 4096 s with
        | (i, s) => if last < pa / 64 + i then next s else modJob s c fun j => { j with next := i }

/-- A prefetch goes on, and completes with the count of pages it skipped (R324, R339). -/
def prefetchGo (s : State) (j : PageJob) : State :=
  match j.pages with
  | [] => endJob s j.cmd none { lo := j.skipped.length }
  | p :: _ => prefetchPage s j p

/-- PREFETCH (R324). -/
def execPrefetch (ring : BitVec 10) (s : State) : Out :=
  .next (if dspStopped s then s else
    let s := match startedCmd s ring 6 with
      | some h => startJob s h.cmd (rangePages (bodyNat h.cmd 0x10 8) (bodyNat h.cmd 0x18 8)) []
      | none => s
    match jobOf s ring 6 with
    | some j => prefetchGo s j
    | none => s)

/-! ### ADVISE MIGRATE -/

/-- Address and value of the level 3 entry of an address, from the table of a level on (R297); none where there is none. -/
def leafEntryFrom (s : State) (va table : Nat) : Nat → AgRes (Option (Nat × BitVec 64) × State)
  | 0 => .ok (none, s)
  | n + 1 =>
    let level := 3 - n
    let a := table + 8 * levelIndex va level
    match agentWord s .walker 0 a 8 with
    | .busy q => .busy q
    | .refused => .ok (none, s)
    | .ok (v, p, s) =>
      let e := BitVec.ofNat 64 v
      if p || !e.getLsbD 0 then .ok (none, s)
      else if e.getLsbD 1 then .ok (if level = 3 then some (a, e) else none, s)
      else leafEntryFrom s va ((e.extractLsb' 12 32).toNat * 4096) n

/-- Address and value of the level 3 leaf of a page. -/
def leafEntry (s : State) (ctx : Ctx) (va : Nat) : AgRes (Option (Nat × BitVec 64) × State) :=
  match agentWord s .walker 0 (baseOf s Reg.xltCtxtLo 20 + 16 * ctx.toNat) 8 with
  | .busy q => .busy q
  | .refused => .ok (none, s)
  | .ok (v, _, s) => leafEntryFrom s va (((BitVec.ofNat 64 v).extractLsb' 12 32).toNat * 4096) 3

/-- The virtual address of page i of an ADVISE. -/
def adviseVa (c : Cmd) (i : Nat) : Nat := bodyNat c 0x10 8 + i * 2 ^ 25

/-- A migration is done with its first page, moved or not: new translations of the page go on. -/
def adviseNext (s : State) (c : Cmd) (i : Nat) (moved : Bool) : State :=
  let s := s.modXlt fun x => { x with held := x.held.filter fun h => !(h == (c.ctx, vpnOf (adviseVa c i))) }
  modJob s c fun j => { j with pages := j.pages.drop 1, skipped := if moved then j.skipped else j.skipped ++ [i], phase := 0, next := 0 }

/-- Lines of a page that no cluster may lose now: in transit, in UP or KE, or held. -/
def pageUnsettled (s : State) (page : Nat) : Bool :=
  s.clus.any fun e =>
    let c := e.2
    (c.wb.any fun w => pageOf w.line == page) || (c.miss.any fun m => pageOf m.line == page) ||
      c.l2.any fun w => match w.2 with
        | some x => pageOf x.line == page && (x.st == .UP || x.st == .KE)
        | none => false

/-- Write every dirty line of a page back from the clusters to its home, the copies staying clean (R217). -/
def cleanClusters (s : State) (page : Nat) : State :=
  s.clus.foldl (fun s e =>
    e.2.l2.foldl (fun s w => match w.2 with
      | some x =>
        if pageOf x.line = page ∧ x.st = .M then
          let cl := BitVec.ofNat 6 e.1
          let cls := classOfAgent s (dieOfHome (homeOf s.mem x.line)) (.cluster cl) 0
          setWay (memWrite s x.line Mask.full x.data x.poison cls false) cl w.1 (some { x with st := .E })
        else s
      | none => s) s) s

/-- Clean a page down to its stacks (R217, R324). -/
def cleanPage (s : State) (page : Nat) : State :=
  let r : RmRun := ⟨.clean, page * 2 ^ 25, 2 ^ 25, none, []⟩
  let s := cleanClusters s page
  s.modMem fun m => m.bcc.foldl (rmBaseWay r) m

/-- Copy up to n lines of a page from line i on; the index reached, and whether a line was refused. -/
def migrateLines (c : Cmd) (src dst : Nat) : Nat → Nat → State → Nat × Bool × State
  | i, 0, s => (i, false, s)
  | i, n + 1, s =>
    if 2 ^ 19 ≤ i then (i, false, s)
    else match agentReadAny s .dsp 0 c.ctx (src / 64 + i) false with
      | .busy q => (i, false, s.ask q)
      | .refused => (i, true, s)
      | .ok (d, p, s1) =>
        match agentWrite s1 .dsp 0 c.ctx (dst / 64 + i) Mask.full d p false with
        | .busy q => (i, false, s.ask q)
        | .refused => (i, true, s)
        | .ok s => migrateLines c src dst (i + 1) n s

/-- The first page of a migration goes on by one phase (R324): destination and hold, invalidation, clean, copy, new leaf. -/
def advisePage (s : State) (j : PageJob) (i : Nat) : State :=
  let c := j.cmd
  let va := adviseVa c i
  let v : Cover := ⟨c.ctx, false, vpnOf va, 1⟩
  let goTo := fun (s : State) (n : Nat) => modJob s c fun j => { j with phase := n, next := 0 }
  match leafEntry s c.ctx va with
  | .busy q => s.ask q
  | .refused => adviseNext s c i false
  | .ok (none, s) => adviseNext s c i false
  | .ok (some (a, e), s) =>
    let l := leafOf e false
    if l.tgt ≠ 0 then adviseNext s c i false
    else match j.phase with
      | 0 =>
        match agentWord s .dsp c.ctx (bodyNat c 0x20 8 + 8 * i) 8 with
        | .busy q => s.ask q
        | .refused => adviseNext s c i false
        | .ok (d, p, s) =>
          if p ∨ d % 2 ^ 25 ≠ 0 ∨ !inTiers s.mem d (2 ^ 25) ∨ ownerTag s.mem (d / 2 ^ 25) ≠ c.ctx then adviseNext s c i false
          else
            let s := s.modXlt fun x => { x with held := x.held ++ [(c.ctx, vpnOf va)] }
            modJob (invDrop s v) c fun j => { j with phase := 1, dest := d, next := 0 }
      | 1 =>
        if !invQuiet s v then s
        else match genAdvance s c.ctx with
          | .ok s => goTo s 2
          | .error q => s.ask q
      | 2 => if pageUnsettled s (l.addr / 2 ^ 25) then s else goTo (cleanPage s (l.addr / 2 ^ 25)) 3
      | 3 =>
        match migrateLines c l.addr j.dest j.next 4096 s with
        | (n, bad, s) =>
          if bad then adviseNext s c i false
          else if 2 ^ 19 ≤ n then goTo s 4 else modJob s c fun j => { j with next := n }
      | _ =>
        let new := (e &&& ~~~(0x7FFFF#64 <<< 25)) ||| BitVec.ofNat 64 (j.dest % 2 ^ 44)
        match agentPut s .walker 0 a 8 new.toNat with
        | .busy q => s.ask q
        | .refused => adviseNext s c i false
        | .ok s => adviseNext s c i true

/-- A migration goes on, and completes with the map of the pages it did not move (R324, R339). -/
def adviseGo (s : State) (j : PageJob) : State :=
  match j.pages with
  | [] =>
    let m := j.skipped.foldl (fun n i => n + 2 ^ i) 0
    endJob s j.cmd (some (s.ts, 0)) { lo := m % 2 ^ 64, hi := m / 2 ^ 64 }
  | i :: _ => advisePage s j i

/-- ADVISE_MIGRATE (R324). -/
def execAdviseMigrate (ring : BitVec 10) (s : State) : Out :=
  .next (if dspStopped s then s else
    let s := match startedCmd s ring 7 with
      | some h => startJob s h.cmd (List.range (bodyNat h.cmd 0x18 1)) []
      | none => s
    match jobOf s ring 7 with
    | some j => adviseGo s j
    | none => s)

/-- Every page command that runs goes on. -/
def jobsGo (s : State) : State :=
  s.dsp.jobs.foldl (fun s j =>
    match s.dsp.jobs.find? (sameJob j.cmd) with
    | none => s
    | some j => match j.cmd.opc.toNat with
      | 5 => biasGo s j
      | 6 => prefetchGo s j
      | _ => adviseGo s j) s

end Sys2Proof.Machine
end

