-- ==== Sys2Proof/Machine/Aperture.lean ====
section
/-! DEFINITION. The four aperture windows (R402, R431 to R434): how a request decodes, what is refused, and reads and writes of
bytes at the homes for the host port and the service port. -/

namespace Sys2Proof.Machine

/-! ### Bytes at the homes -/

/-- Little-endian value of bytes. -/
def bytesNat (l : List Byte) : Nat := l.foldr (fun b n => b.toNat + 256 * n) 0

/-- The bytes of a write by line: line, offset in it, bytes. -/
def pieces : Nat → Nat → List Byte → List (Nat × Nat × List Byte)
  | 0, _, _ => []
  | _, _, [] => []
  | n + 1, pa, b => (pa / 64, pa % 64, b.take (64 - pa % 64)) :: pieces n (pa + (64 - pa % 64)) (b.drop (64 - pa % 64))

/-- Write bytes as WRP of an agent, line by line; a line in use makes the whole write wait. -/
def writeBytes (s : State) (a : Agent) (ctx : Ctx) (pa : Nat) (b : List Byte) (poison : Bool) : AgRes State :=
  (pieces 18 pa b).foldl (fun r p => match r with
    | .ok s => agentWrite s a 0 ctx p.1 (maskAt p.2.1 p.2.2.length) (lineAt p.2.1 p.2.2.length (bytesNat p.2.2)) poison false
    | x => x) (.ok s)

/-- Bytes of a line from an offset. -/
def bytesOf (d : Line) (k n : Nat) : List Byte := (List.range n).map fun i => lineByte d (k + i)

/-- Read bytes as RDC of an agent, with whether a line was poisoned; a line in use makes the whole read wait. -/
def readBytes (a : Agent) (ctx : Ctx) : Nat → Nat → Nat → State → AgRes (List Byte × Bool × State)
  | 0, _, _, s => .ok ([], false, s)
  | n + 1, pa, len, s =>
    if len = 0 then .ok ([], false, s)
    else
      let k := min len (64 - pa % 64)
      match agentReadAny s a 0 ctx (pa / 64) false with
      | .busy q => .busy q
      | .refused => .refused
      | .ok (d, p, s) =>
        match readBytes a ctx n (pa + k) (len - k) s with
        | .ok (b, q, s) => .ok (bytesOf d (pa % 64) k ++ b, p || q, s)
        | x => x

/-! ### Triplicated fields (R449) -/

/-- The value that two of three copies agree on. -/
def vote3 {α : Type} [DecidableEq α] (t : Tri α) : Option α :=
  if t.a = t.b then some t.a else if t.a = t.c then some t.a else if t.b = t.c then some t.b else none

/-- Three copies of a value. -/
def tri {α : Type} (v : α) : Tri α := ⟨v, v, v⟩

/-! ### Windows (R431, R436) -/

/-- A window is enabled. -/
def winOn (s : State) (n : Nat) : Bool := ((vote3 s.regs.winEn).getD 0).getLsbD n
/-- Size S; SIZE above 8 acts as 8. -/
def winSize (s : State) (n : Nat) : Nat := 2 ^ (28 + min (s.fld (Reg.apwWin n 0x10) 20 4) 8)
/-- BASE. -/
def winBase (s : State) (n : Nat) : Nat := s.fld (Reg.apwWin n 4) 0 12 * 2 ^ 32 + s.fld (Reg.apwWin n 0) 28 4 * 2 ^ 28
/-- BUS. -/
def winBus (s : State) (n : Nat) : Nat := s.fld (Reg.apwWin n 0xC) 0 32 * 2 ^ 32 + s.fld (Reg.apwWin n 8) 28 4 * 2 ^ 28
/-- CTX. -/
def winCtx (s : State) (n : Nat) : Ctx := BitVec.ofNat 20 (s.fld (Reg.apwWin n 0x10) 0 20)
/-- WR. -/
def winWr (s : State) (n : Nat) : Bool := (s.reg (Reg.apwWin n 0x10)).getLsbD 24

/-- A refused request: REFUSED and a crumb with its bus address; type 0x00 and class notice, as it is no event (R432, R504, R513). -/
def apwRefuse (s : State) (ctx : Ctx) (bus : Nat) : State :=
  writeCrumb (s.setFlag Reg.apwStat 1) (srcId dieIod 0 0) 0x05 0 ctx 0 (BitVec.ofNat 64 bus) s.ts

/-- A write that no agent may make through a window: WR is 0, or its page is packed (R432). -/
def winNoWrite (s : State) (n pa : Nat) : Bool := !winWr s n || isPacked (pa / 64)

/-! ### Requests to the regions (R402, R431) -/

/-- The window that holds a bus address. -/
def winOf (s : State) (bus : Nat) : Option Nat :=
  (List.range 4).find? fun n => winOn s n && decide (winBus s n ≤ bus) && decide (bus < winBus s n + winSize s n)

end Sys2Proof.Machine
end

