-- ==== Sys2Proof/Machine/HostPort.lean ====
section
/-! DEFINITION. The host port (chapter 12): M2S messages, snoops, HDM decoders, configuration space, BAR2, interrupts, device power
states, ASPM, link loss and return, the host's bias commands, and the host window. -/

namespace Sys2Proof.Machine

/-! ### Memory decoding (R407, R408) -/

/-- The device physical address of a host physical address that a committed decoder covers. -/
def paOfHpa (s : State) (hpa : BitVec 64) : Option Nat :=
  let a := hpa.toNat
  s.hpt.hdm.findSome? fun e =>
    let d := e.2
    if d.committed ∧ d.base ≤ a ∧ a < d.base + d.size then some (paOfDpa s.mem (d.dpa + (a - d.base))) else none

/-! ### CXL.mem (R410, R411, R252) -/

/-- M2S requests and host writes that await their answers. -/
def openReads (s : State) : Nat := (s.hpt.reqs.filter (·.read)).length
def openWrites (s : State) : Nat := (s.hpt.reqs.filter fun r => !r.read).length

/-- A message of the host arrives: not while the complex is held in reset, and only over a link that carries flits. -/
def fromHost (s : State) (f : State → State) : State := if s.boot.inReset || !linkUp s then s else f (wakeLink s)

/-- Send a host request to the home of a line; it awaits its answer. -/
def hptRequest (s : State) (hpa : BitVec 64) (pa : Nat) (read : Bool) (m : Msg) : State :=
  let i := s.hpt.nextReq
  let m := { m with src := .hpt, dst := .home (homeOf s.mem (pa / 64)), line := pa / 64, tag := .host i, orig := m.kind }
  { s.modHpt fun h => { h with nextReq := i + 1, reqs := h.reqs ++ [⟨i, hpa, pa / 64, read, false⟩] } with net := s.net ++ [m] }

/-- A host read asking a state: RDH; poison in the safe state (R26, R510); 256 reads fill the buffer (R413). An address that no
decoder covers is answered with poison (log entry 36). -/
def hostRead (s : State) (hpa : BitVec 64) (ask : HostState) : State :=
  match paOfHpa s hpa with
  | none => hptSend s (.drs hpa (Config.poisonData (hpa.toNat / 64)) true .I)
  | some pa =>
    if s.fcl.safe then hptSend s (.drs hpa (Config.poisonData (pa / 64)) true .I)
    else if 256 ≤ openReads s then s
    else hptRequest s hpa pa true { msg .rdh .hpt .hpt 0 0 with hst := ask }

/-- A host write: HDT of an outstanding snoop of its line, else WRH; answered without a write in the safe state (R510); 128
writes fill the buffer (R413). A poisoned one sets POISON (R423). -/
def hostWrite (s : State) (hpa : BitVec 64) (m : Mask) (d : Line) (poison : Bool) : State :=
  let note := fun s : State => if poison then s.setFlag Reg.hptStat 3 else s
  match paOfHpa s hpa with
  | none => hptSend (note s) (.cmp hpa .I)
  | some pa =>
    if s.fcl.safe then hptSend (note s) (.cmp hpa .I)
    else if 128 ≤ openWrites s then s
    else
      let snooped := s.hpt.bis.any (·.line == pa / 64)
      let k : MsgKind := if snooped then .hdt else .wrh
      let s := hptRequest (note s) hpa pa false { msg k .hpt .hpt 0 0 with mask := m, data := d, poison := poison }
      if snooped then
        s.modHpt fun h => { h with bis := h.bis.map fun b => if b.line = pa / 64 then { b with hdt := true } else b }
      else s

/-- MEMRD (R410). -/
def execMemrd (hpa : BitVec 64) (mv : HostState) (s : State) : Out := .next (fromHost s fun s => hostRead s hpa mv)
/-- MEMRDDATA asks S (R410). -/
def execMemrddata (hpa : BitVec 64) (s : State) : Out := .next (fromHost s fun s => hostRead s hpa .S)
/-- MEMWR (R410). -/
def execMemwr (hpa : BitVec 64) (data : BitVec 512) (poison : Bool) (s : State) : Out :=
  .next (fromHost s fun s => hostWrite s hpa Mask.full data poison)
/-- MEMWRPTL (R410). -/
def execMemwrptl (hpa : BitVec 64) (mask : BitVec 64) (data : BitVec 512) (poison : Bool) (s : State) : Out :=
  .next (fromHost s fun s => hostWrite s hpa mask data poison)
/-- MEMSPECRD is dropped: no response is due (R410). -/
def execMemspecrd (_hpa : BitVec 64) (s : State) : Out := .next (fromHost s fun s => s)
/-- MEMINV: Cmp with MetaValue I, and no home request (R410). -/
def execMeminv (hpa : BitVec 64) (s : State) : Out := .next (fromHost s fun s => hptSend s (.cmp hpa .I))
/-- BICONFLICT: acknowledged once every earlier request of the line has its response (R411). -/
def execBiconflict (hpa : BitVec 64) (s : State) : Out :=
  .next (fromHost s fun s =>
    let line := (paOfHpa s hpa).map (· / 64)
    let ids := (s.hpt.reqs.filter fun r => some r.line == line).map (·.id)
    settleConflicts (s.modHpt fun h => { h with conflicts := h.conflicts ++ [(hpa, ids)] }))
/-- H2D_SNOOP: the port holds no D2H line (R412). -/
def execH2dSnoop (hpa : BitVec 64) (s : State) : Out := .next (fromHost s fun s => hptSend s (.rspIHitI hpa))

/-! ### HDM decoders (R408, R409) -/

/-- An HDM decoder. -/
def hdmAt (s : State) (n : Nat) : Hdm := mget s.hpt.hdm n

/-- The DPA at which a decoder's range starts: the end of the one before it, and its skip. -/
def hdmStart (s : State) (n : Nat) : Nat :=
  let p := hdmAt s (n - 1)
  p.dpa + p.size + (hdmAt s n).skip

/-- Two address ranges overlap. -/
def overlap (a n b m : Nat) : Bool := decide (a < b + m ∧ b < a + n)

/-- Every condition of a commit holds. -/
def hdmOk (s : State) (n : Nat) : Bool :=
  let d := hdmAt s n
  d.ways == 0 && d.base % 2 ^ 28 == 0 && d.size % 2 ^ 28 == 0 && d.size != 0 && (hdmAt s (n - 1)).committed &&
    decide (hdmStart s n + d.size ≤ tierLimit s.mem .near + tierLimit s.mem .far) &&
    (List.range 4).all fun k => k == n || !(hdmAt s k).committed || !overlap d.base d.size (hdmAt s k).base (hdmAt s k).size

/-- Commit of decoder 1 to 3; decoder 0 belongs to the complex, and a committed decoder stays as it is. -/
def hdmCommit (s : State) (n : Nat) : State :=
  if n = 0 ∨ (hdmAt s n).committed then s
  else
    let d := hdmAt s n
    let d := if hdmOk s n then { d with committed := true, err := false, dpa := hdmStart s n } else { d with err := true }
    s.modHpt fun h => { h with hdm := mset h.hdm n d }

/-- HDM_COMMIT (R408). -/
def execHdmCommit (n : BitVec 2) (s : State) : Out := .next (fromHost s fun s => hdmCommit s n.toNat)

/-- Decoder 0 as boot commits it, from HPT_EARLY_BASE, and its pages in shared bias (R409, R22). -/
def earlyCommit (s : State) : State :=
  let d : Hdm := { base := s.fld Reg.hptEarlyBase 0 20 * 2 ^ 36, size := 2 ^ 36, skip := 0, dpa := 0, ways := 0,
                   committed := true, err := false, locked := true }
  (s.modHpt fun h => { h with hdm := mset h.hdm 0 d }).modMem fun m =>
    { m with biasEarly := 3, bias := m.bias.filter fun e => 2048 ≤ e.1 % 2 ^ 20 }

/-! ### Device power states (R27, R418) -/

/-- Nothing that the dispatcher started is left. -/
def dspIdle (s : State) : Bool :=
  s.dsp.launches.isEmpty && s.dsp.dma.all (·.2.isEmpty) && s.dsp.markers.isEmpty && s.dsp.jobs.isEmpty &&
    s.dsp.colls.all (·.2.isNone) && s.dsp.rings.all fun r => r.2.active.isEmpty

/-- In D3 every cluster PLL stops once the running commands have ended and its own stop conditions hold (R58, R418). -/
def d3Stop (s : State) : State :=
  if s.hpt.dstate = .d0 ∨ !dspIdle s ∨ frozen s then s
  else s.clus.foldl (fun s e =>
    let cl := BitVec.ofNat 6 e.1
    if pllIdle s cl then s.modCluster cl fun c => { c with pll := .stopped, idleTs := none } else s) s

/-- PowerState of PMCSR follows the device state. -/
def setD (s : State) (d : DState) : State :=
  let v : BitVec 32 := match d with
    | .d0 => 0
    | _ => 3
  s.modHpt fun h => { h with dstate := d, cfg := mset h.cfg cfgPmcsr ((mgetD 0 h.cfg cfgPmcsr &&& ~~~3) ||| v) }

/-- A PMCSR write to D3hot: no command is taken; the PLLs stop when the running commands have ended (R418). -/
def enterD3hot (s : State) : State := if s.hpt.dstate = .d0 then d3Stop (setD s .d3hot) else s

/-- D3HOT_ENTRY (R418). -/
def execD3hotEntry (s : State) : Out := .next (fromHost s enterD3hot)

/-- Nothing is under way between the clusters and the homes, and every buffer of the compute dies is empty (R293). -/
def diesQuiet (s : State) : Bool :=
  s.clus.all (fun e => e.2.wb.isEmpty && e.2.miss.isEmpty && e.2.outw.isEmpty && pllIdle s (BitVec.ofNat 6 e.1) &&
    e.2.l2.all fun w => match w.2 with
      | some x => x.st != .UP && x.st != .KE
      | none => true) &&
  s.net.isEmpty && s.retried.isEmpty &&
  s.mem.homes.all fun h => h.2.queue.isEmpty && h.2.txns.isEmpty && h.2.vic.isEmpty && h.2.reclaim.isEmpty

/-- A cluster L2 writes back every dirty line (R418). -/
def writeBackAll (s : State) (cl : BitVec 6) : State :=
  (s.cluster cl).l2.foldl (fun s w => match w.2 with
    | some x =>
      if x.st = .M then
        memWrite s x.line Mask.full x.data x.poison (classOfAgent s (dieOfHome (homeOf s.mem x.line)) (.cluster cl) 0) false
      else s
    | none => s) s

/-- The directories forget every cluster: step 4 of R256 without poisoning. -/
def forgetClusters (m : MemSt) : MemSt :=
  m.dir.foldl (fun m e => match e.2 with
    | some d => dirPut m e.1 { d with cst := .N, sharers := 0 }
    | none => m) m

/-- The compute dies as cold reset leaves them: stores, registers and clocks (R220, R221). -/
def diesReset (s : State) : State :=
  { s with
    clus := [], cores := []
    regs := { s.regs with
      val := s.regs.val.filter fun e => !(0x1000000 ≤ e.1 && e.1 < 0x2000000)
      cnt := s.regs.cnt.filter fun e => !(0x1000000 ≤ e.1 && e.1 < 0x2000000) } }

/-- D3cold: dirty lines go home, the homes forget the clusters, power leaves the compute dies and fabric ports (R27, R418). -/
def enterD3cold (s : State) : State :=
  if s.hpt.dstate ≠ .d3hot ∨ !dspIdle s ∨ !diesQuiet s ∨ frozen s then s
  else
    let s := s.clus.foldl (fun s e => writeBackAll s (BitVec.ofNat 6 e.1)) s
    let s := diesReset (s.modMem forgetClusters)
    let s := s.modFab fun f => { f with ports := mmap f.ports fun _ x => { (default : PortSt) with rxFsn := 0xFFFF, fails := x.fails } }
    (setD s .d3cold).modBoot fun b => { b with offDie := b.offDie.filter (· < 3) ++ [3, 4, 5, 6] }

/-- D3COLD_ENTRY (R418). -/
def execD3coldEntry (s : State) : Out := .next (if s.boot.inReset then s else enterD3cold s)

/-- A return to D0: from D3cold the compute dies have power again, their stores as after cold reset, and the enabled fabric ports
train (R418). -/
def returnD0 (s : State) : State :=
  match s.hpt.dstate with
  | .d0 => s
  | .d3hot => setD s .d0
  | .d3cold =>
    let s := (diesReset (setD s .d0)).modBoot fun b => { b with offDie := b.offDie.filter (· < 3) }
    (List.range 12).foldl (fun s n => portEnable s (BitVec.ofNat 4 n) ((s.reg (Reg.fabPort n 0)).getLsbD 0)) s

/-- D0_RETURN (R418). -/
def execD0Return (s : State) : Out := .next (if s.boot.inReset then s else returnD0 s)

/-! ### Configuration space (R401 to R403). The spec gives no places but those of the discovery DVSEC's fields; log entry 30 lists the
places taken from PCI and CXL. -/

def cfgDevCtl : Nat := 0x16
def cfgLinkCtl : Nat := 0x18
def cfgAer : Nat := 0x41
def cfgAerCor : Nat := 0x44
def cfgRebar : Nat := 0x52
def cfgDvsec : Nat := 0x60
def cfgHdm (n w : Nat) : Nat := 0x200 + 8 * n + w

/-- Some cause bit that HPT_INTEN enables is set (R416, R417). -/
def svpCause (s : State) : Bool :=
  ((s.reg Reg.svpStat).extractLsb' 0 9 &&& (s.reg Reg.svpEvEn).extractLsb' 0 9) != 0 ||
    (s.svp.intx &&& (s.reg Reg.svpEvEn).extractLsb' 9 4) != 0

/-- HPT_INTCAUSE: each bit reads 1 while its source holds a set flag (R416, R430). -/
def intCause (s : State) : BitVec 6 :=
  let b := fun (n : Nat) (x : Bool) => if x then 1#6 <<< n else 0
  let any := fun off : Nat => (s.reg off).extractLsb' 0 16 != 0
  b 0 ((List.range 16).any fun m => any (Reg.dspEvCause + 4 * m)) ||| b 1 (s.flag Reg.xltFqStat 0) |||
    b 2 ((s.reg Reg.fclStat).extractLsb' 0 5 != 0) ||| b 3 (svpCause s) ||| b 4 ((s.reg Reg.hptStat).extractLsb' 0 4 != 0) |||
    b 5 (s.flag Reg.fabDrainStat 0 || s.flag Reg.svpDrainStat 0)

/-- The interrupt line before Interrupt Disable. -/
def intPending (s : State) : Bool := (intCause s &&& (s.reg Reg.hptInten).extractLsb' 0 6) != 0
/-- The interrupt line (R417). -/
def intLine (s : State) : Bool := intPending s && !s.hpt.command.getLsbD 10

/-- The discovery DVSEC (R403); the vendor ID and the next pointer are free. -/
def dvsecWord (i : Nat) : BitVec 32 :=
  let vendor := (Config.cfgSpace 0).extractLsb' 0 16
  match i with
  | 0 => (Config.cfgSpace cfgDvsec).extractLsb' 20 12 ++ 0x1#4 ++ 0x0023#16
  | 1 => 0x018#12 ++ 0#4 ++ vendor
  | 2 => 0x0001#32
  | 5 => 0x0001_0000
  | _ => 0

/-- A decoder's words: base, size, control, skip. -/
def hdmWord (d : Hdm) (w : Nat) : BitVec 32 :=
  let lo := fun n : Nat => BitVec.ofNat 32 n
  let hi := fun n : Nat => BitVec.ofNat 32 (n / 2 ^ 32)
  let b := fun (n : Nat) (x : Bool) => if x then 1#32 <<< n else 0
  match w with
  | 0 => lo d.base | 1 => hi d.base | 2 => lo d.size | 3 => hi d.size
  | 4 => (d.ways.setWidth 32 <<< 4) ||| b 8 d.locked ||| b 9 d.committed ||| b 10 d.committed ||| b 11 d.err
  | 5 => lo d.skip | 6 => hi d.skip | _ => 0

/-- Size of BAR2 (R402). -/
def bar2Size (s : State) : Nat := 2 ^ (30 + s.hpt.bar2)

/-- A configuration dword as it reads. -/
def cfgRead (s : State) (r : Nat) : BitVec 32 :=
  let v := mgetD 0 s.hpt.cfg r
  if 0x200 ≤ r ∧ r < 0x220 then hdmWord (hdmAt s ((r - 0x200) / 8)) ((r - 0x200) % 8)
  else if cfgDvsec ≤ r ∧ r < cfgDvsec + 6 then dvsecWord (r - cfgDvsec)
  else match r with
  | 0x00 => 0x5A40#16 ++ (Config.cfgSpace 0).extractLsb' 0 16
  | 0x01 => (if intPending s then 0x0018#16 else 0x0010#16) ++ s.hpt.command
  | 0x02 => 0x120000#24 ++ s.fuse.stepping.extractLsb' 0 8
  | 0x03 => 0
  | 0x04 => v ||| 0x4
  | 0x05 => v
  | 0x06 => v ||| 0xC
  | 0x07 => v
  | 0x08 => 0
  | 0x09 => 0
  | 0x0F => 0x00000100 ||| v
  | 0x11 => v ||| (if s.hpt.pme then 0x8000 else 0)
  | 0x15 => (Config.cfgSpace 0x15 &&& ~~~0x1000003F) ||| 0x22
  | 0x16 => v
  | 0x18 => v
  | 0x41 => s.hpt.aer
  | 0x44 => v
  | 0x52 => (Config.cfgSpace 0x52 &&& ~~~0x3F00) ||| BitVec.ofNat 32 ((10 + s.hpt.bar2) * 256)
  | _ => Config.cfgSpace r

/-- A host write of a decoder's word; not of decoder 0, nor of a committed one (R408, R409). -/
def hdmWrite (s : State) (n w : Nat) (v : BitVec 32) : State :=
  let d := hdmAt s n
  let lo := fun old : Nat => old / 2 ^ 32 * 2 ^ 32 + v.toNat / 2 ^ 28 * 2 ^ 28
  let hi := fun old : Nat => v.toNat * 2 ^ 32 + old % 2 ^ 32
  let put := fun d : Hdm => s.modHpt fun h => { h with hdm := mset h.hdm n d }
  if n = 0 ∨ d.committed then s
  else match w with
  | 0 => put { d with base := lo d.base }
  | 1 => put { d with base := hi d.base }
  | 2 => put { d with size := lo d.size }
  | 3 => put { d with size := hi d.size }
  | 4 =>
    let s := put { d with ways := v.extractLsb' 4 4, locked := v.getLsbD 8 }
    if v.getLsbD 9 then hdmCommit s n else s
  | 5 => put { d with skip := lo d.skip }
  | 6 => put { d with skip := hi d.skip }
  | _ => s

/-- PMCSR: PowerState, PME_En, and PME_Status, which a 1 clears; clearing it releases the wake output (R418). -/
def pmcsrWrite (s : State) (v : BitVec 32) : State :=
  let s := s.modHpt fun h => { h with
    cfg := mset h.cfg cfgPmcsr ((mgetD 0 h.cfg cfgPmcsr &&& 3) ||| (v &&& 0x100)), pme := h.pme && !v.getLsbD 15 }
  let s := if v.getLsbD 15 then s.modBoot fun b => { b with wakeN := false } else s
  match (v.extractLsb' 0 2).toNat with
  | 3 => enterD3hot s
  | 0 => if s.hpt.dstate = .d3hot then returnD0 s else s
  | _ => s

/-- A host write of a configuration dword. -/
def cfgWrite (s : State) (r : Nat) (v : BitVec 32) : State :=
  let put := fun x : BitVec 32 => s.modHpt fun h => { h with cfg := mset h.cfg r x }
  if 0x200 ≤ r ∧ r < 0x220 then hdmWrite s ((r - 0x200) / 8) ((r - 0x200) % 8) v
  else match r with
  | 0x01 => s.modHpt fun h => { h with command := v.extractLsb' 0 16 &&& 0x0406 }
  | 0x04 => put (v &&& 0xFC000000)
  | 0x05 => put v
  | 0x06 => put (v &&& BitVec.ofNat 32 (2 ^ 32 - min (bar2Size s) (2 ^ 32)))
  | 0x07 => put (v &&& BitVec.ofNat 32 (2 ^ 32 - max (bar2Size s / 2 ^ 32) 1))
  | 0x0F => put (v &&& 0xFF)
  | 0x11 => pmcsrWrite s v
  | 0x16 => put (v &&& 0x00007FFF)
  | 0x18 => put (v &&& 0x00000FFF)
  | 0x41 => s.modHpt fun h => { h with aer := h.aer &&& ~~~v }
  | 0x44 => put (mgetD 0 s.hpt.cfg r &&& ~~~v)
  | 0x52 =>
    let n := bitsN v.toNat 8 6
    if memEnabled s ∨ n < 10 ∨ 18 < n then s else s.modHpt fun h => { h with bar2 := n - 10 }
  | _ => s

/-- The bytes of a register word. -/
def wordBytes (v : BitVec 32) : List Byte := (List.range 4).map fun i => v.extractLsb' (8 * i) 8

/-- CONFIG_REQUEST: answered with its dword, or performed (R401, R402, R408, R418, R419). -/
def execConfigRequest (wr : Bool) (reg : BitVec 10) (v : BitVec 32) (s : State) : Out :=
  .next (fromHost s fun s =>
    if wr then hptSend (cfgWrite s reg.toNat v) (.cpl .sc [] false)
    else hptSend s (.cpl .sc (wordBytes (cfgRead s reg.toNat)) false))

/-! ### BAR2 (R402, R415, R431, R432) -/

/-- UR to a host request; a posted write has no completion. -/
def bar2Ur (s : State) (wr : Bool) : State := if wr then sendUr s else hptSend (sendUr s) (.cpl .ur [] false)

/-- The window and offset that a BAR2 access names: one of four quarters, inside an enabled window (R402). -/
def bar2Window (s : State) (off : Nat) : Option (Nat × Nat) :=
  let q := bar2Size s / 4
  let n := off / q
  if n < 4 && winOn s n && decide (off % q < winSize s n) then some (n, off % q) else none

/-- A BAR2 write: refused, or written with its poison mark (R415, R432). -/
def bar2Write (s : State) (n r : Nat) (data : List Byte) (poison : Bool) : State :=
  let pa := winBase s n + r
  if winNoWrite s n pa then setAer (apwRefuse s 0 (winBus s n + r)) aerUr
  else match writeBytes s .hpt 0 pa data poison with
    | .busy q => s.ask q
    | .refused => sendUr s
    | .ok s => if poison then setAer (s.setFlag Reg.hptStat 3) aerPoisoned else s

/-- A BAR2 read: its data, poisoned when a line is (R415). -/
def bar2Read (s : State) (n r len : Nat) : State :=
  match readBytes .hpt 0 18 (winBase s n + r) len s with
  | .busy q => s.ask q
  | .refused => bar2Ur s false
  | .ok (b, p, s) => hptSend s (.cpl .sc b p)

/-- BAR2_ACCESS: UR in D3, in the safe state, with Memory Space Enable clear, or outside every window; else the window (R402,
R415). -/
def execBar2Access (wr : Bool) (off : BitVec 40) (len : BitVec 10) (data : List (BitVec 8)) (poison : Bool) (s : State) : Out :=
  .next (fromHost s fun s =>
    if s.hpt.dstate ≠ .d0 ∨ s.fcl.safe ∨ !memEnabled s then bar2Ur s wr
    else match bar2Window s off.toNat with
      | none => bar2Ur s wr
      | some (n, r) => if wr then bar2Write s n r data poison else bar2Read s n r len.toNat)

/-! ### Interrupts (R417) -/

/-- ASSERT_INTA: the line is asserted, the host has not been told, and the holdoff has passed (R417). -/
def execAssertInta (s : State) : Out :=
  .next (
    let held := match s.hpt.deassertTs with
      | some t => !since s t (s.fld Reg.hptHoldoff 0 16 * Config.slowTicks)
      | none => false
    if s.boot.inReset || !linkUp s || !intLine s || s.hpt.inta || held then s
    else (hptSend s .assertInta).modHpt fun h => { h with inta := true })

/-- DEASSERT_INTA: the line is deasserted (R417). -/
def execDeassertInta (s : State) : Out :=
  .next (
    if s.boot.inReset || !linkUp s || intLine s || !s.hpt.inta then s
    else (hptSend s .deassertInta).modHpt fun h => { h with inta := false, deassertTs := some s.ts })

/-! ### ASPM (R419) -/

/-- ASPM Control. -/
def aspmBit (s : State) (n : Nat) : Bool := (mgetD 0 s.hpt.cfg cfgLinkCtl).getLsbD n

/-- The link goes idle: a BISnp's time stops (R420). -/
def idleLink (s : State) (l : LinkState) : State :=
  s.modHpt fun h => { h with link := l, retrainTs := some (h.retrainTs.getD s.ts) }

/-- L0S_ENTRY: L0s is enabled and 64 IOD cycles were idle (R419). -/
def execL0sEntry (s : State) : Out := .next (if s.hpt.link = .l0 ∧ aspmBit s 0 ∧ !s.boot.inReset then idleLink s .l0s else s)
/-- L1_ENTRY: L1 is enabled and HPT_ASPM_IDLE slow cycles had no flit (R419). -/
def execL1Entry (s : State) : Out :=
  .next (if (s.hpt.link = .l0 ∨ s.hpt.link = .l0s) ∧ aspmBit s 1 ∧ !s.boot.inReset then idleLink s .l1 else s)
/-- ASPM_EXIT: the link returns to L0 (R419). -/
def execAspmExit (s : State) : Out := .next (wakeLink s)

/-! ### The host window (R412) -/

/-- A transfer ends with a flag of HPT_HWIN_STAT. -/
def hwinEnd (s : State) (flag : Nat) : State := (s.modHpt fun h => { h with hwin := none }).setFlag Reg.hptHwinStat flag

/-- Max_Read_Request_Size in bytes; encodings above 4,096 B act as 4,096 B. -/
def maxRead (s : State) : Nat := 128 * 2 ^ min ((mgetD 0 s.hpt.cfg cfgDevCtl).extractLsb' 12 3).toNat 5

/-- The reads of a CXL.io transfer, split at the size limit and at every 4 KiB boundary. -/
def ioReads (limit : Nat) : Nat → Nat → Nat → List HostMsg
  | 0, _, _ => []
  | n + 1, a, len =>
    if len = 0 then []
    else
      let k := min (min len limit) (4096 - a % 4096)
      .memRd (BitVec.ofNat 64 a) k :: ioReads limit n (a + k) (len - k)

/-- What a host-to-device transfer sends. -/
def hwinReads (s : State) (w : Hwin) : List HostMsg :=
  if w.coh then (List.range w.lines).map fun i => .rdCurr (BitVec.ofNat 64 (w.hpa + 64 * i))
  else ioReads (maxRead s) 64 w.hpa (64 * w.lines)

/-- What a device-to-host transfer sends. -/
def hwinWrites (w : Hwin) (d : List (Line × Bool)) : List HostMsg :=
  d.zipIdx.map fun e =>
    let a := BitVec.ofNat 64 (w.hpa + 64 * e.2)
    if w.coh then .wrCur a e.1.1 e.1.2 else .memWr a e.1.1 e.1.2

/-- The lines of a transfer lie where an access reaches memory; packed lines are only read (R192, R203). -/
def hwinOk (s : State) (w : Hwin) : Bool :=
  (List.range w.lines).all fun i => !isReserved s.mem (w.dpa / 64 + i) && !(w.toDev && isPacked (w.dpa / 64 + i))

/-- Read the device lines of a transfer; an error while one is in use. -/
def hwinRead (s : State) (w : Hwin) : Except Ask (List (Line × Bool) × State) :=
  (List.range w.lines).foldl (fun r i => r.bind fun x : List (Line × Bool) × State =>
    match agentReadAny x.2 .hpt 0 0 (w.dpa / 64 + i) false with
    | .ok (d, p, s) => .ok (x.1 ++ [(d, p)], s)
    | .busy q => .error q
    | .refused => .ok (x.1 ++ [(Config.poisonData (w.dpa / 64 + i), true)], x.2)) (.ok ([], s))

/-- Write the lines that came; an error while one is in use. -/
def hwinPut (s : State) (w : Hwin) : Except Ask State :=
  w.got.foldl (fun r g => r.bind fun s => match agentWrite s .hpt 0 0 (w.dpa / 64 + g.1) Mask.full g.2.1 g.2.2 false with
    | .ok s => .ok s
    | .busy q => .error q
    | .refused => .ok s) (.ok s)

/-- A transfer goes on: a device-to-host one reads its lines and sends them, and is done at once when its writes are posted; a
host-to-device one that has everything writes it. -/
def hwinGo (s : State) : State :=
  match s.hpt.hwin with
  | none => s
  | some w =>
    let bad := fun (s : State) (l : List Bool) => if l.any id then s.setFlag Reg.hptHwinStat 3 else s
    if frozen s then s
    else if w.toDev then
      if w.got.length < w.lines then s
      else match hwinPut s w with
        | .ok s => hwinEnd (bad s (w.got.map (·.2.2))) 0
        | .error q => s.ask q
    else if !w.got.isEmpty then (if w.acks.length < w.lines then s else hwinEnd s 0)
    else match hwinRead s w with
      | .error q => s.ask q
      | .ok (d, s) =>
        let s := bad ((hwinWrites w d).foldl hptSend s) (d.map (·.2))
        if w.coh then s.modHpt fun h => { h with hwin := some { w with got := d.zipIdx.map fun e => (e.2, e.1.1, e.1.2) } }
        else hwinEnd s 0

/-- HPT_HWIN_CMD: ignored while a transfer runs; ERR on a bad length, alignment or device address; LINKDOWN without a link (log
entry 36). -/
def hwinCmd (s : State) (toDev coh : Bool) : State :=
  let len := s.fld Reg.hptHwinLen 0 13
  let pair := fun lo : Nat => s.fld lo 0 32 + s.fld (lo + 4) 0 32 * 2 ^ 32
  let w : Hwin := { toDev := toDev, coh := coh, hpa := pair Reg.hptHwinHpa, dpa := pair Reg.hptHwinDpa, lines := len / 64,
                    got := [], acks := [], ts := s.ts }
  if s.hpt.hwin.isSome then s
  else if len % 64 ≠ 0 ∨ len = 0 ∨ 4096 < len ∨ w.hpa % 64 ≠ 0 ∨ w.dpa % 64 ≠ 0 ∨ !hwinOk s w then s.setFlag Reg.hptHwinStat 1
  else if !linkUp s then s.setFlag Reg.hptHwinStat 4
  else
    let s := s.modHpt fun h => { h with hwin := some w }
    if toDev then (hwinReads s w).foldl hptSend s else hwinGo s

/-- HWIN_HOST_TO_DEVICE (R412). -/
def execHwinHostToDevice (ag : RegAgent) (coh : Bool) (s : State) : Out :=
  .next (withReg s ag Reg.hptHwinCmd fun s => hwinCmd s true coh)
/-- HWIN_DEVICE_TO_HOST (R412). -/
def execHwinDeviceToHost (ag : RegAgent) (coh : Bool) (s : State) : Out :=
  .next (withReg s ag Reg.hptHwinCmd fun s => hwinCmd s false coh)

/-- HWIN_COMPLETION: line id of a transfer comes, or its write is acknowledged; UR or CA ends the transfer with no data written
(R412). -/
def execHwinCompletion (id : Nat) (st : CplStatus) (data : BitVec 512) (poison : Bool) (s : State) : Out :=
  .next (fromHost s fun s =>
    match s.hpt.hwin with
    | none => s
    | some w =>
      if w.lines ≤ id || frozen s then s
      else if st ≠ .sc then hwinEnd s 1
      else if w.toDev then
        let got := if w.got.any (·.1 == id) then w.got else w.got ++ [(id, data, poison)]
        hwinGo (s.modHpt fun h => { h with hwin := some { w with got := got } })
      else hwinGo (s.modHpt fun h => { h with hwin := some { w with acks := insertNat w.acks id } }))

/-- HWIN_COMPLETION_TIMEOUT: 50 ms have passed (R412). -/
def execHwinCompletionTimeout (s : State) : Out :=
  .next (match s.hpt.hwin with
    | none => s
    | some w => if since s w.ts (50 * Config.msTicks) then hwinEnd s 2 else s)

/-! ### Bias from the host side (R414) -/

/-- HPT_BIAS_CMD: ERR while one runs, for a count of 0 or above 256, a range beyond the DPA space, or decoder 0's pages to device
bias; else the flips begin (R253, R414). -/
def hptBias (s : State) (shared : Bool) (count : Nat) : State :=
  let p0 := s.fld Reg.hptBiasPage 0 17
  let dpaPages := (tierLimit s.mem .near + tierLimit s.mem .far) / 2 ^ 25
  let pages := (List.range count).map fun i => paOfDpa s.mem ((p0 + i) * 2 ^ 25) / 2 ^ 25
  if s.hpt.biasJob.isSome ∨ count = 0 ∨ 256 < count ∨ dpaPages < p0 + count ∨ (!shared ∧ p0 < 2048) then
    s.setFlag Reg.hptBiasStat 1
  else
    hptBiasGo (pages.foldl (fun s p => beginFlip s p shared) (s.modHpt fun h => { h with biasJob := some pages }))

/-- HPT_BIAS_TO_DEVICE (R414). -/
def execHptBiasToDevice (ag : RegAgent) (count : BitVec 9) (s : State) : Out :=
  .next (withReg s ag Reg.hptBiasCmd fun s => if frozen s then s else hptBias s false count.toNat)
/-- HPT_BIAS_TO_SHARED (R414). -/
def execHptBiasToShared (ag : RegAgent) (count : BitVec 9) (s : State) : Out :=
  .next (withReg s ag Reg.hptBiasCmd fun s => if frozen s then s else hptBias s true count.toNat)

/-! ### Retrain, host loss and return (R400, R420 to R422) -/

/-- The host-loss timer starts, if it does not run; a host-window transfer ends with LINKDOWN, and the responses to earlier requests
are discarded (R421). -/
def hostLoss (s : State) (l : LinkState) : State :=
  let s := if s.hpt.hwin.isSome then hwinEnd s 4 else s
  s.modHpt fun h => { h with
    link := l, width := 0, inta := false
    lossTs := some (h.lossTs.getD s.ts)
    retrainTs := some (h.retrainTs.getD s.ts)
    reqs := h.reqs.map fun r => { r with lost := true }
    conflicts := [] }

/-- HOST_LINK_RETRAIN: the link retrained and replayed what was not acknowledged; one of more than 2 ms is a link down (R415,
R420). -/
def execHostLinkRetrain (long : Bool) (s : State) : Out :=
  .next (
    if s.boot.inReset || !linkUp s then s
    else
      let s := raise (((wakeLink s).bump Reg.hptRetrain 1).setFlag Reg.hptStat 1) 0x1B
      let s := s.modHpt fun h => { h with cfg := mset h.cfg cfgAerCor (mgetD 0 h.cfg cfgAerCor ||| 0x1100) }
      if long then hostLoss s .down else s)

/-- HOST_LINK_DOWN: link down outside a retrain, Hot Reset or Link Disable (R421). -/
def execHostLinkDown (_why : LinkDownCause) (s : State) : Out :=
  .next (if s.boot.inReset || s.hpt.link == .held || !linkUp s && s.hpt.lossTs.isNone then s else hostLoss s .down)

/-- The host-loss timeout in ticks: values below 50 act as 50, above 500 as 500 (R423). -/
def biTmo (s : State) : Nat := min (max (s.fld Reg.hptBiTmo 0 16) 50) 500 * Config.slowTicks

/-- The host's requests that no home has accepted are discarded, with their entries (R258). -/
def discardHost (s : State) : State :=
  let mine := fun m : Msg => m.src == .hpt && (m.kind == .rdh || m.kind == .wrh)
  let gone := (s.net.filter mine ++ s.retried.filter mine ++ s.mem.homes.flatMap fun h => (h.2.queue.filter fun q => mine q.msg).map (·.msg)).map (·.tag)
  let s : State := { s with
    net := s.net.filter fun m => !mine m && !(m.dst == .hpt && (m.kind == .rty || m.kind == .crg))
    retried := s.retried.filter fun m => !mine m }
  let s := s.mem.homes.foldl (fun s e =>
    let h := BitVec.ofNat 8 e.1
    let freed := (e.2.queue.filter fun q => mine q.msg).map (·.shared) ++ (e.2.granted.filter (·.1 == .hpt)).map (·.2)
    let s := s.modHome h fun x => { x with
      queue := x.queue.filter fun q => !mine q.msg
      granted := x.granted.filter (·.1 != .hpt)
      retry := x.retry.filter (· != .hpt) }
    freed.foldl (fun s sh => freeEntry s h .hpt sh) s) s
  s.modHpt fun h => { h with reqs := h.reqs.filter fun r => !gone.contains (.host r.id) }

/-- The host agent is declared dead: HOSTDEAD, a severe event, every outstanding snoop answered, the queued requests discarded, the
reclaim of every slice begun, the link held (R258, R421, R422). -/
def hostDead (s : State) : State :=
  let s := hostLoss s .held
  let s := raise ((s.modHpt fun h => { h with dead := true, lossTs := none, good := 0 }).setFlag Reg.hptStat 0) 0x1C
  let s := if frozen s then s
    else
      let bis := s.hpt.bis
      bis.foldl (fun s b => deadBir s (homeOf s.mem b.line) b.line) (discardHost s)
  let all := fun hs : SMap HomeSt => (List.range 256).foldl (fun hs i => mmod hs i fun x => { x with hostReclaim := true }) hs
  (s.modHpt fun h => { h with bis := [] }).modMem fun m => { m with homes := all m.homes }

/-- A BISnp has gone unanswered in L0 for HPT_BI_TMO (R258, R421). -/
def bisLate (s : State) : Bool := s.hpt.link == .l0 && s.hpt.bis.any fun b => since s b.ts (biTmo s)

/-- HOST_LOSS_TIMEOUT: the host-loss timer has reached HPT_BI_TMO, or a BISnp has gone unanswered for it (R258, R421). -/
def execHostLossTimeout (s : State) : Out :=
  .next (
    let due := match s.hpt.lossTs with
      | some t => since s t (biTmo s)
      | none => false
    if s.boot.inReset || s.hpt.dead || !(due || bisLate s) then s else hostDead s)

/-- HOST_LINK_REINIT: every slice has reclaimed the host's lines: configuration space and decoders 1 to 3 return to their reset values,
decoder 0 is committed again with its pages shared, and the link may train (R422). -/
def execHostLinkReinit (s : State) : Out :=
  .next (
    if s.boot.inReset || !s.hpt.dead || s.mem.homes.any fun h => h.2.hostReclaim then s
    else
      earlyCommit (s.modHpt fun h => { h with
        dead := false, link := .training, command := 0, cfg := [], aer := 0, bar2 := 0, hdm := [], pme := false
        deassertTs := none, retrainTs := none }))

/-- Modules in use: the largest power of two of the working ones (R400). -/
def modulesUsed (good : BitVec 8) : Nat :=
  let n := popBelow good.toNat 8
  if 8 ≤ n then 8 else if 4 ≤ n then 4 else if 2 ≤ n then 2 else 0

/-- HOST_LINK_UP: the link has trained with the working modules; below 2 it does not come up, and a fatal event is raised (R400,
R422). It is held out of L0 while a reclaim of the host agent runs. -/
def execHostLinkUp (good : BitVec 8) (s : State) : Out :=
  .next (
    if s.boot.inReset || !(s.hpt.link == .training || s.hpt.link == .down && s.hpt.lossTs.isSome) then s
    else if modulesUsed good = 0 then raise (s.modHpt fun h => { h with good := good, link := .down }) 0x1D
    else
      let d := match s.hpt.retrainTs with
        | some t => s.ts - t
        | none => 0
      s.modHpt fun h => { h with
        good := good, width := BitVec.ofNat 4 (modulesUsed good), link := .l0, retrainTs := none
        bis := h.bis.map fun b => { b with ts := b.ts + d } })

end Sys2Proof.Machine
end

