-- ==== Sys2Proof/Machine/Service.lean ====
section
/-! DEFINITION. The service port (chapter 13) and the drained-to registers (R288 to R290): configuration requests, slot and link,
surprise removal, the dead destination, INTx, upstream requests through the windows, completions, and flushes. -/

namespace Sys2Proof.Machine

/-! ### Bits of SVP_STAT (R435) -/

def svpPdc : Nat := 0
def svpAbp : Nat := 1
def svpDllsc : Nat := 2
def svpPfd : Nat := 3
def svpSurprise : Nat := 4
def svpErrmsg : Nat := 5
def svpCfgdone : Nat := 6
def svpCfgerr : Nat := 7
def svpDeadFlag : Nat := 8

/-- PWR_OFF or LNK_DIS is set (R428, R429). -/
def slotClosed (s : State) : Bool := slotBit s 1 || slotBit s 0

/-- A port or slot event takes effect unless the complex is held in reset. -/
def svpEvent (s : State) (f : State → State) : State := if s.boot.inReset then s else f s

/-! ### Writes and reads that are lost (R292, R428, R429) -/

/-- Everything outstanding below the port is lost: writes are discarded, with LOSS and D past them; reads complete with error. -/
def svpLoseAll (s : State) : State :=
  let rs := s.svp.reqs
  let s := (s.modSvp fun v => { v with reqs := [] }).setFlag Reg.svpDrainStat 0
  rs.foldl (fun s r => match r.src with
    | some x => loseSrc s .bus r.bus x
    | none => s) s

/-- The writes outstanding below the port. -/
def svpWrites (s : State) : List SvpReq := s.svp.reqs.filter fun r => !r.read

/-- The destination below the port is declared dead: R292 for every outstanding write, DEAD, and one event with its crumb (R429). -/
def svpDeclareDead (s : State) : State :=
  if s.svp.dead || s.svp.removed then s
  else
    let ws := svpWrites s
    let addr := ((ws.head?).map (·.bus)).getD 0 % 2 ^ 48 + 0xFFFF * 2 ^ 48
    let ctx := ((ws.head?).map (·.ctx)).getD 0
    let s := (svpLoseAll (s.modSvp fun v => { v with dead := true, inserted := false })).setFlag Reg.svpStat svpDeadFlag
    raiseAs s dieIod 0 0x1E ctx (BitVec.ofNat 64 (addr % 2 ^ 48)) 0x02 ws.length (BitVec.ofNat 64 addr)

/-- SVP_DEST_DEAD: a read without a completion for 200 µs, a read completed with CA, or a link that has not returned to L0 within
200 µs (R429). -/
def execSvpDestDead (why : DeadCause) (s : State) : Out :=
  .next (svpEvent s fun s =>
    let t := 200 * Config.usTicks
    let due := match why with
      | .readTimeout => s.svp.reqs.any fun r => r.read && since s r.ts t
      | .readAborted => s.svp.reqs.any (·.read)
      | .linkLost => match s.svp.downTs with
        | some d => since s d t && !slotClosed s
        | none => false
    if due && !frozen s then svpDeclareDead s else s)

/-! ### Configuration requests (R426) -/

/-- A running configuration request ends: CFGDONE, or CFGERR with all ones for a failed read. -/
def svpCfgEnd (s : State) (ok : Bool) (v : BitVec 32) : State :=
  match s.svp.cfg with
  | none => s
  | some wr =>
    let s := s.modSvp fun x => { x with cfg := none }
    let s := if wr then s else s.setReg Reg.svpCfgData (if ok then v else 0xFFFFFFFF)
    s.setFlag Reg.svpStat (if ok then svpCfgdone else svpCfgerr)

/-- A write of SVP_CFG_ADDR: it takes its fields, and OP starts a request; a write of OP while one runs is ignored. -/
def svpCfgAddrWrite (s : State) (v : BitVec 32) : State :=
  let op := v.extractLsb' 30 2
  let a := v &&& 0x0FFFFFFC
  let start := op == 1 || op == 2
  if start && s.svp.cfg.isSome then s
  else
    let s := s.setReg Reg.svpCfgAddr a
    if !start then s
    else s.modSvp fun x => { x with
      cfg := some (op == 2)
      out := x.out ++ [if op = 2 then .cfgWr a (s.reg Reg.svpCfgData) else .cfgRd a] }

/-- SVP_CFG_READ (R426). -/
def execSvpCfgRead (ag : RegAgent) (a : BitVec 28) (s : State) : Out :=
  .next (withReg s ag Reg.svpCfgAddr fun s => svpCfgAddrWrite s (a.setWidth 32 ||| 0x40000000))
/-- SVP_CFG_WRITE (R426). -/
def execSvpCfgWrite (ag : RegAgent) (a : BitVec 28) (s : State) : Out :=
  .next (withReg s ag Reg.svpCfgAddr fun s => svpCfgAddrWrite s (a.setWidth 32 ||| 0x80000000))
/-- SVP_CFG_COMPLETE (R426). -/
def execSvpCfgComplete (ok : Bool) (v : BitVec 32) (s : State) : Out := .next (svpEvent s fun s => svpCfgEnd s ok v)

/-! ### Slot and link (R427, R428, R430, R524) -/

/-- Slot power goes off: power-good falls and the slot devices are held in reset. -/
def slotPowerDown (s : State) : State :=
  s.modSvp fun v => { v with pwrGood := false, pwrTs := none, goodTs := none, perst := true }

/-- Set PWR_OFF, as the port itself does (R427, R428). -/
def setPwrOff (s : State) : State := slotPowerDown (s.setReg Reg.svpSlotCtl (s.reg Reg.svpSlotCtl ||| 2))

/-- A surprise removal: SURPRISE, PWR_OFF, the outstanding writes dropped with one crumb, the reads failed, the INTx levels clear and a
running configuration request failed (R426, R428, R430). -/
def surprise (s : State) : State :=
  if s.svp.removed || slotClosed s then s
  else
    let ws := svpWrites s
    let first := ((ws.head?).map (·.bus)).getD 0
    let ctx := ((ws.head?).map (·.ctx)).getD 0
    let s := setPwrOff (s.setFlag Reg.svpStat svpSurprise)
    let s := svpCfgEnd s false 0
    let s := svpLoseAll ((s.bump Reg.svpDrop ws.length).modSvp fun v => { v with removed := true, intx := 0, downTs := none })
    raiseAs s dieIod 0 0x1E ctx (BitVec.ofNat 64 first) 0x06 ws.length (BitVec.ofNat 64 first)

/-- The link leaves L0: LINKUP clears and DLLSC is set. -/
def svpLinkLoss (s : State) : State :=
  if s.svp.up then (s.modSvp fun v => { v with up := false, width := 0, speed := 0 }).setFlag Reg.svpStat svpDllsc else s

/-- Presence changes: PRESENT, PDC and PME; a loss of presence is a surprise removal unless the slot was closed (R418, R427, R428). -/
def presence (s : State) (p : Bool) : State :=
  if s.svp.present == p then s
  else
    let s := setPme ((s.modSvp fun v => { v with present := p, inserted := v.inserted || p }).setFlag Reg.svpStat svpPdc)
    if p then s else surprise s

/-- SVP_PRESENCE_CHANGE (R427). -/
def execSvpPresenceChange (present : Bool) (s : State) : Out := .next (svpEvent s fun s => presence s present)

/-- SURPRISE_REMOVAL: presence or the link is lost while PWR_OFF and LNK_DIS are clear (R428). -/
def execSurpriseRemoval (byLink : Bool) (s : State) : Out :=
  .next (svpEvent s fun s =>
    if slotClosed s then s else if byLink then surprise (svpLinkLoss s) else presence s false)

/-- A write of SVP_SLOT_CTL: indicators, PWR_OFF, LNK_DIS and DEADCLR (R427, R429, R430, R435). A clear of PWR_OFF powers the slot and
starts the power-fault timer; a set one removes power. -/
def slotCtlWrite (s : State) (v : BitVec 32) : State :=
  let was := slotBit s 1
  let s := s.setReg Reg.svpSlotCtl (v &&& 0x3F)
  let s := if v.getLsbD 6 then s.modSvp fun x => { x with dead := false } else s
  if was && !v.getLsbD 1 then s.modSvp fun x => { x with pwrTs := some s.ts }
  else if !was && v.getLsbD 1 then slotPowerDown s
  else s

/-- SLOT_POWER_ON (R427). -/
def execSlotPowerOn (ag : RegAgent) (v : BitVec 32) (s : State) : Out :=
  .next (withReg s ag Reg.svpSlotCtl fun s => slotCtlWrite s v)
/-- SLOT_POWER_OFF: the link down that follows is no surprise removal (R430). -/
def execSlotPowerOff (ag : RegAgent) (v : BitVec 32) (s : State) : Out :=
  .next (withReg s ag Reg.svpSlotCtl fun s => slotCtlWrite s v)
/-- SVP_DEAD_CLEAR: DEADCLR ends a dead declaration (R429). -/
def execSvpDeadClear (ag : RegAgent) (v : BitVec 32) (s : State) : Out :=
  .next (withReg s ag Reg.svpSlotCtl fun s => slotCtlWrite s v)

/-- SLOT_POWER_FAULT: no power-good within 100 ms: PFD, and PWR_OFF again (R427). -/
def execSlotPowerFault (s : State) : Out :=
  .next (svpEvent s fun s => match s.svp.pwrTs with
    | some t => if since s t (100 * Config.msTicks) && !s.svp.pwrGood then setPwrOff (s.setFlag Reg.svpStat svpPfd) else s
    | none => s)

/-- SLOT_POWER_GOOD: the power-fault timer stops, and the wait before SVP_PERST_N starts (R427, R524). -/
def execSlotPowerGood (s : State) : Out :=
  .next (svpEvent s fun s =>
    if slotBit s 1 then s else s.modSvp fun v => { v with pwrGood := true, pwrTs := none, goodTs := some (v.goodTs.getD s.ts) })

/-- SLOT_RESET_RELEASE: 100 ms after power-good SVP_PERST_N rises (R524). -/
def execSlotResetRelease (s : State) : Out :=
  .next (svpEvent s fun s => match s.svp.goodTs with
    | some t => if since s t (100 * Config.msTicks) && s.svp.pwrGood then s.modSvp fun v => { v with perst := false } else s
    | none => s)

/-- SVP_LINK_UP: the link reaches L0: LINKUP and DLLSC; writes drop no longer, and after a hot insertion a dead declaration ends (R427 to
R429). -/
def execSvpLinkUp (width speed : BitVec 4) (s : State) : Out :=
  .next (svpEvent s fun s =>
    if slotClosed s || !s.svp.present || !s.svp.pwrGood || s.svp.perst || s.svp.up then s
    else (s.modSvp fun v => { v with
      up := true, width := width, speed := speed, removed := false, downTs := none, dead := v.dead && !v.inserted }).setFlag Reg.svpStat svpDllsc)

/-- SVP_LINK_DOWN: the link leaves L0, and the 200 µs wait starts unless PWR_OFF or LNK_DIS is set (R429). -/
def execSvpLinkDown (s : State) : Out :=
  .next (svpEvent s fun s =>
    if s.svp.up then (svpLinkLoss s).modSvp fun v => { v with downTs := if slotClosed s then none else some s.ts } else s)

/-- ATTN_BUTTON: ABP, and nothing else (R427). -/
def execAttnButton (s : State) : Out := .next (svpEvent s fun s => s.setFlag Reg.svpStat svpAbp)

/-! ### Messages from below (R424, R430) -/

/-- ASSERT_INTX (R430). -/
def execAssertIntx (i : BitVec 2) (s : State) : Out :=
  .next (svpEvent s fun s => if s.svp.up then s.modSvp fun v => { v with intx := v.intx ||| (1#4 <<< i.toNat) } else s)
/-- DEASSERT_INTX (R430). -/
def execDeassertIntx (i : BitVec 2) (s : State) : Out :=
  .next (svpEvent s fun s => if s.svp.up then s.modSvp fun v => { v with intx := v.intx &&& ~~~(1#4 <<< i.toNat) } else s)

/-- SVP_ERR_MESSAGE: ERRMSG and the event of its severity (R424, R505). -/
def execSvpErrMessage (sev : ErrSev) (s : State) : Out :=
  .next (svpEvent s fun s =>
    if !s.svp.up then s
    else
      let ty := match sev with
        | .cor => 0x1F
        | _ => 0x1E
      raise (s.setFlag Reg.svpStat svpErrmsg) ty)

/-! ### Upstream requests (R424, R431 to R434) -/

/-- A completion to a device. -/
def svpReply (s : State) (wr : Bool) (st : CplStatus) (data : List Byte) (poison : Bool) : State :=
  if wr then s else s.modSvp fun v => { v with out := v.out ++ [.cpl st data poison] }

/-- A request through window n at a device physical address: refused, or performed under the window's CTX (R305, R432). -/
def apertureAt (s : State) (n : Nat) (wr : Bool) (bus pa len : Nat) (data : List Byte) (poison : Bool) : State :=
  let ctx := winCtx s n
  if wr then
    if winNoWrite s n pa then apwRefuse s ctx bus
    else match writeBytes s .svp ctx pa data poison with
      | .busy q => s.ask q
      | .refused => apwRefuse s ctx bus
      | .ok s => s
  else match readBytes .svp ctx 18 pa len s with
    | .busy q => s.ask q
    | .refused => svpReply (apwRefuse s ctx bus) wr .ca [] false
    | .ok (b, p, s) => svpReply s wr .sc b p

/-- APERTURE_REQUEST: UR for a form that is not supported or in the safe state; UR and NOWIN when some byte lies in no window (R415, R424,
R431, R510). -/
def execApertureRequest (wr : Bool) (bus : BitVec 64) (len : BitVec 10) (data : List (BitVec 8)) (poison bad : Bool) (s : State) : Out :=
  .next (svpEvent s fun s =>
    let b := bus.toNat
    let n := if wr then data.length else len.toNat
    if !s.svp.up then s
    else if bad || s.fcl.safe then svpReply s wr .ur [] false
    else match winOf s b with
      | some w =>
        if winBus s w + winSize s w < b + n then svpReply (s.setFlag Reg.apwStat 0) wr .ur [] false
        else apertureAt s w wr b (winBase s w + (b - winBus s w)) n data poison
      | none => svpReply (s.setFlag Reg.apwStat 0) wr .ur [] false)

/-! ### Completions from below (R288, R429) -/

/-- D of the service port moves on to what it now is, and never back (R288). -/
def svpMoveD (s : State) : State := let d := svpDrainedTo s; s.modSvp fun v => { v with drained := d }

/-- A flush read has completed: every write issued before it is outstanding no more (R288). -/
def svpFlushed (s : State) (id : Nat) : State :=
  let done := s.svp.reqs.filter fun r => !r.read && decide (r.id < id)
  let s := svpMoveD (s.modSvp fun v => { v with reqs := v.reqs.filter fun r => r.id != id && (r.read || decide (id < r.id)) })
  done.foldl (fun s r => match r.src with
    | some x => postedDone s false x
    | none => s) s

/-- SVP_COMPLETION: a read's data goes to its source; a flush read lets the writes before it pass; CA declares the destination dead; a
read with UR completes with error (R288, R428, R429). -/
def execSvpCompletion (id : Nat) (st : CplStatus) (data : BitVec 512) (poison : Bool) (s : State) : Out :=
  .next (svpEvent s fun s =>
    match s.svp.reqs.find? fun r => r.id == id && r.read with
    | none => s
    | some r =>
      if frozen s then s
      else if st = .ca then svpDeclareDead s
      else if r.flush then svpFlushed s id
      else
        let s := s.modSvp fun v => { v with reqs := v.reqs.filter (·.id != id) }
        match r.src with
        | none => s
        | some x => if st = .sc then deliver s .bus r.bus data poison x else loseSrc s .bus r.bus x)

/-! ### Drained-to stamps and their reads (R289, R290, R450) -/

/-- SVP_FLUSH_TIMER: 1 µs after the oldest outstanding posted write entered the path, a flush read is issued (R289). -/
def execSvpFlushTimer (s : State) : Out :=
  .next (
    match (svpWrites s).head? with
    | some w => if since s w.ts Config.usTicks && !frozen s then svpFlush s else s
    | none => s)

/-- The shadow of an agent for a pair (R450). -/
def setShadow (s : State) (ag : RegAgent) (lo : Nat) (v : BitVec 32) : State :=
  s.modRegs fun r => { r with shadow := ((ag, lo), v) :: r.shadow.filter fun e => !(e.1 == (ag, lo)) }

/-- A register read gives its value to its agent. -/
def noteRead (s : State) (ag : RegAgent) (off : Nat) (v : BitVec 32) : State :=
  s.modRegs fun r => { r with reads := (ag, off, v) :: r.reads }

/-- A read of the low word of a 64-bit value: the high word of the same instant goes to the agent's shadow (R450). -/
def readLo (s : State) (ag : RegAgent) (off : Nat) (v : BitVec 64) : State :=
  noteRead (setShadow s ag off (v.extractLsb' 32 32)) ag off (v.extractLsb' 0 32)

/-- The fabric's D as read, which it does not fall below again; the read flushes the path (R288, R289). -/
def fabDrainedRead (s : State) (ag : RegAgent) : State :=
  let d := fabDrainedTo s
  let s := readLo (s.modFab fun f => { f with drained := d }) ag Reg.fabDrained d
  if frozen s then s else flushComb s

/-- FAB_DRAINED_READ (R289). -/
def execFabDrainedRead (ag : RegAgent) (s : State) : Out :=
  .next (withReg s ag Reg.fabDrained fun s => fabDrainedRead s ag)

/-- The service port's D as read; the read flushes the path (R288, R289). -/
def svpDrainedRead (s : State) (ag : RegAgent) : State :=
  let s := svpMoveD s
  let s := readLo s ag Reg.svpDrained s.svp.drained
  if frozen s then s else svpFlush s

/-- SVP_DRAINED_READ (R289). -/
def execSvpDrainedRead (ag : RegAgent) (s : State) : Out :=
  .next (withReg s ag Reg.svpDrained fun s => svpDrainedRead s ag)

end Sys2Proof.Machine
end

