-- ==== Sys2Proof/Machine/Calibration.lean ====
section
/-! DEFINITION. The calibration store (R497, R519, R536 to R539): slots, commit, reload, erase, and the window. -/

namespace Sys2Proof.Machine

/-! ### Slots (R536) -/

/-- A word of a calibration set. -/
def calWordOf (m : SMap (BitVec 32)) (w : Nat) : BitVec 32 := mgetD 0 m w

/-- The magic of a slot. -/
def calMagic : BitVec 32 := 0x4C41435A

/-- One bit of CRC-32 with the IEEE 802.3 polynomial, low bit first. -/
def crcBit (c : BitVec 32) : BitVec 32 := if c.getLsbD 0 then (c >>> 1) ^^^ 0xEDB88320 else c >>> 1

/-- One byte of CRC-32. -/
def crcByte (c : BitVec 32) (b : BitVec 8) : BitVec 32 := (List.range 8).foldl (fun c _ => crcBit c) (c ^^^ b.setWidth 32)

/-- One word of CRC-32, little-endian. -/
def crcWord (c w : BitVec 32) : BitVec 32 := (List.range 4).foldl (fun c i => crcByte c (w.extractLsb' (8 * i) 8)) c

/-- The CRC-32 of a slot, over 0x0010 to 0xFFFF (log entry 48). -/
def calCrc (m : SMap (BitVec 32)) : BitVec 32 :=
  ~~~((List.range 16380).foldl (fun c i => crcWord c (calWordOf m (i + 4))) (BitVec.allOnes 32))

/-- A slot's contents. -/
def slotAt (s : State) (k : Nat) : Option (SMap (BitVec 32)) := mgetD none s.cal.slots k

/-- Commit number of a set. -/
def commitNo (m : SMap (BitVec 32)) : BitVec 32 := calWordOf m 1

/-- The slots whose magic and CRC pass. -/
def goodSlots (s : State) : List Nat :=
  (List.range 8).filter fun k => match slotAt s k with
    | some m => calWordOf m 0 == calMagic
    | none => false

/-- Of the slots that pass, the one with the highest commit number (R537). -/
def bestSlot (s : State) : Option Nat :=
  (goodSlots s).foldl (fun b k => match b with
    | none => some k
    | some j => if commitNo ((slotAt s j).getD []) < commitNo ((slotAt s k).getD []) then some k else b) none

/-- The committed set; none while no slot is committed. -/
def committedSet (s : State) : Option (SMap (BitVec 32)) := slotAt s s.cal.slot.toNat

/-- A word of the committed set as the window reads it; free with none (log entry 47). -/
def committedWord (s : State) (w : Nat) : BitVec 32 :=
  match committedSet s with
  | some m => calWordOf m w
  | none => Config.calWord w

/-- A flag of CAL_STAT. -/
def calFlag (s : State) (bit : Nat) : State := s.setFlag Reg.calStat bit

/-- The supply sags now (R497). -/
def sagNow (s : State) : Bool := s.pwr.sagIn || s.pwr.sagAon

/-! ### Loading at boot (R537) -/

/-- Boot step 0x04: the committed set is taken and a second passing slot is erased; without one the built-in defaults are in force. -/
def calLoad (s : State) (answers : Bool) : State :=
  match if answers then bestSlot s else none with
  | some k =>
    let other := (goodSlots s).find? (· != k)
    s.modCal fun c => { c with
      force := slotAt s k, slot := BitVec.ofNat 3 k, defaults := false, erasing := other.map (BitVec.ofNat 3) }
  | none => raise (s.modCal fun c => { c with force := none, defaults := true }) 0x30

/-! ### Commands (R538) -/

/-- COMMIT: refused while a command runs, not written during a sag; it waits while a slot is erased. -/
def calCommit (s : State) : State :=
  if s.cal.busy.isSome ∨ s.cal.waiting then calFlag s 1
  else if sagNow s then calFlag s 3
  else if s.cal.erasing.isSome then s.modCal fun c => { c with waiting := true }
  else s.modCal fun c => { c with busy := some true }

/-- RELOAD. -/
def calReload (s : State) : State :=
  if s.cal.busy.isSome ∨ s.cal.waiting then calFlag s 1 else s.modCal fun c => { c with busy := some false }

/-- CAL_COMMIT (R538): a G2 write. -/
def execCalCommit (ag : RegAgent) (s : State) : Out := .next (withReg s ag Reg.calCmd fun s => g2Write s ag calCommit)
/-- CAL_RELOAD (R538): a G2 write. -/
def execCalReload (ag : RegAgent) (s : State) : Out := .next (withReg s ag Reg.calCmd fun s => g2Write s ag calReload)

/-- The slot that the next commit writes. -/
def nextSlot (s : State) : Nat := (s.cal.slot.toNat + 1) % 8

/-- What a commit writes: the staging buffer with the next commit number and the CRC. -/
def commitSet (s : State) : SMap (BitVec 32) :=
  let n := match committedSet s with
    | some m => commitNo m + 1
    | none => 1
  let m := mset s.cal.staging 1 n
  mset m 3 (calCrc m)

/-- A commit has written its slot: verified it is committed and the previous slot is erased; otherwise FAIL, and the previous slot stays
valid. -/
def endCommit (s : State) (ok : Bool) : State :=
  let k := nextSlot s
  if ok then
    let prev := if (committedSet s).isSome then some s.cal.slot else none
    let m := commitSet s
    calFlag (s.modCal fun c => { c with slots := mset c.slots k (some m), slot := BitVec.ofNat 3 k, busy := none, erasing := prev }) 0
  else calFlag (s.modCal fun c => { c with slots := mset c.slots k none, busy := none }) 2

/-- CAL_COMMIT_DONE: the running command ends (R538). -/
def execCalCommitDone (verifyOk : Bool) (s : State) : Out :=
  .next (match s.cal.busy with
    | none => s
    | some true => endCommit s verifyOk
    | some false =>
      let words := match committedSet s with
        | some m => m
        | none => (List.range 16384).map fun i => (i, Config.calWord i)
      calFlag (s.modCal fun c => { c with staging := words, busy := none }) 0)

/-- CAL_ERASE_DONE: the erase ends; a commit that waited for it begins, or is refused in a sag (R519, R538). -/
def execCalEraseDone (s : State) : Out :=
  .next (match s.cal.erasing with
    | none => s
    | some k =>
      let w := s.cal.waiting
      let s := s.modCal fun c => { c with slots := mset c.slots k.toNat none, erasing := none, waiting := false }
      if w then calCommit s else s)

/-! ### The window (R539) -/

/-- WORD of CAL_WIN_ADDR. -/
def winWord (s : State) : Nat := s.fld Reg.calWinAddr 2 14
/-- SEL of CAL_WIN_ADDR. -/
def winSel (s : State) : Bool := (s.reg Reg.calWinAddr).getLsbD 16

/-- WORD advances by 1. -/
def winStep (s : State) : State :=
  s.setReg Reg.calWinAddr (BitVec.ofNat 32 ((if winSel s then 65536 else 0) + (winWord s + 1) % 16384 * 4))

/-- A write of CAL_WIN_DATA: to the staging buffer, and discarded with SEL 0. -/
def calWinWrite (s : State) (v : BitVec 32) : State :=
  let w := winWord s
  winStep (if winSel s then s.modCal fun c => { c with staging := mset c.staging w v } else s)

/-- What CAL_WIN_DATA reads. -/
def calWinValue (s : State) : BitVec 32 := if winSel s then calWordOf s.cal.staging (winWord s) else committedWord s (winWord s)

/-- CAL_WIN_DATA_ACCESS (R539). -/
def execCalWinDataAccess (ag : RegAgent) (wr : Bool) (v : BitVec 32) (s : State) : Out :=
  .next (withReg s ag Reg.calWinData fun s =>
    if wr then calWinWrite s v else winStep (noteRead s ag Reg.calWinData (calWinValue s)))

end Sys2Proof.Machine
end

