-- ==== Sys2Proof/Machine/Collector.lean ====
section
/-! DEFINITION. The fault collector's commands (chapter 17): reports, mirror pairs, counting windows, demotion, entry to the safe state,
the crumb queue's reader, and the background work: Loupe samples and recalibrations. -/

namespace Sys2Proof.Machine

/-! ### Reports (R503 to R506) -/

/-- FAULT_REPORT (R504, R505). -/
def execFaultReport (r : Report) (s : State) : Out := .next (if s.boot.inReset then s else report s r none)

/-- MIRROR_PAIR_FAULT: type 0x2F at the source's die and instance; from then on the source's reports wait for the poll (R503). -/
def execMirrorPairFault (src : BitVec 16) (s : State) : Out :=
  .next (
    if s.boot.inReset || s.fcl.broken.contains src then s
    else
      raiseAt (s.modFcl fun f => { f with broken := f.broken ++ [src] }) (src.extractLsb' 13 3).toNat (srcInst src) 0x2F 0 0)

/-- GATHERER_POLL: the reports that stand behind a broken pair are collected in their order (R503). -/
def execGathererPoll (src : BitVec 16) (s : State) : Out :=
  .next (
    if s.boot.inReset then s
    else
      let rs := s.fcl.behind.filter (·.src == src)
      let s := s.modFcl fun f => { f with behind := f.behind.filter (·.src != src) }
      rs.foldl (fun s r => collect s r none) s)

/-- T of a source's type in ticks (R506, R522). -/
def windowTicks (s : State) (src : BitVec 16) : Nat := max (s.fld (Reg.fclType (srcTy src)) 16 16) 1 * Config.msTicks

/-- FAULT_WINDOW_CLOSE: T after the window opened, its count returns to 0 (R506). -/
def execFaultWindowClose (src : BitVec 16) (s : State) : Out :=
  .next (s.modFcl fun f => { f with windows := f.windows.filter fun w => !(w.src == src && since s w.ts (windowTicks s src)) })

/-- Demote one instance, or every instance; its window closes (R506, R522). -/
def demote (s : State) (all : Bool) (src : BitVec 16) : State :=
  s.modFcl fun f =>
    if all then { f with promoted := [], windows := [] }
    else { f with promoted := f.promoted.filter (· != src), windows := f.windows.filter (·.src != src) }

/-- FAULT_DEMOTE (R506). -/
def execFaultDemote (ag : RegAgent) (all : Bool) (src : BitVec 16) (s : State) : Out :=
  .next (withReg s ag Reg.fclDemote fun s => demote s all src)

/-! ### The safe state (R510) -/

/-- SAFE_STATE_ENTRY: the complex stops, FWCTL clears, proofing is released, a SAFE crumb names the source, and SAFE is set. -/
def execSafeStateEntry (s : State) : Out :=
  .next (match s.fcl.safeSrc with
    | none => s
    | some (src, cls) =>
      if s.boot.inReset || s.fcl.safe then s
      else
        let s := s.modFcl fun f => { f with safe := true, safeSrc := none }
        let s := releaseAll (setFwctl s false)
        (writeCrumb s src 0x07 cls.toNat 0 0 0 s.ts).setFlag Reg.fclStat 5)

/-! ### The reader of the crumbs (R514) -/

/-- A write to FCL_CRUMB_RD takes effect from the present RD to NEWEST + 1 only. -/
def crumbRdWrite (s : State) (v : BitVec 32) : State :=
  let rd := (s.reg Reg.fclCrumbRd).extractLsb' 0 16
  let n := v.extractLsb' 0 16
  if (n - rd).toNat ≤ unreadCrumbs s then s.setReg Reg.fclCrumbRd (n.setWidth 32) else s

/-- FCL_CRUMB_RD_WRITE (R514). -/
def execFclCrumbRdWrite (ag : RegAgent) (v : BitVec 32) (s : State) : Out :=
  .next (withReg s ag Reg.fclCrumbRd fun s => crumbRdWrite s v)

/-! ### The Loupe (R225, R520) -/

/-- Sample interval in ticks: units of 10 µs, values below 10 act as 10. -/
def lpInterval (s : State) : Nat := max (s.fld Reg.fclLpCtl 0 16) 10 * 10 * Config.usTicks

/-- A telemetry record. -/
def lpLine (ty : Nat) (r : LoupeRow) (ts : Nat) : Line :=
  let vals := (r.vals.take 6).zipIdx.foldl (fun n e => n + e.1.toNat * 2 ^ (64 * e.2)) 0
  BitVec.ofNat 512 (ty + r.die.toNat * 2 ^ 16 + r.group.toNat * 2 ^ 24 + r.unit.toNat * 2 ^ 32 + ts % 2 ^ 64 * 2 ^ 64 + vals * 2 ^ 128)

/-- Slots of the telemetry ring; 0 when it is disabled. -/
def lpSlots (s : State) : Nat :=
  let n := s.fld Reg.fclLpBaseLo 0 5
  if 16 ≤ n ∧ n ≤ 24 then 2 ^ (n - 6) else 0

/-- Base address of the telemetry ring. -/
def lpBase (s : State) : Nat := s.fld Reg.fclLpBaseHi 0 12 * 2 ^ 32 + s.fld Reg.fclLpBaseLo 16 16 * 2 ^ 16

/-- Put a record on the ring; a full ring drops it and counts it. An error while its line is in use (log entry 5). -/
def lpPut (s : State) (d : Line) : Except Ask State :=
  let wr := s.reg Reg.fclLpWr
  if lpSlots s = 0 then .ok s
  else if lpSlots s ≤ (wr - s.reg Reg.fclLpRd).toNat then .ok (s.bump Reg.fclLpLost 1)
  else match agentWrite s .loupe 0 0 ((lpBase s + 64 * (wr.toNat % lpSlots s)) / 64) Mask.full d false true with
    | .busy q => .error q
    | .refused => .ok (s.setReg Reg.fclLpWr (wr + 1))
    | .ok s => .ok (s.setReg Reg.fclLpWr (wr + 1))

/-- A counter rises to what a sample shows. -/
def raiseCnt (s : State) (lo : Nat) (v : BitVec 64) : State := s.bump lo (v.toNat - (s.cnt lo).toNat)

/-- The stack controller of a sampled stack: units 0 to 7 are the near stacks, 8 to 15 the far stacks (log entry 46). -/
def tpOf (u : Nat) : Bool × Nat := (4 ≤ u % 8, u % 4 + 4 * (u / 8))

/-- The cycle counts that a sample brings: L2 slot stalls, and cycles with a full queue at a stack controller (R224). -/
def sampleCounts (s : State) (r : LoupeRow) : State :=
  match r.group.toNat with
  | 0 => if r.unit.toNat < 64 then raiseCnt s (Reg.clg (BitVec.ofNat 6 r.unit.toNat) 0x08) ((r.vals[0]?).getD 0) else s
  | 1 =>
    if r.unit.toNat < 16 then
      let t := tpOf r.unit.toNat
      raiseCnt s (Reg.mbd t.1 (Reg.homeTp t.2)) ((r.vals[2]?).getD 0)
    else s
  | _ => s

/-- The values that the state itself counts: token drops; a stack's full-queue cycles; a port's replayed frames, corrected symbols, and the
resends. -/
def ownVals (s : State) (r : LoupeRow) : LoupeRow :=
  let u := r.unit.toNat
  let v := (r.vals ++ List.replicate 6 0).take 6
  match r.group.toNat with
  | 0 => { r with vals := (v.set 0 (s.cnt (Reg.clg (BitVec.ofNat 6 u) 0x08))).set 5 (s.cluster (BitVec.ofNat 6 u)).tokDrop }
  | 1 => { r with vals := v.set 2 (s.cnt (Reg.mbd (tpOf u).1 (Reg.homeTp (tpOf u).2))) }
  | 2 => { r with vals := ((v.set 2 (s.cnt (Reg.fabPort u 0x18))).set 3 (s.cnt (Reg.fabPort u 0x10))).set 4 (s.cnt Reg.fabResend) }
  | _ => { r with vals := v }

/-- The tier-pressure records of a sample: the stacks whose counter rose by more than THRESH thousandths of the base-die cycles of one
interval, 4 in 10 ticks (R225). -/
def pressure (s : State) (d : Bool) (n : Nat) : Option LoupeRow :=
  let rise := (s.cnt (Reg.mbd d (Reg.homeTp n))).toNat - (mgetD 0 s.mem.tpLast ((if d then 8 else 0) + n)).toNat
  if s.fld (Reg.mbd d Reg.homeTpThr) 0 16 * (lpInterval s * 4 / 10) < rise * 1000 then
    some { die := BitVec.ofNat 3 (dieMbd d), group := 1, vals := [BitVec.ofNat 64 rise, 0, 0, 0, 0, 0]
           unit := BitVec.ofNat 32 (n % 4 + (if d then 4 else 0) + 8 * (n / 4)) }
  else none

/-- The two base dies and the eight stack controllers of each. -/
def allStacks : List (Bool × Nat) := (List.range 8).map (fun n => (false, n)) ++ (List.range 8).map fun n => (true, n)

/-- The counts of this sample are those of the last one. -/
def noteTp (s : State) : State :=
  s.modMem fun m => { m with tpLast := allStacks.foldl (fun t e =>
    mset t ((if e.1 then 8 else 0) + e.2) (s.cnt (Reg.mbd e.1 (Reg.homeTp e.2)))) m.tpLast }

/-- One sample: the records of all dies in order of die, then the tier-pressure events (R520). -/
def sample (s : State) (rows : List LoupeRow) : State :=
  let s0 := s
  let ts := s.ts.toNat / lpInterval s * lpInterval s
  let s := rows.foldl sampleCounts s
  let recs := ((sortBy (fun a b : LoupeRow => decide (a.die.toNat ≤ b.die.toNat)) (rows.take 99)).map fun r => lpLine 0x10 (ownVals s r) ts) ++
    (allStacks.filterMap fun e => pressure s e.1 e.2).map fun r => lpLine 0x11 r ts
  match recs.foldl (fun (o : Except Ask State) d => o.bind fun s => lpPut s d) (.ok s) with
  | .error q => s0.ask q
  | .ok s => noteTp s

/-- LOUPE_SAMPLE (R520). -/
def execLoupeSample (i : List LoupeRow) (s : State) : Out :=
  .next (whileRunning s fun s => if (s.reg Reg.fclLpCtl).getLsbD 16 then sample s i else s)

/-! ### Recalibrations (R518): the requests of a channel wait for at most 500 ns, and nothing else changes -/

/-- STACK_RECALIBRATION (R518). -/
def execStackRecalibration (_far : Bool) (_stack : BitVec 3) (_chan : BitVec 6) (s : State) : Out := .next s

/-- SENSOR_CALIBRATION costs the foreground nothing (R518). -/
def execSensorCalibration (s : State) : Out := .next s

end Sys2Proof.Machine
end

