-- ==== Sys2Proof/Machine/DieLinks.lean ====
section
/-! DEFINITION. The die links (chapter 15): flits, replay and map checks, the handshake, holds and their release, the die-port test,
the hybrid bond, and the time base marks. -/

namespace Sys2Proof.Machine

/-! ### A link, its ends and its registers (R457, R472, R473) -/

/-- The base dies a link ends on: false MBD0, true MBD1. -/
def linkDies (n : Nat) : List Bool :=
  match n with
  | 0 => [false]
  | 1 => [true]
  | _ => [false, true]

/-- Bundles of a link (R457). -/
def linkBundles (n : Nat) : Nat := if n = 2 then 64 else 96

/-- Set a flag of D2D_Ln_STAT on every side that has the register. -/
def linkFlag (s : State) (n bit : Nat) : State :=
  (linkDies n).foldl (fun s d => s.setFlag (Reg.d2dFar d n 0x08) bit) (s.setFlag (Reg.d2d n 0x08) bit)

/-- Add to a counter of a link on every side. -/
def linkCount (s : State) (n w k : Nat) : State :=
  (linkDies n).foldl (fun s d => s.bump (Reg.d2dFar d n w) k) (s.bump (Reg.d2d n w) k)

/-- An event of a link. -/
def linkEvent (s : State) (n ty : Nat) : State := raiseAt s dieIod n ty 0 0

/-- A bundle is named in BOFF (R464). -/
def boff (s : State) (n i : Nat) : Bool := (s.reg (Reg.d2d n (0x40 + 8 * (i / 32)))).getLsbD (i % 32)

/-- A base die is held or without power. -/
def dieOff (s : State) (d : Bool) : Bool := s.boot.offDie.contains (dieMbd d)

/-- Bit positions of STAT. -/
def dlRetrain : Nat := 0
def dlAttfail : Nat := 1
def dlWidthdrop : Nat := 2
def dlHeld : Nat := 3
def dlMaperr : Nat := 4
def dlBadtest : Nat := 5

/-! ### Starting a handshake (R461, R464, R467) -/

/-- The IOD starts a handshake: the link leaves up; no effect on a running one, on a held link, with EN clear, under test, or while an
end is held. -/
def startHandshake (s : State) (n : Nat) : State :=
  let l := s.link n
  if l.st = .training ∨ l.st = .held ∨ !(s.reg (Reg.d2d n 0)).getLsbD 0 ∨ l.a.test ≠ 0 ∨ l.b.test ≠ 0 ∨ (linkDies n).any (dieOff s) then s
  else
    let s := s.modLink n fun l => { l with
      st := .training, attempt := 1, skip := []
      downTs := if l.st = .up then some s.ts else l.downTs }
    linkCount (linkFlag s n dlRetrain) n 0x28 1

/-- LINK_HANDSHAKE: the IOD starts a handshake on a link that is down, as at boot and after a release (R461, R464). -/
def execLinkHandshake (link : BitVec 2) (s : State) : Out :=
  .next (if s.boot.inReset || link == 3 || (s.link link.toNat).st != .down then s else startHandshake s link.toNat)

/-! ### A hold (R466, R472) -/

/-- The compute dies above a base die, numbered as R504 numbers the dies. -/
def cdsOf (d : Bool) : List Nat := if d then [5, 6] else [3, 4]

/-- The home slices of a base die. -/
def homesOf (d : Bool) : List (BitVec 8) := (List.range 128).map fun i => BitVec.ofNat 8 (i + if d then 128 else 0)

/-- Everything that a held die's homes had under way is answered: a read with poison, a write with its CMP. -/
def answerHeld (s : State) (d : Bool) : State :=
  let mine := fun a : Agent => match a with
    | .home h => dieOfHome h == d
    | _ => false
  let s := (homesOf d).foldl (fun s h =>
    let x := s.home h
    let s := s.modHome h fun _ => default
    let open_ := (x.txns.filter fun t => t.phase != .ack && !t.sent && !t.scan).map (·.req)
    (x.queue.map (·.msg) ++ open_ ++ x.vic).foldl (fun s m => heldAnswer s h m) s) s
  let again := s.retried.filter fun m => mine m.dst
  { s with
    retried := s.retried.filter fun m => !mine m.dst
    net := (s.net.filter fun m =>
      !(mine m.src && msgClass m.kind == .fwd) && !(mine m.dst && (msgClass m.kind == .rsp || msgClass m.kind == .dat))) ++ again }

/-- The clusters of the other die lose every line homed on a held die, dirty data included. -/
def dropHomed (s : State) (d : Bool) : State :=
  s.clus.foldl (fun s e =>
    let cl := BitVec.ofNat 6 e.1
    if dieOfCluster cl == d then s
    else (s.cluster cl).l2.foldl (fun s w => match w.2 with
      | some x => if dieOfHome (homeOf s.mem x.line) == d then forgetWay s cl w.1 x.line else s
      | none => s) s) s

/-- A base die and its compute dies are held in reset by SBR: their clusters are isolated, the homes' work is answered, the other die's
copies go, the links that end there go down, and at boot the stacks behind it count as failed (R466). -/
def holdDie (s : State) (d : Bool) : State :=
  if dieOff s d then s
  else
    let s := (List.range 32).foldl (fun s i =>
      let cl := BitVec.ofNat 6 (i + if d then 32 else 0)
      if (s.cluster cl).isolated then s else isolate s cl) s
    let s := dropHomed (answerHeld s d) d
    let s := s.modBoot fun b => { b with offDie := b.offDie.filter (fun x => !(cdsOf d).contains x) ++ dieMbd d :: cdsOf d }
    let s := (List.range 3).foldl (fun s n =>
      if (linkDies n).contains d && (s.link n).st != .held then s.modLink n fun l => { l with st := .down, attempt := 0, width := 0 } else s) s
    if s.boot.hostRel then s
    else
      let bad : BitVec 8 := if d then 0xF0 else 0x0F
      s.modMem fun m => { m with nearGood := m.nearGood &&& ~~~bad, farGood := m.farGood &&& ~~~bad }

/-- Both ends of a link are held, with the base dies it ends on: HELD and a severe event that names the link (R466). -/
def holdLink (s : State) (n : Nat) : State :=
  let s := s.modLink n fun l => { l with st := .held, attempt := 0, width := 0 }
  let s := linkEvent (linkFlag s n dlHeld) n 0x16
  (linkDies n).foldl holdDie s

/-- LINK_HOLD_CMD: HOLD takes 1 (R472). -/
def linkHold (s : State) (n : Nat) : State := if (s.link n).st = .held then s else holdLink s n

/-- LINK_HOLD_CMD (R472). -/
def execLinkHoldCmd (ag : RegAgent) (link : BitVec 2) (s : State) : Out :=
  .next (if link = 3 then s else withReg s ag (Reg.d2d link.toNat 0x0C) fun s => linkHold s link.toNat)

/-! ### Release of a hold (R468) -/

/-- A register offset lies in a base die's window or its compute dies' windows. -/
def offOfDie (d : Bool) (off : Nat) : Bool := baseOfDie (dieOfOffset off) == dieMbd d

/-- The registers of a base die and its compute dies as after cold reset. -/
def resetDieRegs (d : Bool) (r : RegSt) : RegSt :=
  { r with
    val := r.val.filter fun e => !offOfDie d e.1
    pend := r.pend.filter fun e => !offOfDie d e.1
    late := r.late.filter fun e => !offOfDie d e.1
    cnt := r.cnt.filter fun e => !offOfDie d e.1 }

/-- The stores of a base die as after cold reset: stacks, base cache, directory, bias and owner tables, decompressors, engines. -/
def resetDieMem (d : Bool) (m : MemSt) : MemSt :=
  let k := if d then 1 else 0
  { m with
    cells := m.cells.filter fun c => dieOfHome (homeOf m (c.1 / 64)) != d
    poison := m.poison.filter fun l => dieOfHome (homeOf m l) != d
    bcc := m.bcc.filter fun e => e.1 / 2 ^ 23 != k
    dir := m.dir.filter fun e => e.1 / 2 ^ 23 != k
    homes := m.homes.filter fun e => e.1 / 128 != k
    biasEarly := m.biasEarly &&& ~~~(1#2 <<< k)
    bias := m.bias.filter fun e => e.1 / 2 ^ 20 != k
    owner := m.owner.filter fun e => e.1 / 2 ^ 20 != k
    dcx := m.dcx.filter fun e => e.1 / 4 != k
    dcxBusy := mset m.dcxBusy k false
    rm := m.rm.filter fun e => e.1 / 64 != k
    scrub := m.scrub.filter fun e => e.1 / 8 != k
    tpLast := m.tpLast.filter fun e => e.1 / 8 != k }

/-- A base die leaves a hold as after cold reset; its clusters stay isolated (R468). -/
def releaseDie (s : State) (d : Bool) : State :=
  let k := if d then 1 else 0
  let s := (s.modMem (resetDieMem d)).modRegs (resetDieRegs d)
  let s := { s with cores := s.cores.filter fun e => e.1 / 8192 != k, clus := s.clus.filter fun e => e.1 / 32 != k }
  let s := (List.range 32).foldl (fun s i => s.modCluster (BitVec.ofNat 6 (i + 32 * k)) fun c => { c with isolated := true }) s
  s.modBoot fun b => { b with offDie := b.offDie.filter fun x => x != dieMbd d && !(cdsOf d).contains x }

/-- Another held link keeps a die held. -/
def heldBy (s : State) (n : Nat) (d : Bool) : Bool :=
  (List.range 3).any fun k => k != n && (s.link k).st == .held && (linkDies k).contains d

/-- HOLD takes 0: the dies that no other link holds are released, and the links that end on them start handshakes (R461, R468). -/
def linkRelease (s : State) (n : Nat) : State :=
  if (s.link n).st ≠ .held then s
  else
    let go := (linkDies n).filter fun d => !heldBy s n d
    let s := go.foldl releaseDie (s.modLink n fun l => { (default : LinkSt) with a := { (default : LinkEnd) with test := l.a.test },
                                                                                  b := { (default : LinkEnd) with test := l.b.test } })
    (List.range 3).foldl (fun s k =>
      if k == n || ((s.link k).st == .down && (linkDies k).any go.contains) then startHandshake s k else s) s

/-- LINK_HOLD_RELEASE (R468). -/
def execLinkHoldRelease (ag : RegAgent) (link : BitVec 2) (s : State) : Out :=
  .next (if link = 3 then s else withReg s ag (Reg.d2d link.toNat 0x0C) fun s => linkRelease s link.toNat)

/-! ### An attempt (R464 to R466) -/

/-- An attempt fails: ATTFAIL and a degraded event; the third failure holds the link. -/
def failAttempt (s : State) (n : Nat) : State :=
  let s := linkEvent (linkFlag s n dlAttfail) n 0x15
  if 3 ≤ (s.link n).attempt then holdLink s n else s.modLink n fun l => { l with attempt := l.attempt + 1 }

/-- Good lanes of a bundle. -/
def lanesOf (l : List (BitVec 18)) (i : Nat) : Nat := popBelow ((l[i]?).getD 0).toNat 18

/-- The bundles an attempt can use: at least 16 good lanes in both directions, not failed in an earlier TEST, not in BOFF (R458,
R464). -/
def usableBundles (s : State) (n : Nat) (m : LaneReport) : List Nat :=
  (List.range (linkBundles n)).filter fun i =>
    decide (16 ≤ lanesOf m.down i) && decide (16 ≤ lanesOf m.up i) && !(s.link n).skip.contains i && !boff s n i

/-- While a link was not up, the FWD time-outs of forwards that cross it did not count (R463). -/
def shiftFwd (s : State) (n : Nat) : State :=
  match (s.link n).downTs with
  | none => s
  | some t =>
    let d := s.ts - t
    let crosses := fun (h : Nat) (x : Txn) => x.wait.any fun c => dieOfCluster c != dieOfHome (BitVec.ofNat 8 h)
    if n ≠ 2 then s
    else s.modMem fun m => { m with homes := mmap m.homes fun h x => { x with
      txns := x.txns.map fun t => if crosses h t then { t with fwdTs := t.fwdTs + d } else t } }

/-- The link comes up with a map: WIDTHDROP when it is narrower than before (R464, R472). -/
def linkComesUp (s : State) (n w : Nat) (m : LaneReport) (chk : BitVec 16) : State :=
  let s := if w < (s.link n).width then linkFlag s n dlWidthdrop else s
  let s := shiftFwd s n
  s.modLink n fun l => { l with
    st := .up, width := w, down := m.down, up := m.up, near := chk, far := chk, attempt := 0, skip := [], downTs := none
    a := { l.a with await := false, replays := 0 }, b := { l.b with await := false, replays := 0 } }

/-- The steps of one attempt: each end answers, lanes, W of at least 16, equal map checks, every test flit (R464). -/
def attempt (s : State) (n : Nat) (m : LaneReport) : State :=
  let use := usableBundles s n m
  if !m.answered ∨ use.length < 16 then failAttempt s n
  else match m.nearCheck, m.farCheck with
    | some x, some y =>
      if x ≠ y then failAttempt (linkFlag s n dlMaperr) n
      else if !m.testOk ∨ !m.testBad.isEmpty then
        failAttempt (s.modLink n fun l => { l with skip := m.testBad.foldl insertNat l.skip }) n
      else linkComesUp s n use.length m x
    | _, _ => failAttempt s n

/-- HANDSHAKE_ATTEMPT (R464). -/
def execHandshakeAttempt (link : BitVec 2) (m : LaneReport) (s : State) : Out :=
  .next (if s.boot.inReset || (s.link link.toNat).st != .training then s else attempt s link.toNat m)

/-- HANDSHAKE_STEP_TIMEOUT: a step of the running attempt, 1 REQ to 6 TEST, exceeds its limit (R464). -/
def execHandshakeStepTimeout (link : BitVec 2) (st : BitVec 4) (s : State) : Out :=
  .next (
    if s.boot.inReset || (s.link link.toNat).st != .training || st == 0 || st.toNat > 6 then s else failAttempt s link.toNat)

/-! ### Resets, retrains and state wires (R461, R467) -/

/-- One end's link layer is reset alone: an up link starts a handshake, a running attempt fails and counts. -/
def endReset (s : State) (n : Nat) : State :=
  match (s.link n).st with
  | .up => startHandshake s n
  | .training => failAttempt s n
  | _ => s

/-- The offset of a link's register word on the IOD, or on the base die at the far end. -/
def linkReg (n : Nat) (far : Bool) (w : Nat) : Nat := if far then Reg.d2dFar (n != 0) n w else Reg.d2d n w

/-- D2D_RESET (R461). -/
def execD2dReset (ag : RegAgent) (link : BitVec 2) (far : Bool) (s : State) : Out :=
  .next (if link = 3 then s else withReg s ag (linkReg link.toNat far 0) fun s => endReset s link.toNat)
/-- D2D_RETRAIN: no effect on a running handshake (R461, R467). -/
def execD2dRetrain (ag : RegAgent) (link : BitVec 2) (s : State) : Out :=
  .next (if link = 3 then s else withReg s ag (Reg.d2d link.toNat 0) fun s => startHandshake s link.toNat)
/-- SBS_DROP: the other end's state wire has dropped (R461). -/
def execSbsDrop (link : BitVec 2) (s : State) : Out := .next (if s.boot.inReset || link == 3 then s else endReset s link.toNat)

/-! ### Flits (R459 to R461, R465) -/

/-- Send a CTL flit with the count of the last flit accepted: an ACK or a NAK. -/
def sendCtl (e : LinkEnd) (nak : Bool) : LinkEnd :=
  { e with txCount := e.txCount + 1, out := e.out ++ [(nak, e.rxCount)], sinceAck := 0
           replay := (e.replay ++ [e.txCount + 1]).drop (e.replay.length + 1 - 128) }

/-- A count lies at or before another, modulo 2^16. -/
def countLe (x y : BitVec 16) : Bool := decide ((y - x).toNat < 2 ^ 15)

/-- A good flit in count order is accepted: credits return, and every 32 flits an ACK leaves. -/
def acceptFlit (e : LinkEnd) (f : Flit) : LinkEnd :=
  let ch := f.crch.toNat
  let e := { e with rxCount := f.count, await := false, sinceAck := e.sinceAck + 1
                    credits := mset e.credits ch (min 0 (mgetD 0 e.credits ch + f.crn.toNat)) }
  if 32 ≤ e.sinceAck then sendCtl e false else e

/-- Receiving one flit at an end: accepted; discarded with a NAK when it is bad or out of order; discarded while a replay is awaited. -/
def rxFlit (e : LinkEnd) (f : Flit) : LinkEnd × Bool :=
  if f.crcOk && decide (f.ch.toNat ≤ 8) && f.count == e.rxCount + 1 then (acceptFlit e f, true)
  else if e.await then (e, false)
  else ({ sendCtl e true with await := true }, false)

/-- What an accepted CTL flit tells the end: flits up to its count are accepted; a NAK replays the rest. -/
def takeCtl (e : LinkEnd) (f : Flit) : LinkEnd :=
  let left := e.replay.filter fun c => !countLe c f.acked
  { e with replay := left, replays := (if left.length < e.replay.length then 0 else e.replays) + (if f.nak then 1 else 0) }

/-- Change the end that receives in a direction. -/
def modEnd (s : State) (n : Nat) (up : Bool) (g : LinkEnd → LinkEnd) : State :=
  s.modLink n fun l => if up then { l with a := g l.a } else { l with b := g l.b }
/-- The end that receives in a direction. -/
def endAt (l : LinkSt) (up : Bool) : LinkEnd := if up then l.a else l.b

/-- A CTL flit: a map check that differs starts a handshake; a NAK counts the flits replayed, raises an event, and after 8 replays of one
flit starts a handshake (R461, R465). -/
def onCtl (s : State) (n : Nat) (up : Bool) (f : Flit) : State :=
  let s := s.modLink n fun l => if up then { l with far := f.mapCheck } else l
  if f.mapCheck ≠ (s.link n).near then startHandshake (linkEvent (linkFlag s n dlMaperr) n 0x15) n
  else
    let s := modEnd s n up fun e => takeCtl e f
    let e := endAt (s.link n) up
    if f.nak then
      let s := linkEvent (linkCount s n 0x20 e.replay.length) n 0x14
      if 8 ≤ e.replays then startHandshake s n else s
    else s

/-- DIE_LINK_FLIT: one end of a link that is up takes a flit (R461). -/
def execDieLinkFlit (link : BitVec 2) (up : Bool) (f : Flit) (s : State) : Out :=
  .next (
    let n := link.toNat
    if s.boot.inReset || (s.link n).st != .up then s
    else
      let r := rxFlit (endAt (s.link n) up) f
      let s := modEnd s n up fun _ => r.1
      if r.2 && f.ch == 0 then onCtl s n up f else s)

/-! ### Test, bond and time marks (R462, R469, R470) -/

/-- A TEST write: a mode other than 0 is discarded with BADTEST unless the link is down or held; 3 acts as 0 (R470, R472). -/
def testMode (s : State) (n : Nat) (far : Bool) (stat : Nat) (mode : BitVec 2) : State :=
  let m := if mode = 3 then 0 else mode
  let l := s.link n
  if m ≠ 0 ∧ l.st ≠ .down ∧ l.st ≠ .held then s.setFlag stat dlBadtest
  else s.modLink n fun l => if far then { l with b := { l.b with test := m } } else { l with a := { l.a with test := m } }

/-- D2D_TEST_MODE (R470). -/
def execD2dTestMode (ag : RegAgent) (link : BitVec 2) (far : Bool) (mode : BitVec 2) (s : State) : Out :=
  .next (if link = 3 then s else withReg s ag (linkReg link.toNat far 0x60) fun s => testMode s link.toNat far (linkReg link.toNat far 0x08) mode)

/-- BOND_PARITY_ERROR: a transfer whose repeat was good is a corrected error; one whose repeat failed is severe and names the cluster,
which the collector isolates (R469, R505). -/
def execBondParityError (cl : BitVec 6) (repeatOk : Bool) (s : State) : Out :=
  .next (if s.boot.inReset then s else raiseAt s (dieCd cl) cl.toNat (if repeatOk then 0x11 else 0x12) 0 0)

/-- TIME_MARK: the TS64 repeater of a base die loads the IOD's count (R462). -/
def execTimeMark (die : Bool) (s : State) : Out :=
  .next (if s.aonUp then s.modBoot fun b => { b with marks := mset b.marks (if die then 1 else 0) s.ts } else s)

end Sys2Proof.Machine
end

