-- ==== Sys2Proof/Machine/Boot.lean ====
section
/-! DEFINITION. Resets and bring-up (chapter 18): cold reset, the boot steps, images, the release of the host, the watchdog, and the
references. -/

namespace Sys2Proof.Machine

/-! ### Cold reset (R221, R528, R531) -/

/-- The register words that a cold reset keeps: the first-error record's status and the crumbs' read position (R511). -/
def keptReg (off : Nat) : Bool := off == Reg.fclFirstStat || off == Reg.fclCrumbRd

/-- Code of a cause in GCTL_RST_CAUSE (R540). -/
def causeCode (c : ColdCause) : BitVec 3 :=
  match c with
  | .pwrGoodFall => 1
  | .resetPin => 2
  | .gctl => 3

/-- The state after a cold reset: everything as State.reset, but for what R528 keeps, the levels of the inputs, and what is outside the
complex. -/
def coldState (s : State) : State :=
  let r := State.reset
  { r with
    pending := s.pending, ts := s.ts, tsFrac := s.tsFrac, aonUp := s.aonUp, free := s.free, fuse := s.fuse
    regs := { r.regs with val := s.regs.val.filter fun e => keptReg e.1 }
    fcl := { r.fcl with
      crumbs := s.fcl.crumbs, newest := s.fcl.newest, any := s.fcl.any, firstSrc := s.fcl.firstSrc, firstCls := s.fcl.firstCls
      firstCtx := s.fcl.firstCtx, firstAddr := s.fcl.firstAddr, firstTs := s.fcl.firstTs }
    pwr := { r.pwr with alert := s.pwr.alert, coolant := s.pwr.coolant, sagIn := s.pwr.sagIn, sagAon := s.pwr.sagAon }
    cal := { r.cal with slots := s.cal.slots }
    svp := { r.svp with present := s.svp.present }
    boot := { r.boot with
      inReset := true, cause := s.boot.cause, trip := s.boot.trip, refLost := s.boot.refLost, phyLost := s.boot.phyLost
      minVer := s.boot.minVer } }

/-- A cold reset begins, and abandons a boot or a commit that runs; one that runs already goes on. -/
def coldReset (s : State) (cause : ColdCause) : State :=
  let s := if s.boot.inReset then s else (coldState s).modBoot fun b => { b with cause := causeCode cause }
  if cause = .pwrGoodFall then s.modBoot fun b => { b with trip := false } else s

/-- COLD_RESET (R528). -/
def execColdReset (cause : ColdCause) (s : State) : Out := .next (coldReset s cause)

/-- GCTL_COLD_RST: a G2 write of GO (R531). -/
def execGctlColdRst (ag : RegAgent) (s : State) : Out :=
  .next (withReg s ag Reg.gctlColdRst fun s => g2Write s ag fun s => coldReset s .gctl)

/-! ### The boot sequence (R532) -/

/-- A boot step begins. -/
def enterStep (s : State) (n : Nat) : State := s.modBoot fun b => { b with step := n, stepTs := s.ts }

/-- The boot stops at its step. -/
def stopBoot (s : State) : State := s.modBoot fun b => { b with stopped := true }

/-- BOOT_START: the rise of PKG_RESET_N, the always-on PLL locked; the other dies stay in reset until step 0x05; an asserted regulator
alert acts (R496, R525, R527, R532). -/
def execBootStart (testEn : Bool) (s : State) : Out :=
  .next (
    if !s.boot.inReset || !s.aonUp then s
    else
      let s := (enterStep s 1).modBoot fun b => { b with
        inReset := false, testEn := testEn, start := s.ts, offDie := [1, 2, 3, 4, 5, 6] }
      if s.pwr.alert then forceLowest s else s)

/-- The mode of a tier from the stacks that pass training (R195). -/
def tierModeOf (good : BitVec 8) : Nat :=
  if good = 0xFF then 0 else if good.extractLsb' 0 4 = 0xF then 1 else if good.extractLsb' 4 4 = 0xF then 2 else 3

/-- Step 0x04 ends: the calibration set is loaded, firmware sets FWCTL, SBR is released, and the handshakes start. -/
def endCalibration (s : State) (answers : Bool) : State :=
  let s := enterStep (setFwctl (calLoad s answers) true) 5
  let s := s.modBoot fun b => { b with offDie := [] }
  (List.range 3).foldl startHandshake s

/-- Step 0x05 has ended: every link is up or held. -/
def linksDone (s : State) : Bool := (List.range 3).all fun n => (s.link n).st == .up || (s.link n).st == .held

/-- Step 0x07 ends: the stacks that fail training (R195, R405). -/
def endTraining (s : State) (nearBad farBad : BitVec 8) : State :=
  enterStep (s.modMem fun m => { m with nearGood := m.nearGood &&& ~~~nearBad, farGood := m.farGood &&& ~~~farBad }) 8

/-- Step 0x08 ends: modes, decoder 0 and its bias; a near tier that neither die can carry stops the boot with a fatal event (R22, R195,
R409). -/
def endDecoder (s : State) : State :=
  let near := tierModeOf s.mem.nearGood
  if near = 3 then raise (stopBoot s) 0x31
  else
    let s := earlyCommit (s.modMem fun m => { m with nearMode := near, farMode := tierModeOf m.farGood })
    (enterStep s 9).modHpt fun h => { h with link := .training }

/-- Step 0x09: the link has trained with its working modules; below 2 a fatal event, and no release (R400). -/
def endHostLink (s : State) (good : BitVec 8) : State :=
  if modulesUsed good = 0 then raise (s.modHpt fun h => { h with good := good, link := .down }) 0x1D
  else s.modHpt fun h => { h with good := good, width := BitVec.ofNat 4 (modulesUsed good), link := .l0 }

/-- A boot step runs: not stopped, not in reset, not in the safe state. -/
def booting (s : State) : Bool := !s.boot.inReset && !s.boot.stopped && !s.fcl.safe

/-- The end of the running step. Step 0x02: with TEST_EN high no image starts, and the boot rests there (R530). Step 0x03 ends with an
image that is accepted (R533). -/
def bootStepDone (s : State) (r : BootResult) : State :=
  match s.boot.step with
  | 1 => if r.ok then enterStep s 2 else stopBoot s
  | 2 =>
    if s.boot.i3cUp then s
    else if !r.ok then stopBoot s
    else
      let s := s.modBoot fun b => { b with i3cUp := true }
      if s.boot.testEn then s else (enterStep s 3).modBoot fun b => { b with rom := true }
  | 4 => endCalibration s r.ok
  | 5 => if linksDone s then enterStep s 6 else s
  | 6 => if r.ok then enterStep s 7 else stopBoot s
  | 7 => endTraining s r.nearBad r.farBad
  | 8 => if r.ok then endDecoder s else stopBoot s
  | 9 => if s.hpt.link = .training then endHostLink s r.modules else s
  | _ => s

/-- BOOT_STEP_DONE (R532). -/
def execBootStepDone (r : BootResult) (s : State) : Out := .next (if booting s then bootStepDone s r else s)

/-! ### Images (R533) -/

/-- An image is accepted: key hash, signature, digest, and the security version. -/
def imageOk (s : State) (keyOk sigOk digestOk : Bool) (version : Nat) : Bool :=
  keyOk && sigOk && digestOk && decide (s.boot.minVer ≤ version)

/-- An accepted image starts, and step 0x03 ends where it runs. -/
def startImage (s : State) (image : BitVec 2) : State :=
  let s := s.modBoot fun b => { b with image := image, rom := false, trying := false }
  if s.boot.step = 3 ∧ !s.fcl.safe then enterStep s 4 else s

/-- An image is refused: after A the ROM tries B, after B it waits for a recovery image. -/
def refuseImage (s : State) : State :=
  s.modBoot fun b => if b.trying then { b with image := 3 } else { b with trying := true, stepTs := s.ts }

/-- The management core is in its boot ROM. -/
def romRuns (s : State) : Bool := !s.boot.inReset && s.boot.rom

/-- The ROM verifies an image of the store. -/
def romReads (s : State) : Bool := romRuns s && s.boot.image != 3

/-- IMAGE_VERIFY: image A, then image B (R533). -/
def execImageVerify (image keyOk sigOk digestOk : Bool) (version : Nat) (s : State) : Out :=
  .next (
    if !romReads s || image != s.boot.trying then s
    else if imageOk s keyOk sigOk digestOk version then startImage s (if image then 1 else 0)
    else refuseImage s)

/-- RECOVERY_IMAGE: verified by the same rules (R533). -/
def execRecoveryImage (keyOk sigOk digestOk : Bool) (version : Nat) (s : State) : Out :=
  .next (
    if romRuns s && s.boot.image == 3 && imageOk s keyOk sigOk digestOk version then startImage s 2 else s)

/-! ### Limits (R532) -/

/-- Limit of a boot step in ticks. -/
def stepLimit (n : Nat) : Nat :=
  match n with
  | 1 => 20 * Config.usTicks
  | 2 => Config.msTicks
  | 3 => 13 * Config.msTicks
  | 4 => Config.msTicks
  | 5 => 148 * Config.usTicks
  | 6 => 100 * Config.usTicks
  | 7 => 400 * Config.msTicks
  | 8 => Config.msTicks
  | _ => 50 * Config.msTicks

/-- The outcome of a step that exceeds its limit. -/
def bootTimeout (s : State) : State :=
  match s.boot.step with
  | 1 => stopBoot s
  | 2 => if s.boot.i3cUp then s else stopBoot s
  | 3 => if s.boot.image = 3 then s else refuseImage s
  | 4 => endCalibration s false
  | 5 =>
    let s := (List.range 3).foldl (fun s n => if (s.link n).st = .up ∨ (s.link n).st = .held then s else holdLink s n) s
    enterStep s 6
  | 6 => stopBoot s
  | 7 => endTraining s 0xFF 0xFF
  | 8 => stopBoot s
  | 9 => if s.hpt.link = .training then endHostLink s 0 else s
  | _ => s

/-- BOOT_STEP_TIMEOUT (R532). -/
def execBootStepTimeout (s : State) : Out :=
  .next (if booting s && since s s.boot.stepTs (stepLimit s.boot.step) then bootTimeout s else s)

/-- HOST_RELEASE: steps 0x01 to 0x09 have ended, decoder 0 is committed, the link is up, and the complex is not in the safe state (R21,
R534). -/
def execHostRelease (s : State) : Out :=
  .next (
    if booting s && s.boot.step == 9 && linkUp s && (hdmAt s 0).committed then
      (enterStep s 10).modBoot fun b => { b with hostRel := true }
    else s)

/-! ### The watchdog (R541) -/

/-- EN of GCTL_WDOG. -/
def wdogOn (s : State) : Bool := (s.reg Reg.gctlWdog).getLsbD 31

/-- The count from PERIOD: 500 slow cycles a unit, values below 100 act as 100. -/
def wdogReload (s : State) : State :=
  let n := max (s.fld Reg.gctlWdog 0 16) 100 * 500
  s.modBoot fun b => { b with wdog := n }

/-- A write of GCTL_WDOG: EN once set stays, and starts the count (log entry 50). -/
def wdogWrite (s : State) (v : BitVec 32) : State :=
  let on := wdogOn s
  let s := s.setReg Reg.gctlWdog ((v &&& 0x8000FFFF) ||| (if on then 0x80000000 else 0))
  if !on && v.getLsbD 31 then wdogReload s else s

/-- A write of GCTL_WDOG_KICK: by the management core only. -/
def wdogKick (s : State) (ag : RegAgent) (v : BitVec 32) : State :=
  if ag == .mgc && v.getLsbD 0 && wdogOn s then wdogReload s else s

/-- WDOG_KICK (R541). -/
def execWdogKick (ag : RegAgent) (v : BitVec 32) (s : State) : Out :=
  .next (withReg s ag Reg.gctlWdogKick fun s => wdogKick s ag v)

/-- WDOG_EXPIRE: a severe event, EXPIRED, FWCTL clears, the management core restarts at its ROM, and the count reloads (R541). -/
def execWdogExpire (s : State) : Out :=
  .next (
    if s.boot.inReset || !wdogOn s || decide (s.boot.wdog ≠ 0) then s
    else
      let s := setFwctl ((raise s 0x32).setFlag Reg.gctlWdogStat 0) false
      wdogReload (s.modBoot fun b => { b with rom := true, trying := false, image := 0 }))

/-! ### Clocks and references (R524 to R526) -/

/-- AON_PLL_LOCK: TS64 starts at 0 at the first lock, and again when the always-on rail has lost power, which also loses the first-error
record, the crumbs and the cause (R511, R525). -/
def execAonPllLock (railLost : Bool) (s : State) : Out :=
  .next (
    if railLost then
      { State.reset with
        pending := s.pending, free := s.free, fuse := s.fuse, aonUp := true
        cal := { State.reset.cal with slots := s.cal.slots }
        pwr := { State.reset.pwr with alert := s.pwr.alert, coolant := s.pwr.coolant, sagIn := s.pwr.sagIn, sagAon := s.pwr.sagAon }
        boot := { State.reset.boot with refLost := s.boot.refLost, phyLost := s.boot.phyLost, minVer := s.boot.minVer } }
    else { s with aonUp := true })

/-- REFCLK_LOSS: REFLOSS; the PLL holds its last frequency and TS64 runs on (R526). -/
def execRefclkLoss (s : State) : Out :=
  .next (
    if s.boot.refLost then s
    else
      let s := s.modBoot fun b => { b with refLost := true }
      if s.boot.inReset then s else s.setFlag Reg.gctlRstStat 0)
/-- REFCLK_RETURN: the PLL relocks without a step of TS64 (R526). -/
def execRefclkReturn (s : State) : Out := .next (s.modBoot fun b => { b with refLost := false })

/-- PHYREF_LOSS: PHYLOSS; the PHYs that lose lock retrain by commands of their own (R524). -/
def execPhyrefLoss (s : State) : Out :=
  .next (
    if s.boot.phyLost then s
    else
      let s := s.modBoot fun b => { b with phyLost := true }
      if s.boot.inReset then s else s.setFlag Reg.gctlRstStat 1)
/-- PHYREF_RETURN (R524). -/
def execPhyrefReturn (s : State) : Out := .next (s.modBoot fun b => { b with phyLost := false })

end Sys2Proof.Machine
end

