-- ==== Sys2Proof/Machine/Drom.lean ====
section
/-! DEFINITION. The Description ROM and the Size Table (R32, R404 to R406). -/

namespace Sys2Proof.Machine

/-- A field placed at a bit. -/
def fieldAt (v bit : Nat) : Nat := v * 2 ^ bit

/-- The enable mask of a cluster (R4). -/
def enableMask (s : State) (c : BitVec 6) : Nat :=
  (List.range Config.positions).foldl (fun n p => if enabledPos s c p then n + 2 ^ p else n) 0

/-- Enabled cores of the complex. -/
def enabledTotal (s : State) : Nat := (List.range 64).foldl (fun n c => n + enabledCount s (BitVec.ofNat 6 c)) 0

/-- Word i of the Size Table (R405). -/
def sizeWord (s : State) (i : Nat) : Nat :=
  match i with
  | 0 => fieldAt 1 16 + 272
  | 1 => fieldAt (if s.fuse.small then 1 else 0) 40 + fieldAt 160 32 + fieldAt 4 24 + fieldAt 64 16 + enabledTotal s
  | 2 => fieldAt 32 48 + fieldAt 16 32 + fieldAt 32 16 + 64
  | 3 => fieldAt 8 48 + fieldAt 4 32 + fieldAt 8 16 + 8
  | 4 => fieldAt 524288 32 + 8192
  | 5 => tierLimit s.mem .near
  | 6 => tierLimit s.mem .far
  | 7 => fieldAt s.mem.farGood.toNat 16 + fieldAt s.mem.nearGood.toNat 8 + fieldAt s.mem.farMode 2 + s.mem.nearMode
  | 8 => fieldAt 64 56 + fieldAt 32 48 + fieldAt 1024 32 + fieldAt 8 24 + fieldAt 12 16 + 256
  | 9 => fieldAt 256 16 + 256
  | i =>
    if 16 ≤ i ∧ i < 208 then bitsN (enableMask s (BitVec.ofNat 6 ((i - 16) / 3))) (64 * ((i - 16) % 3)) 64
    else if 208 ≤ i ∧ i < 272 then enabledCount s (BitVec.ofNat 6 (i - 208))
    else 0

/-- The capability word: every feature of R406 is offered. -/
def capWord : Nat := 0x1FFF

/-- The rows of the BAR0 map as the block table gives them: prefix, offset, size (R406, R454). -/
def blockTable : List (String × Nat × Nat) :=
  [("DROM", 0x0000000, 0x10000), ("GCTL", 0x0010000, 0x10000), ("TBS", 0x0020000, 0x10000), ("FCL", 0x0030000, 0x10000),
   ("PWR", 0x0040000, 0x10000), ("CAL", 0x0050000, 0x10000), ("HPT", 0x0060000, 0x10000), ("APW", 0x0070000, 0x10000),
   ("SVP", 0x0080000, 0x10000), ("DSP", 0x0090000, 0x10000), ("XLT", 0x00A0000, 0x10000), ("FAB", 0x00B0000, 0x10000),
   ("PRZ", 0x00C0000, 0x10000), ("D2D", 0x00D0000, 0x10000), ("MBD0", 0x0100000, 0x100000), ("MBD1", 0x0200000, 0x100000),
   ("CD0", 0x1000000, 0x400000), ("CD1", 0x1400000, 0x400000), ("CD2", 0x1800000, 0x400000), ("CD3", 0x1C00000, 0x400000)]

/-- The bytes of a prefix, padded with zeros to 8. -/
def prefixByte (p : String) (i : Nat) : Nat := ((p.toList[i]?).map (·.toNat)).getD 0

/-- A byte of the Description ROM past its first 64 bytes. -/
def dromBody (s : State) (o : Nat) : Nat :=
  if 0x40 ≤ o ∧ o < 0x48 then bitsN capWord (8 * (o - 0x40)) 8
  else if 0x100 ≤ o ∧ o < 0x100 + 8 * 768 then bitsN (sizeWord s ((o - 0x100) / 8)) (8 * (o % 8)) 8
  else if 0x2000 ≤ o ∧ o < 0x2000 + 16 * 20 then
    match blockTable[(o - 0x2000) / 16]? with
    | some (p, off, size) =>
      let k := o % 16
      if k < 8 then prefixByte p k else if k < 12 then bitsN off (8 * (k - 8)) 8 else bitsN size (8 * (k - 12)) 8
    | none => 0
  else 0

/-- One byte into a CRC-32 with the IEEE 802.3 polynomial, reflected. -/
def romCrcByte (crc b : Nat) : Nat :=
  (List.range 8).foldl (fun c _ => if c % 2 = 1 then (c / 2) ^^^ 0xEDB88320 else c / 2) (crc ^^^ b)

/-- The CRC-32 over bytes 0x40 to 0xFFFF (R404). -/
def dromCrc (s : State) : Nat :=
  (List.range (0x10000 - 0x40)).foldl (fun c i => romCrcByte c (dromBody s (0x40 + i))) 0xFFFFFFFF ^^^ 0xFFFFFFFF

/-- A 32-bit word of the Description ROM (R404). -/
def dromWord (s : State) (o : Nat) : Nat :=
  match o with
  | 0x00 => 0x4434545A
  | 0x04 => fieldAt s.fuse.stepping.toNat 16 + 1
  | 0x08 => 0x100
  | 0x0C => 272
  | 0x10 => 0x40
  | 0x14 => 0x2000
  | 0x18 => blockTable.length
  | 0x1C => dromCrc s
  | o => if o < 0x40 then 0 else
    dromBody s o + 256 * dromBody s (o + 1) + 65536 * dromBody s (o + 2) + 16777216 * dromBody s (o + 3)

end Sys2Proof.Machine
end

