-- ==== Sys2Proof/Machine/RegRead.lean ====
section
/-! DEFINITION. What a read of a register returns (R439, R442, R443, R446, R450, R451): the words that the complex itself changes, the
overflow words, pairs and their shadows, and values that are pending. -/

namespace Sys2Proof.Machine

/-- A one-bit value at a bit position. -/
def bitAt (b : Bool) (n : Nat) : Nat := if b then 2 ^ n else 0

/-- A 32-bit word of a number. -/
def w32 (n : Nat) : BitVec 32 := BitVec.ofNat 32 n

/-! ### Overflow words (R451) -/

/-- The counters whose sticky overflow bits an overflow word holds: bit and low word. -/
def ovfBits (off : Nat) : List (Nat × Nat) :=
  let d := off / 0x100000 == 2
  let home := fun o : Nat => Reg.mbd d o
  match barRow off with
  | some 1 => if off = Reg.gctlCntOvf then [(0, Reg.gctlStaleClr), (1, Reg.gctlVote)] else []
  | some 3 =>
    match off % 0x10000 with
    | 0x50 => (List.range 32).map fun t => (t, Reg.fclCnt t)
    | 0x54 => (List.range 20).map fun t => (t, Reg.fclCnt (32 + t))
    | 0x58 => [(0, Reg.fclCrumbLost), (1, Reg.fclLpLost)]
    | _ => []
  | some 4 => if off % 0x10000 = 0x98 then [(0, Reg.pwrDroop), (1, Reg.pwrTeldrop), (2, Reg.pwrProofUj)] else []
  | some 6 => if off % 0x10000 = 0x68 then [(0, Reg.hptUr), (1, Reg.hptRetrain), (2, Reg.hptBadop)] else []
  | some 8 => if off % 0x10000 = 0x28 then [(0, Reg.svpDrop)] else []
  | some 10 => if off % 0x10000 = 0x130 then [(0, Reg.xltFqLate), (1, Reg.xltFqStall)] else []
  | some 11 =>
    if off % 0x10000 = 0xC048 then
      (List.range 24).map (fun b => (b, Reg.fabPort (b / 2) (if b % 2 = 0 then 0x10 else 0x18))) ++
        [(24, Reg.fabResend), (25, Reg.fabDiscard)]
    else []
  | some 12 => if off % 0x10000 = 0x28 then [(0, Reg.przDrop)] else []
  | some 13 => if off % 0x1000 = 0x38 then [(0, off - 0x18), (1, off - 0x10), (2, off - 0x08)] else []
  | some 14 | some 15 =>
    match off % 0x100000 with
    | 0x20 => [(0, home Reg.homeRecall), (1, home Reg.homeRetry), (2, home Reg.homePoison)]
    | 0x80 => (List.range 8).map fun n => (n, home (Reg.homeTp n))
    | 0x80008 => [(0, home Reg.nmuDrop)]
    | 0xA0018 => [(0, home Reg.scrCe), (1, home Reg.scrUe)]
    | 0xB0038 | 0xB1038 | 0xB2038 => [(0, off - 0x18), (1, off - 0x10), (2, off - 0x08)]
    | _ => []
  | some (_ + 16) => if off % 0x10000 = 0x18 then [(0, off - 0x10), (1, off - 0x08)] else []
  | _ => []

/-- An overflow word: a bit is set once its counter has reached all ones. -/
def ovfWord (s : State) (off : Nat) : Nat :=
  (ovfBits off).foldl (fun n e => n + bitAt (s.cnt e.2 == BitVec.allOnes 64) e.1) 0

/-! ### Words that the complex changes -/

/-- Strobes written and not applied: GCTL_PEND (R444). -/
def strobesPending (s : State) : BitVec 16 := s.regs.strobes.foldl (· ||| ·) 0

/-- The register agents in the order of OPEN (R453). -/
def agentBit (ag : RegAgent) : Nat :=
  match ag with
  | .host => 0
  | .mgc => 1
  | .test => 2
  | .i3c => 3

/-- GCTL words (R453, R540). -/
def readGctl (s : State) (o : Nat) : Option Nat :=
  match o with
  | 0x00 => some ([RegAgent.host, .mgc, .test, .i3c].foldl (fun n a => n + bitAt (lockOpen s a) (16 + agentBit a)) 0)
  | 0x08 => some (strobesPending s).toNat
  | 0x2C => some (ovfWord s Reg.gctlCntOvf)
  | 0x10C => some (s.boot.step * 256 + bitAt s.boot.stopped 15 + s.boot.image.toNat * 4 + bitAt (fwctl s) 1 + bitAt s.boot.hostRel 0)
  | 0x110 => some s.boot.cause.toNat
  | _ => none

/-- A crumb's words (R512). -/
def crumbWord (c : Crumb) (i : Nat) : Nat :=
  match i with
  | 0 => c.cseq.toNat + c.src.toNat * 65536
  | 1 => c.cls.toNat + c.kind.toNat * 8
  | 2 => c.ctx.toNat
  | 3 => c.count.toNat
  | 4 => bitsN c.addr.toNat 0 32
  | 5 => bitsN c.addr.toNat 32 32
  | 6 => bitsN c.ts.toNat 0 32
  | _ => bitsN c.ts.toNat 32 32

/-- FCL words (R522). -/
def readFcl (s : State) (o : Nat) : Option Nat :=
  if 0x1000 ≤ o ∧ o < 0x1400 then
    some (match mgetD none s.fcl.crumbs ((o - 0x1000) / 32) with
      | some c => crumbWord c (o % 32 / 4)
      | none => 0)
  else match o with
  | 0x08 => some (safeEnables s).toNat
  | 0x14 => some (s.fcl.firstSrc.toNat + s.fcl.firstCls.toNat * 65536)
  | 0x18 => some s.fcl.firstCtx.toNat
  | 0x30 => some (s.fcl.newest.toNat + bitAt s.fcl.any 16)
  | 0x50 | 0x54 | 0x58 => some (ovfWord s (0x030000 + o))
  | _ => none

/-- The step of a cluster as PWR_CL_STEP shows it: 0xFF while its PLL is stopped (R501). -/
def clStepByte (s : State) (c : Nat) : Nat :=
  let x := s.cluster (BitVec.ofNat 6 c)
  if x.pll == .stopped then 0xFF else x.step

/-- Four bytes as a word, the first lowest. -/
def bytes4 (f : Nat → Nat) : Nat := f 0 + 256 * f 1 + 65536 * f 2 + 16777216 * f 3

/-- PWR words (R501). -/
def readPwr (s : State) (o : Nat) : Option Nat :=
  if 0x40 ≤ o ∧ o < 0x80 then some (bytes4 fun i => clStepByte s (o - 0x40 + i))
  else match o with
  | 0x00 => some (bitsN s.regs.limSust.a.toNat 0 16)
  | 0x04 => some (bitsN s.regs.limPeak.a.toNat 0 16)
  | 0x24 => some (bytes4 fun i => if s.boot.offDie.contains (3 + i) then 0xFF else railOf s i)
  | 0x98 => some (ovfWord s 0x040098)
  | 0xA0 => some (bitAt s.pwr.sagIn 1 + bitAt s.pwr.sagAon 0)
  | _ => none

/-- CAL words (R539). -/
def readCal (s : State) (o : Nat) : Option Nat :=
  match o with
  | 0x08 => some (bitAt (s.cal.busy.isSome || s.cal.waiting) 31 + bitAt s.cal.erasing.isSome 30 + bitAt s.cal.defaults 29 + s.cal.slot.toNat)
  | 0x0C => some (committedWord s 1).toNat
  | 0x14 => some (calWinValue s).toNat
  | _ => none

/-- STATE of HPT_LINK_STAT (R423). -/
def linkCode (l : LinkState) : Nat :=
  match l with
  | .down => 0
  | .training => 1
  | .l0 => 2
  | .retrain => 3
  | .l0s => 4
  | .l1 => 5
  | .held => 6

/-- HPT words (R423): the BUSY bits stand beside the flags. -/
def readHpt (s : State) (o : Nat) : Option Nat :=
  match o with
  | 0x00 => some (linkCode s.hpt.link + s.hpt.width.toNat * 16 + s.hpt.good.toNat * 256)
  | 0x08 => some (intCause s).toNat
  | 0x28 => some (s.reg Reg.hptBiasStat ||| w32 (bitAt s.hpt.biasJob.isSome 2)).toNat
  | 0x48 => some (s.reg Reg.hptHwinStat ||| w32 (bitAt s.hpt.hwin.isSome 5)).toNat
  | 0x68 => some (ovfWord s 0x060068)
  | _ => none

/-- APW words: EN as voted, GEN (R434, R436). OLDBUSY reads 0: a request through a window is one step of the model (log entry 5). -/
def readApw (s : State) (o : Nat) : Option Nat :=
  if o < 0x80 ∧ o % 0x20 = 0x14 then some (mgetD 0 s.svp.gen (o / 0x20)).toNat
  else if o = 0x80 then some (((vote3 s.regs.winEn).getD 0).toNat % 16)
  else none

/-- SVP words (R435). -/
def readSvp (s : State) (o : Nat) : Option Nat :=
  match o with
  | 0x00 => some (s.svp.speed.toNat + s.svp.width.toNat * 16 + bitAt s.svp.up 10 + bitAt s.svp.present 11 + bitAt s.svp.cfg.isSome 12)
  | 0x0C => some s.svp.intx.toNat
  | 0x28 => some (ovfWord s 0x080028)
  | _ => none

/-- The energy slot that DSP_ENERGY_SEL selects (R349, R350). -/
def energySlot (s : State) : Option CtxSt := s.ctxSlot (BitVec.ofNat 20 (s.fld Reg.dspEnergySel 0 20))

/-- DSP words (R350). -/
def readDsp (s : State) (o : Nat) : Option Nat :=
  if o = 0x1C then some ((s.reg Reg.dspEnergySel).toNat % 2 ^ 20 + bitAt (((energySlot s).map (·.ovf)).getD false) 31) else none

/-- XLT words (R325). -/
def readXlt (s : State) (o : Nat) : Option Nat :=
  match o with
  | 0x11C => some ((ovtRecs s).length + unresolved s * 65536)
  | 0x130 => some (ovfWord s 0x0A0130)
  | 0x314 => some (s.reg Reg.xltInvStat ||| w32 (bitAt s.xlt.inv.isSome 3)).toNat
  | 0x404 => some (mgetD 0 s.mem.owner (tabKey false (s.fld Reg.xltOwnPage 0 18))).toNat
  | _ => none

/-- STATE of FAB_Pn_STATE (R397). -/
def portCode (p : PortState) : Nat :=
  match p with
  | .off => 0
  | .training => 1
  | .up => 2
  | .failed => 3

/-- The last offset in ps as 31 signed bits, saturated (R397). -/
def ofsField (o : Int) : Nat := (BitVec.ofInt 31 (max (-(2 ^ 30)) (min (2 ^ 30 - 1) o))).toNat

/-- FAB words (R397). FAB_TAB_CTL reads 0: an invalidation is one step of the model. -/
def readFab (s : State) (o : Nat) : Option Nat :=
  if o < 0xC000 then (if o % 0x1000 = 4 then some (portCode (s.port (BitVec.ofNat 4 (o / 0x1000))).st) else none)
  else match o with
  | 0xC030 => some (ofsField s.fab.ofs + bitAt s.fab.lock 31)
  | 0xC048 => some (ovfWord s 0x0BC048)
  | _ => none

/-- A loaded tree. -/
def treeAt (s : State) (t : Nat) : Option Tree := mgetD none s.prz.trees t

/-- PRZ words (R398). -/
def readPrz (s : State) (o : Nat) : Option Nat :=
  match o with
  | 0x18 => some (((treeAt s (s.fld Reg.przSeqSel 0 6)).map Tree.seq).getD 0).toNat
  | 0x28 => some (ovfWord s 0x0C0028)
  | _ => none

/-- The value last written to a register's pending fields, where it is not yet in force (R443, R445). -/
def lastWritten (s : State) (off : Nat) : Option (BitVec 32) :=
  match mgetD none s.regs.late off with
  | some v => some v
  | none => mgetD none s.regs.pend off

/-- STATE of D2D_Ln_STATE (R472). -/
def d2dCode (x : D2dState) : Nat :=
  match x with
  | .down => 0
  | .training => 1
  | .up => 2
  | .held => 3

/-- The link of an offset in a D2D block, with the die for a base die's side: none is the IOD (R472, R473). -/
def d2dPlace (off : Nat) : Option (Nat × Option Bool) :=
  match barRow off with
  | some 13 => some (off % 0x10000 / 0x1000, none)
  | some 14 => if 0xB0000 ≤ off % 0x100000 then some (off % 0x10000 / 0x1000, some false) else none
  | some 15 => if 0xB0000 ≤ off % 0x100000 then some (off % 0x10000 / 0x1000, some true) else none
  | _ => none

/-- The end that a register block describes: the far one on a base die for links 0 and 1, and on MBD1 for link 2. -/
def d2dFarEnd (n : Nat) (side : Option Bool) : Bool :=
  match side with
  | none => false
  | some d => n != 2 || d

/-- D2D words; on a base die HOLD, BOFF and EN read as on the IOD (R472, R473). STEP shows REQ while an attempt runs: its steps are one
command of the model (log entry 51). -/
def readD2d (s : State) (off n : Nat) (side : Option Bool) : Option Nat :=
  let l := s.link n
  let far := d2dFarEnd n side
  match off % 0x1000 with
  | 0x00 => if side.isSome then some (((lastWritten s (Reg.d2d n 0)).getD (s.reg (Reg.d2d n 0))).toNat % 2) else none
  | 0x04 => some (d2dCode l.st + bitAt (l.st == .training) 4 + l.attempt * 256 + l.width * 65536)
  | 0x0C => some (bitAt (l.st == .held) 0)
  | 0x14 => some (if far then l.far.toNat + l.near.toNat * 65536 else l.near.toNat + l.far.toNat * 65536)
  | 0x1C =>
    let sel := (s.reg (off - 4)).toNat
    some (((if sel.testBit 8 then l.up else l.down)[sel % 128]?).getD 0).toNat
  | 0x38 => some (ovfWord s off)
  | 0x40 => if side.isSome then some (s.reg (Reg.d2d n 0x40)).toNat else none
  | 0x48 => if side.isSome then some (s.reg (Reg.d2d n 0x48)).toNat else none
  | 0x50 => if side.isSome then some (s.reg (Reg.d2d n 0x50)).toNat else none
  | 0x60 => some ((if far then l.b.test else l.a.test).toNat * 4)
  | _ => none

/-- Words of a base die (R211, R260, R455, R523). -/
def readMbd (s : State) (die : Bool) (o : Nat) : Option Nat :=
  let off := Reg.mbd die o
  match o with
  | 0x20 | 0x80 | 0x80008 | 0xA0018 => some (ovfWord s off)
  | 0x90008 => some (bitAt (mgetD false s.mem.dcxBusy (if die then 1 else 0)) 1)
  | _ =>
    if 0xA0020 ≤ o ∧ o < 0xA0040 then some (mgetD 0 s.mem.scrub ((if die then 8 else 0) + (o - 0xA0020) / 4))
    else none

/-- Words of a cluster window (R523). -/
def readClg (s : State) (off : Nat) : Option Nat :=
  let c := BitVec.ofNat 6 (16 * ((off - 0x1000000) / 0x400000) + (off - 0x1000000) % 0x400000 / 0x10000)
  match off % 0x10000 with
  | 0x00 => some (bitAt (s.cluster c).isolated 0)
  | 0x18 => some (ovfWord s off)
  | _ => none

/-- A word that the complex keeps otherwise than as a register value. -/
def liveWord (s : State) (off : Nat) : Option Nat :=
  match d2dPlace off with
  | some (n, side) => readD2d s off n side
  | none =>
    let o := off % 0x10000
    match barRow off with
    | some 0 => some (dromWord s o)
    | some 1 => readGctl s o
    | some 3 => readFcl s o
    | some 4 => readPwr s o
    | some 5 => readCal s o
    | some 6 => readHpt s o
    | some 7 => readApw s o
    | some 8 => readSvp s o
    | some 9 => readDsp s o
    | some 10 => readXlt s o
    | some 11 => readFab s o
    | some 12 => readPrz s o
    | some 14 => readMbd s false (off % 0x100000)
    | some 15 => readMbd s true (off % 0x100000)
    | some (_ + 16) => readClg s off
    | _ => none

/-! ### Pairs (R450) -/

/-- The engines of a base die that run (R219). -/
def rmBusyBits (s : State) (die : Bool) : Nat :=
  (List.range 33).foldl (fun n i => n + bitAt (mgetD none s.mem.rm (rmKeyOf die i)).isSome i) 0

/-- The 64-bit value of a pair whose words are RO, by its low word. -/
def pairValue (s : State) (lo : Nat) : BitVec 64 :=
  if ((regInfo lo).map (·.cnt)) = some 1 then s.cnt lo
  else match lo with
  | 0x020000 => s.ts
  | 0x020008 => s.boot.start
  | 0x030020 => s.fcl.firstTs
  | 0x030028 => s.fcl.firstAddr
  | 0x090020 => ((energySlot s).map (·.energy)).getD 0
  | 0x0C000C => BitVec.ofNat 64 ((List.range 64).foldl (fun n t => n + bitAt (treeAt s t).isSome t) 0)
  | 0x140070 => BitVec.ofNat 64 (rmBusyBits s false)
  | 0x240070 => BitVec.ofNat 64 (rmBusyBits s true)
  | _ => BitVec.ofNat 64 (regPair s lo)

/-- An agent's shadow of a pair, 0 before its first read of the low word (R450). -/
def shadowOf (s : State) (ag : RegAgent) (lo : Nat) : BitVec 32 :=
  match s.regs.shadow.find? fun e => e.1 == (ag, lo) with
  | some e => e.2
  | none => 0

/-! ### A read -/

/-- The value of a word in force. -/
def forceWord (s : State) (off : Nat) : BitVec 32 :=
  match liveWord s off with
  | some n => w32 n
  | none => s.reg off

/-- The word that a read of a register returns: fields that pend read as last written (R443). -/
def readWord (s : State) (off : Nat) (i : RegInfo) : BitVec 32 :=
  match lastWritten s off with
  | some v => (forceWord s off &&& ~~~i.rwp) ||| (v &&& i.rwp)
  | none => forceWord s off

/-- The second word of a G1 register stands at an offset (R446). -/
def g1Second (off : Nat) : Bool := decide (4 ≤ off) && (((regInfo (off - 4)).map (·.g1)).getD false)

/-- Read a register: 0 where none sits, a complement, a pair with its shadow, or the word itself; three reads have side effects
(R289, R439, R442, R446, R450, R539). -/
def readReg (s : State) (ag : RegAgent) (off : Nat) : State :=
  match regInfo off with
  | none => noteRead s ag off (if barRow off = some 0 then w32 (dromWord s (off % 0x10000)) else 0)
  | some i =>
    if off = Reg.fabDrained then fabDrainedRead s ag
    else if off = Reg.svpDrained then svpDrainedRead s ag
    else if off = Reg.calWinData then winStep (noteRead s ag off (calWinValue s))
    else if i.cnt = 1 ∨ i.pair = 1 then readLo s ag off (pairValue s off)
    else if i.cnt = 2 ∨ i.pair = 2 then noteRead s ag off (shadowOf s ag (off - 4))
    else if g1Second off then noteRead s ag off (~~~(forceWord s (off - 4)))
    else noteRead s ag off (readWord s off i)

/-- A register read of an agent. A die without power or in reset answers 0 (R442); a read never waits for a die link (R439). -/
def regRead (s : State) (ag : RegAgent) (off : Nat) : State :=
  if s.boot.inReset || (ag == .host && !linkUp s) then s
  else if ag == .host && (s.hpt.dstate != .d0 || !memEnabled s) then sendUr s
  else if off % 4 ≠ 0 ∨ (barRow off).isNone then (if ag == .host then sendUr s else noteRead s ag off 0)
  else if s.boot.offDie.contains (dieOfOffset off) then noteRead (s.setFlag Reg.gctlStat 5) ag off 0
  else readReg s ag off

/-- SHADOW_LO_READ: a register read (R439, R450). -/
def execShadowLoRead (ag : RegAgent) (off : BitVec 26) (s : State) : Out := .next (regRead s ag off.toNat)

end Sys2Proof.Machine
end

