-- ==== Sys2Proof/Machine/WarmReset.lean ====
section
/-! DEFINITION. Warm resets of cores and clusters (R220, R221, R257, R293, R294, R509, R529): the halt, the drain, what is dropped, the
write-back and the invalidation. -/

namespace Sys2Proof.Machine

/-! ### The beginning (R293, R529) -/

/-- RSTBUSY: a warm reset was ignored. -/
def rstBusy (s : State) : State := s.setFlag Reg.gctlRstStat 2

/-- A launch that runs on a cluster, or prepares on it, halts (R64, R529). -/
def haltForReset (s : State) (cl : BitVec 6) : State :=
  let s := match (s.cluster cl).run with
    | some r => haltLaunch s r.id stHalted
    | none => s
  let hit := fun l : Launch => l.phase == .prepare && l.mask.getLsbD cl.toNat && l.status == stOK
  s.modDsp fun d => { d with launches := d.launches.map fun l => if hit l then { l with status := stHalted } else l }

/-- A core leaves the translation records that it waits on; the records stay open (R315). -/
def leaveXlt (s : State) (core : CoreId) : State :=
  let mine := fun w : Waiter => match w with
    | .core c => c == core
    | .lmv c _ => c == core
    | _ => false
  let other := fun r : XltReq => !mine r.wt
  s.modXlt fun x => { x with
    reqs := x.reqs.filter other, walks := x.walks.filter other, stalled := x.stalled.filter other
    recs := x.recs.map fun r => { r with waiters := r.waiters.filter fun w => !mine w } }

/-- A core at the beginning of its warm reset: it halts, its combining lines are sent (R280), and its lmv.in moves are abandoned
(R293). -/
def beginReset (c : CoreSt) : CoreSt :=
  let c := flushMark (haltCore c)
  { c with
    lmv := mmap c.lmv fun _ m => match m with
      | some x => if x.out then some x else none
      | none => none
    pend := none
    xwait := none
    rsv := none }

/-- A core's warm reset begins. -/
def coreReset (s : State) (core : CoreId) : State :=
  if !enabledPos s core.cl core.pos.toNat then s
  else if (s.core core).rst.isSome ∨ (s.cluster core.cl).rst.isSome then rstBusy s
  else
    let runs := (s.core core).started || (s.cluster core.cl).prep != .none
    let s := if runs then haltForReset s core.cl else s
    (leaveXlt s core).modCore core fun c => { beginReset c with rst := some s.ts }

/-- A cluster's warm reset begins; it covers its cores'. -/
def clusterReset (s : State) (cl : BitVec 6) : State :=
  if (s.cluster cl).rst.isSome then rstBusy s
  else
    let s := haltForReset s cl
    let s := (enabledList s cl).foldl (fun s p => (leaveXlt s ⟨cl, p⟩).modCore ⟨cl, p⟩ fun c => { beginReset c with rst := none }) s
    s.modCluster cl fun c => { c with rst := some s.ts }

/-- A register command acts on a cluster's die only while that has power (R442). -/
def dieLives (s : State) (cl : BitVec 6) : Bool := !s.boot.offDie.contains (dieCd cl)

/-- CLUSTER_WARM_RESET (R529). -/
def execClusterWarmReset (ag : RegAgent) (cl : BitVec 6) (s : State) : Out :=
  .next (withReg s ag Reg.gctlRstCluster fun s => if dieLives s cl then clusterReset s cl else s)
/-- CORE_WARM_RESET (R293, R529). -/
def execCoreWarmReset (ag : RegAgent) (cl : BitVec 6) (pos : BitVec 8) (s : State) : Out :=
  .next (withReg s ag Reg.gctlRstCore fun s => if dieLives s cl then coreReset s ⟨cl, pos⟩ else s)

/-! ### What is dropped (R293, R294, R513) -/

/-- Writes of a core that no answer has acknowledged, oldest first in each buffer: destination, line, CTX and address. -/
def unacked (c : CoreSt) : List (Dest × Nat × Ctx × Word) :=
  (c.sb.filter (·.kind != .marker)).map (fun e => (e.dest, e.pa / 64, e.ctx, e.va)) ++
    c.cb.map (fun l => (l.dest, l.line, l.ctx, l.va)) ++
    c.lmv.flatMap fun e => match e.2 with
      | some m => if m.out then ((List.range m.count).filter fun b => !m.done.getLsbD b).map fun b =>
          (Dest.device, 0, m.ctx, m.va + BitVec.ofNat 64 (64 * b)) else []
      | none => []

/-- The DROPPED crumb of a core for its dropped writes; a line of a line move names device memory and home slice 0 (log entry 49). -/
def dropCrumb (s : State) (core : CoreId) (l : List (Dest × Nat × Ctx × Word)) (moves : Bool) : State :=
  match l with
  | [] => s
  | (d, line, ctx, va) :: _ =>
    let (k, n) := match d with
      | .device => (0, if moves then 0 else (homeOf s.mem line).toNat)
      | .fabric r => (1, r.toNat)
      | .bus => (2, 0)
    writeCrumb s (srcId (dieCd core.cl) core.cl.toNat 0) 0x03 0 ctx (n * 65536 + l.length % 65536)
      (core.pos ++ BitVec.ofNat 4 k ++ va.extractLsb' 0 52) s.ts

/-- A core forgets its buffers and line moves: answers that still come find nothing. -/
def forgetBuffers (s : State) (core : CoreId) : State :=
  let s := s.modCore core fun c => { c with sb := [], cb := [], lmv := [], pend := none }
  let s := s.modCluster core.cl fun k => { k with outw := k.outw.map fun o => if o.core = core.pos then { o with src := .dropped } else o }
  let mine := fun x : PktSrc => match x with
    | .load c => c == core
    | .lmv c _ _ => c == core
    | _ => false
  let s := s.modFab fun f => { f with sent := f.sent.map fun e => { e with srcs := e.srcs.filter fun x => !mine x } }
  s.modSvp fun v => { v with reqs := v.reqs.map fun r => if (r.src.map mine).getD false then { r with src := none } else r }

/-- What is left of a core's writes is dropped, with one crumb. -/
def dropCore (s : State) (core : CoreId) : State :=
  let c := s.core core
  let onlyMoves := c.cb.isEmpty && c.sb.all (·.kind == .marker)
  forgetBuffers (dropCrumb s core (unacked c) onlyMoves) core

/-- The warm reset of a core or of its cluster has run for so many ticks. -/
def resetFor (s : State) (core : CoreId) (ticks : Nat) : Bool :=
  match (s.cluster core.cl).rst, (s.core core).rst with
  | some t, _ => since s t ticks
  | none, some t => since s t ticks
  | none, none => false

/-- WARM_RESET_DRAIN_TIMEOUT: 2 µs after the reset's start (R293, R294). -/
def execWarmResetDrainTimeout (cl : BitVec 6) (pos : BitVec 8) (s : State) : Out :=
  .next (whileRunning s fun s =>
    if resetFor s ⟨cl, pos⟩ (2 * Config.usTicks) && !(s.cluster cl).isolated then dropCore s ⟨cl, pos⟩ else s)

/-! ### The end (R221, R257, R509) -/

/-- A core's buffers have drained: nothing left, and no line of a move that was sent lacks its answer. -/
def drainedCore (c : CoreSt) : Bool :=
  c.sb.isEmpty && c.cb.isEmpty && c.lmv.all fun e => match e.2 with
    | some m => (m.sent &&& ~~~m.done) == 0
    | none => true

/-- The L1, the victim cache and the instruction cache are invalidated (R221). -/
def invalidateCore (c : CoreSt) : CoreSt := { c with l1 := [], victim := [], ic := [], fetched := none, rsv := none, rst := none }

/-- A core's warm reset ends. -/
def endCoreReset (s : State) (core : CoreId) : State := (dropCore s core).modCore core invalidateCore

/-- Nothing is under way between a cluster and the homes. -/
def clusterSettled (s : State) (cl : BitVec 6) : Bool :=
  let c := s.cluster cl
  c.wb.isEmpty && c.miss.isEmpty && c.outw.all (fun o => o.dest != .device) &&
    !(s.net.any fun m => m.src == .cluster cl || m.dst == .cluster cl) && !(s.retried.any fun m => m.src == .cluster cl) &&
    s.mem.homes.all fun h => !(h.2.txns.any fun t => t.req.src == .cluster cl || t.wait.contains cl || t.fdtWait.contains cl) &&
      !(h.2.queue.any fun q => q.msg.src == .cluster cl) && !(h.2.reclaim.any (·.1 == cl)) && !(h.2.vic.any fun m => m.src == .cluster cl)

/-- The homes forget a cluster whose dirty lines have been written back: steps 1, 2 and 4 of R256 without poisoning (R257). -/
def forgetAtHomes (s : State) (cl : BitVec 6) : State :=
  (List.range 256).foldl (fun s i =>
    let h := BitVec.ofNat 8 i
    (dirOf s.mem h).foldl (reclaimEntry h cl false) (discardRequests s h cl)) s

/-- The L2 and every L1 of a cluster are invalidated (R221). -/
def invalidateCluster (s : State) (cl : BitVec 6) : State :=
  (mapCores s cl fun _ c => invalidateCore c).modCluster cl fun c => { c with l2 := [], rst := none }

/-- A cluster's warm reset ends: its L2 writes back every dirty line, the homes forget it, and its stores are invalidated; where that is not
done within 2 µs of the drain, the cluster is isolated instead (R221, R257). -/
def endClusterReset (s : State) (cl : BitVec 6) (t : Stamp) : State :=
  let cores := enabledList s cl
  if !cores.all fun p => drainedCore (s.core ⟨cl, p⟩) then s
  else if clusterSettled s cl then
    let s := cores.foldl (fun s p => dropCore s ⟨cl, p⟩) s
    invalidateCluster (forgetAtHomes (writeBackAll s cl) cl) cl
  else if since s t (4 * Config.usTicks) then
    isolate ((cores.foldl (fun s p => dropCore s ⟨cl, p⟩) s).modCluster cl fun c => { c with rst := none }) cl
  else s

/-- One crumb for all that an isolated cluster's cores still held: the core with the oldest, and the number of all. -/
def dropIsolated (s : State) (cl : BitVec 6) : State :=
  let cores := enabledList s cl
  let all := cores.flatMap fun p => unacked (s.core ⟨cl, p⟩)
  let holder := (cores.find? fun p => !(unacked (s.core ⟨cl, p⟩)).isEmpty).getD 0
  let c := s.core ⟨cl, holder⟩
  let s := dropCrumb s ⟨cl, holder⟩ all (c.cb.isEmpty && c.sb.all (·.kind == .marker))
  cores.foldl (fun s p => forgetBuffers s ⟨cl, p⟩) s

/-- What the return of an isolated cluster clears in a core (R509). -/
def returnCore (c : CoreSt) : CoreSt :=
  { invalidateCore c with
    k := (default : CoreSt).k, rxP := [], rxN := [], flyP := [], flyN := [], crN := 8, crP := 8, backN := 0, backP := 0, strDone := 0 }

/-- An isolated cluster returns to service through a warm reset: its buffers are discarded, its stores, TLB and token block cleared, its PLL
restarts at step 0, and ISOLATED clears (R509). It waits for the reclaims of its lines. -/
def returnCluster (s : State) (cl : BitVec 6) : State :=
  if s.mem.homes.any fun h => h.2.reclaim.any (·.1 == cl) then s
  else
    let s := mapCores (dropIsolated s cl) cl fun _ c => returnCore c
    let s := s.modCluster cl fun c => { c with
      l2 := [], wb := [], miss := [], outw := [], vicUsed := [], tlb := [], tokq := [], tokHeld := []
      pll := .running, step := 0, idleTs := none, isolated := false, rst := none }
    raiseAt s (dieCd cl) cl.toNat 0x33 0 0

/-- WARM_RESET_DONE of a core, or of a cluster (R221, R509, R529). -/
def execWarmResetDone (cl : BitVec 6) (core : Bool) (pos : BitVec 8) (s : State) : Out :=
  .next (whileRunning s fun s =>
    let runs := (s.cluster cl).pll == .running
    if core then
      if (s.core ⟨cl, pos⟩).rst.isSome && runs && drainedCore (s.core ⟨cl, pos⟩) then endCoreReset s ⟨cl, pos⟩ else s
    else match (s.cluster cl).rst with
      | none => s
      | some t => if (s.cluster cl).isolated then returnCluster s cl else if runs then endClusterReset s cl t else s)

end Sys2Proof.Machine
end

