-- ==== Sys2Proof/Machine/RegBus.lean ====
section
/-! DEFINITION. Register writes (R437 to R452): sequence-clear, guarded and pending fields, the registers that are commands, the update
strobes with the refusals of their blocks, the vote of triplicated fields, counter resets, and the I3C target (R535). -/

namespace Sys2Proof.Machine

/-! ### Sequence-clear (R448) -/

/-- A write to a sequence-clear register: it clears every flag when its upper half is SEQ; otherwise it is stale. -/
def sqcWrite (s : State) (off : Nat) (v : BitVec 32) : State :=
  let cur := s.reg off
  if v.extractLsb' 16 16 = cur.extractLsb' 16 16 then s.setReg off (cur &&& 0xFFFF0000)
  else
    let s := (s.bump Reg.gctlStaleClr 1).setReg Reg.gctlStaleAddr (w32 off)
    if off = Reg.gctlStat then s else s.setFlag Reg.gctlStat 2

/-! ### Pending values (R443 to R445) -/

/-- A strobe has been written and not applied. -/
def strobeWaits (s : State) (n : Nat) : Bool := (strobesPending s).getLsbD n

/-- A value pends for its strobe; one that comes after the strobe write waits for the next application. -/
def pendWrite (s : State) (off n : Nat) (v : BitVec 32) : State :=
  s.modRegs fun r =>
    if strobeWaits s n then { r with late := mset r.late off (some v) } else { r with pend := mset r.pend off (some v) }

/-- Strobes are written: with those they merge with they apply at one common edge (R444, R445); strobe 15 sets nothing pending (R443). -/
def strobeSet (s : State) (set : BitVec 16) : State :=
  let m := set &&& 0x7FFF
  if m = 0 then s
  else s.modRegs fun r =>
    let hit := r.strobes.filter fun g => g &&& m != 0
    { r with strobes := r.strobes.filter (fun g => g &&& m == 0) ++ [hit.foldl (· ||| ·) m] }

/-- A plain write: RW bits at once, RWP bits pending. -/
def plainWrite (s : State) (off : Nat) (i : RegInfo) (v : BitVec 32) : State :=
  let s := if i.rw = 0 then s else s.setReg off ((s.reg off &&& ~~~i.rw) ||| (v &&& i.rw))
  if i.rwp = 0 then s else pendWrite s off i.strobe (v &&& i.rwp)

/-! ### Registers that are commands -/

/-- GCTL (R444, R447, R540, R541). -/
def cmdGctl (s : State) (ag : RegAgent) (o : Nat) (v : BitVec 32) : Option State :=
  if 0x40 ≤ o ∧ o < 0x80 then some (if v.getLsbD 0 then strobeSet s (1#16 <<< ((o - 0x40) / 4)) else s)
  else match o with
  | 0x00 => some (unlock s ag (v.extractLsb' 0 16))
  | 0x0C => some (strobeSet s (v.extractLsb' 0 16))
  | 0x104 =>
    let cl := v.extractLsb' 0 6
    some (if v.getLsbD 6 && dieLives s cl then clusterReset s cl else s)
  | 0x108 =>
    let cl := v.extractLsb' 8 6
    some (if v.getLsbD 14 && dieLives s cl then coreReset s ⟨cl, v.extractLsb' 0 8⟩ else s)
  | 0x118 => some (wdogWrite s v)
  | 0x11C => some (wdogKick s ag v)
  | _ => none

/-- FCL_LP_RD: a value from the present one to FCL_LP_WR (R522). -/
def lpRdWrite (s : State) (v : BitVec 32) : State :=
  if (v - s.reg Reg.fclLpRd).toNat ≤ (s.reg Reg.fclLpWr - s.reg Reg.fclLpRd).toNat then s.setReg Reg.fclLpRd v else s

/-- FCL (R522). -/
def cmdFcl (s : State) (o : Nat) (v : BitVec 32) : Option State :=
  match o with
  | 0x34 => some (crumbRdWrite s v)
  | 0x40 => some (demote s (v.getLsbD 16) (v.extractLsb' 0 16))
  | 0x84 => some (lpRdWrite s v)
  | _ => none

/-- PWR: FWCTL takes effect at once, RELEASE is a command, the rest pends (R489, R496, R501). -/
def cmdPwr (s : State) (o : Nat) (v : BitVec 32) : Option State :=
  match o with
  | 0x0C => some (pendWrite (setFwctl s (v.getLsbD 0)) Reg.pwrCtl 4 (v &&& 2))
  | 0x10 => some (pendWrite (if v.getLsbD 17 then releaseAll s else s) Reg.pwrProof 4 (v &&& 0x1FFFF))
  | _ => none

/-- CAL (R539). -/
def cmdCal (s : State) (o : Nat) (v : BitVec 32) : Option State := if o = 0x14 then some (calWinWrite s v) else none

/-- HPT (R412, R414, R423). -/
def cmdHpt (s : State) (o : Nat) (v : BitVec 32) : Option State :=
  match o with
  | 0x24 =>
    let op := v.extractLsb' 16 2
    some (if frozen s || !(op == 1 || op == 2) then s else hptBias s (op == 2) (v.extractLsb' 0 9).toNat)
  | 0x44 =>
    let op := v.extractLsb' 0 2
    some (if op == 1 || op == 2 then hwinCmd s (op == 1) (v.getLsbD 2) else s)
  | _ => none

/-- SVP (R426, R427, R435). -/
def cmdSvp (s : State) (o : Nat) (v : BitVec 32) : Option State :=
  match o with
  | 0x04 => some (slotCtlWrite s v)
  | 0x14 => some (svpCfgAddrWrite s v)
  | _ => none

/-- RESUME and ABORT (R342); a stopped PLL restarts for a resumed core (R59). -/
def launchCmd (s : State) (v : BitVec 32) : State :=
  let lseq := v.extractLsb' 14 16
  let cl := v.extractLsb' 8 6
  let pos := v.extractLsb' 0 8
  match (v.extractLsb' 30 2).toNat with
  | 1 =>
    let t := launchResume s lseq cl pos
    if (t.core ⟨cl, pos⟩).st = .running ∧ (s.core ⟨cl, pos⟩).st = .waiting then startPll t cl else t
  | 2 => launchAbort s lseq cl
  | _ => s

/-- DSP (R350). -/
def cmdDsp (s : State) (o : Nat) (v : BitVec 32) : Option State :=
  if 0x1000 ≤ o ∧ o < 0x2000 then some (doorbell s (BitVec.ofNat 10 ((o - 0x1000) / 4)) v)
  else if 0x2000 ≤ o ∧ o < 0x2400 then some (evRdWrite s (BitVec.ofNat 8 ((o - 0x2000) / 4)) v)
  else match o with
  | 0x10 =>
    let ring := v.extractLsb' 0 10
    some (match (v.extractLsb' 16 2).toNat with
      | 1 => if dspStopped s then s else ringEnable s ring
      | 2 => if frozen s then s else ringDisable s ring
      | _ => s)
  | 0x18 => some (if frozen s then s else launchCmd s v)
  | _ => none

/-- XLT (R325). -/
def cmdXlt (s : State) (o : Nat) (v : BitVec 32) : Option State :=
  match o with
  | 0x114 => some (fqRdWrite s v)
  | 0x20C =>
    let op := v.extractLsb' 0 2
    some (if frozen s || !(op == 1 || op == 2) then s else resolve s (op == 2))
  | 0x310 => some (if frozen s then s else invCmd s (v.extractLsb' 0 2).toNat)
  | 0x404 => some (ownTagWrite s v)
  | _ => none

/-- FAB (R397). -/
def cmdFab (s : State) (o : Nat) (v : BitVec 32) : Option State :=
  if o < 0xC000 ∧ o % 0x1000 = 0 then
    some (pendWrite (if v.getLsbD 1 && !frozen s then retrainCmd s (BitVec.ofNat 4 (o / 0x1000)) else s) (0x0B0000 + o) 9 (v &&& 1))
  else match o with
  | 0xC020 => some (if v.getLsbD 0 && !frozen s then tabInv s else s)
  | 0xC028 => some (if frozen s then s else deadClr s (v.getLsbD 16) (v.extractLsb' 0 16))
  | _ => none

/-- PRZ (R398). -/
def cmdPrz (s : State) (o : Nat) (v : BitVec 32) : Option State :=
  if o = 0x08 then
    let t := v.extractLsb' 0 6
    some (match (v.extractLsb' 16 2).toNat with
      | 1 => if frozen s then s else treeLoad s t
      | 2 => if frozen s then s else treeUnload s t
      | _ => s)
  else none

/-- D2D_Ln_CTL: RESET on either side; RETRAIN and EN on the IOD (R461, R472, R473). -/
def cmdD2d (s : State) (off : Nat) (v : BitVec 32) : Option State :=
  match d2dPlace off with
  | none => none
  | some (n, side) =>
    if off % 0x1000 ≠ 0 then none
    else
      let s := if v.getLsbD 2 then endReset s n else s
      some (match side with
        | none => pendWrite (if v.getLsbD 1 then startHandshake s n else s) off 13 (v &&& 1)
        | some _ => s)

/-- The decompressors' and the range engines' commands of a base die (R211, R219). -/
def cmdMbd (s : State) (die : Bool) (o : Nat) (v : BitVec 32) : Option State :=
  if 0x40100 ≤ o ∧ o < 0x40100 + 0x20 * 33 ∧ (o - 0x40100) % 0x20 = 0x10 then
    some (rmCmd s die ((o - 0x40100) / 0x20) (rmOpOf (v.extractLsb' 0 2)))
  else if o = 0x90008 then some (if v.getLsbD 0 then dcxInv s die else s)
  else none

/-- The effect of a write to a register that is a command; none for any other register. -/
def cmdWrite (s : State) (ag : RegAgent) (off : Nat) (v : BitVec 32) : Option State :=
  match cmdD2d s off v with
  | some t => some t
  | none =>
    let o := off % 0x10000
    match barRow off with
    | some 1 => cmdGctl s ag o v
    | some 3 => cmdFcl s o v
    | some 4 => cmdPwr s o v
    | some 5 => cmdCal s o v
    | some 6 => cmdHpt s o v
    | some 8 => cmdSvp s o v
    | some 9 => cmdDsp s o v
    | some 10 => cmdXlt s o v
    | some 11 => cmdFab s o v
    | some 12 => cmdPrz s o v
    | some 14 => cmdMbd s false (off % 0x100000) v
    | some 15 => cmdMbd s true (off % 0x100000) v
    | _ => none

/-! ### Counter resets (R451) -/

/-- Clear every counter, and so every overflow bit, of a row of the BAR0 map. -/
def cntReset (s : State) (row : Nat) : State :=
  s.modRegs fun r => { r with cnt := r.cnt.filter fun e => barRow e.1 != some row }

/-! ### Guarded registers (R446, R447) -/

/-- What a G1 register does with a value that its complement has accepted. -/
def g1Accept (s : State) (a : Nat) (v : BitVec 32) : State :=
  match d2dPlace a with
  | some (n, side) =>
    match a % 0x1000 with
    | 0x0C => if v.getLsbD 0 then linkHold s n else linkRelease s n
    | 0x60 => testMode s n (d2dFarEnd n side) (a - 0x58) (v.extractLsb' 2 2)
    | _ => s.setReg a (v &&& (((regInfo a).map (·.rw)).getD 0))
  | none =>
    if a = Reg.gctlCntReset then cntReset (s.setReg a (v &&& 0x1F)) (v.extractLsb' 0 5).toNat
    else if a = Reg.fclSafeEn then s.modRegs fun r => { r with safeEn := tri ((v &&& 0x1F) ||| 0x10) }
    else s

/-- What a G2 register does with an accepted value. -/
def g2Accept (off : Nat) (i : RegInfo) (v : BitVec 32) (s : State) : State :=
  if off = Reg.gctlColdRst then (if v.getLsbD 0 then coldReset s .gctl else s)
  else if off = Reg.calCmd then
    match (v.extractLsb' 0 2).toNat with
    | 1 => calCommit s
    | 2 => calReload s
    | _ => s
  else plainWrite s off i v

/-! ### A write -/

/-- One write as its register takes it, by its access code (R13). -/
def writeReg (s : State) (ag : RegAgent) (off : Nat) (v : BitVec 32) : State :=
  match regInfo off with
  | none => s
  | some i =>
    if i.sqc then sqcWrite s off v
    else if i.g1 then g1First s ag off v
    else if g1Second off then g1Complement s ag off v g1Accept
    else if i.g2 then g2Write s ag (g2Accept off i v)
    else (cmdWrite s ag off v).getD (plainWrite s off i v)

/-- A register write of an agent: at an offset that no block occupies, or that is not aligned, the host receives UR and the others' write is
discarded (R415, R438, R442). -/
def regWrite (s : State) (ag : RegAgent) (off : Nat) (v : BitVec 32) : State :=
  withReg s ag off fun s =>
    if off % 4 ≠ 0 ∨ (barRow off).isNone then (if ag == .host then sendUr s else s) else writeReg s ag off v

/-- REGISTER_WRITE (R441). -/
def execRegisterWrite (ag : RegAgent) (off : BitVec 26) (v : BitVec 32) (s : State) : Out := .next (regWrite s ag off.toNat v)
/-- STROBE_WRITE: GCTL_STROBEn (R444). -/
def execStrobeWrite (ag : RegAgent) (n : BitVec 4) (go : Bool) (s : State) : Out :=
  .next (regWrite s ag (Reg.gctlStrobe + 4 * n.toNat) (if go then 1 else 0))
/-- STROBE_SET: GCTL_STROBE_SET (R444). -/
def execStrobeSet (ag : RegAgent) (set : BitVec 16) (s : State) : Out := .next (regWrite s ag Reg.gctlStrobeSet (set.setWidth 32))

/-- The register at an offset has an access code. -/
def isCode (f : RegInfo → Bool) (off : Nat) : Bool := ((regInfo off).map f).getD false

/-- G1_FIRST_WRITE: a write to the first word of a G1 register (R446). -/
def execG1FirstWrite (ag : RegAgent) (off : BitVec 26) (v : BitVec 32) (s : State) : Out :=
  .next (if isCode (·.g1) off.toNat then regWrite s ag off.toNat v else s)
/-- G1_COMPLEMENT_WRITE: a write to the second word of a G1 register (R446). -/
def execG1ComplementWrite (ag : RegAgent) (off : BitVec 26) (v : BitVec 32) (s : State) : Out :=
  .next (if g1Second off.toNat then regWrite s ag off.toNat v else s)
/-- SQC_CLEAR_WRITE: a write to a sequence-clear register (R448). -/
def execSqcClearWrite (ag : RegAgent) (off : BitVec 26) (v : BitVec 32) (s : State) : Out :=
  .next (if isCode (·.sqc) off.toNat then regWrite s ag off.toNat v else s)
/-- GCTL_CNT_RESET: both words of a G1 write of ROW (R446, R451). -/
def execGctlCntReset (ag : RegAgent) (row : BitVec 5) (s : State) : Out :=
  .next (regWrite (regWrite s ag Reg.gctlCntReset (row.setWidth 32)) ag (Reg.gctlCntReset + 4) (~~~(row.setWidth 32)))

/-! ### The application of a strobe (R433, R443 to R445, R479) -/

/-- The order that PWR_PRIO takes: the default where the written one does not name each domain once (R479). -/
def prioTake (s : State) (v : BitVec 32) : State :=
  let f := fun lo : Nat => (v.extractLsb' lo 2).toNat
  let good := f 0 ≠ 3 ∧ f 2 ≠ 3 ∧ f 4 ≠ 3 ∧ f 0 ≠ f 2 ∧ f 0 ≠ f 4 ∧ f 2 ≠ f 4
  if good then s.setReg Reg.pwrPrio (v &&& 0x3F) else pwrFlag (s.setReg Reg.pwrPrio 0x24) 9

/-- A pending value comes into force. -/
def applyWord (s : State) (off : Nat) (v : BitVec 32) : State :=
  if off = Reg.pwrLimSust then s.modRegs fun r => { r with limSust := tri v }
  else if off = Reg.pwrLimPeak then s.modRegs fun r => { r with limPeak := tri v }
  else if off = Reg.apwWinEn then s.modRegs fun r => { r with winEn := tri v }
  else if off = Reg.pwrPrio then prioTake s v
  else
    let m := ((regInfo off).map (·.rwp)).getD 0
    let s := s.setReg off ((s.reg off &&& ~~~m) ||| (v &&& m))
    if barRow off = some 11 ∧ off % 0x10000 < 0xC000 then portEnable s (BitVec.ofNat 4 (off % 0x10000 / 0x1000)) (v.getLsbD 0) else s

/-- The register at an offset subscribes to a strobe. -/
def subscribes (n : Nat) (off : Nat) : Bool := isCode (fun i => i.rwp != 0 && i.strobe == n) off

/-- The values that pend for a strobe. -/
def pendingOf (s : State) (n : Nat) : List (Nat × BitVec 32) :=
  s.regs.pend.filterMap fun e => if subscribes n e.1 then e.2.map fun v => (e.1, v) else none

/-- Every subscriber of a strobe takes its pending values, which pend no more. -/
def applyAll (s : State) (n : Nat) : State :=
  let s := (pendingOf s n).foldl (fun s e => applyWord s e.1 e.2) s
  s.modRegs fun r => { r with pend := r.pend.filter fun e => !subscribes n e.1 }

/-- Values that came after the strobe write pend for its next application. -/
def lateToPend (s : State) (n : Nat) : State :=
  s.modRegs fun r => { r with
    pend := (r.late.filter fun e => subscribes n e.1).foldl (fun m e => mset m e.1 e.2) r.pend
    late := r.late.filter fun e => !subscribes n e.1 }

/-- Everything that decides how window n maps. -/
def winFields (s : State) (n : Nat) : Bool × List (BitVec 32) :=
  (winOn s n, [0x00, 0x04, 0x08, 0x0C, 0x10].map fun w => s.reg (Reg.apwWin n w))

/-- A device physical range lies in one tier or in packed space (R433). -/
def rangeOk (m : MemSt) (base size : Nat) : Bool :=
  [Tier.near, .far, .packed].any fun t => decide (tierBase t ≤ base ∧ base + size ≤ tierBase t + tierLimit m t)

/-- The enabled windows are sound: BASE and BUS multiples of S, a range in one tier, no bus ranges that overlap (R433). -/
def winsOk (s : State) : Bool :=
  (List.range 4).all fun n => !winOn s n ||
    (decide (winBase s n % winSize s n = 0) && decide (winBus s n % winSize s n = 0) && rangeOk s.mem (winBase s n) (winSize s n) &&
      (List.range 4).all fun k => k == n || !winOn s k ||
        decide (winBus s n + winSize s n ≤ winBus s k) || decide (winBus s k + winSize s k ≤ winBus s n))

/-- GEN of a window advances. -/
def genUp (s : State) (n : Nat) : State := s.modSvp fun v => { v with gen := mset v.gen n (mgetD 0 v.gen n + 1) }

/-- The aperture's strobe: all windows together, or nothing and BADCFG (R433). -/
def applyApw (s : State) : State :=
  if (pendingOf s 12).isEmpty then s
  else
    let t := applyAll s 12
    if winsOk t then (List.range 4).foldl (fun u n => if winFields s n == winFields t n then u else genUp u n) t
    else s.setFlag Reg.apwStat 2

/-- The dispatcher's strobe: while any ring is enabled it withholds the table bases and sets RINGERR (R350). -/
def applyDsp (s : State) : State := if s.dsp.rings.any (·.2.on) then ringErr s else applyAll s 8

/-- One strobe is applied. -/
def applyStrobe (s : State) (n : Nat) : State :=
  lateToPend (if n = 12 then applyApw s else if n = 8 then applyDsp s else applyAll s n) n

/-- STROBE_APPLY: a written strobe, with those that share its edge, is applied; their bits of GCTL_PEND clear (R444). -/
def execStrobeApply (n : BitVec 4) (s : State) : Out :=
  .next (
    if s.boot.inReset then s
    else match s.regs.strobes.find? fun g => g.getLsbD n.toNat with
      | none => s
      | some g =>
        let s := ((List.range 15).filter fun k => g.getLsbD k).foldl applyStrobe s
        s.modRegs fun r => { r with strobes := r.strobes.filter (· != g) })

/-! ### Triplicated fields (R449) -/

/-- The outcome of a comparison of three copies: a correction, no majority, or agreement. -/
def voteOf {α : Type} [DecidableEq α] (t : Tri α) (safe : α) : Tri α × Option Bool :=
  match vote3 t with
  | some v => (tri v, if t.a = v ∧ t.b = v ∧ t.c = v then none else some true)
  | none => (tri safe, some false)

/-- What a comparison reports: a correction is counted, flagged and a notice; no majority is flagged and severe. -/
def voteNote (s : State) (o : Option Bool) : State :=
  match o with
  | none => s
  | some true => raise ((s.bump Reg.gctlVote 1).setFlag Reg.gctlStat 3) 0x20
  | some false => raise (s.setFlag Reg.gctlStat 4) 0x21

/-- Three copies of a word after upsets. -/
def upset3 (t : Tri (BitVec 32)) (u0 u1 u2 : BitVec 32) : Tri (BitVec 32) := ⟨t.a ^^^ u0, t.b ^^^ u1, t.c ^^^ u2⟩

/-- Every G1 sequence abandoned, every G2 lock closed: the safe value of the guard state. -/
def guardSafe : GuardSt := default

/-- One agent's guard after an upset: bit 0 abandons its G1 sequence, bit 1 turns its lock over (log entry 52). -/
def upsetGuard (now : Stamp) (u : BitVec 2) (g : Guard) : Guard :=
  { g1 := if u.getLsbD 0 then none else g.g1
    open_ := if u.getLsbD 1 then (if g.open_.isSome then none else some now) else g.open_ }

/-- A copy of the guard state after an upset, two bits an agent. -/
def upsetCopy (now : Stamp) (u : BitVec 32) (x : GuardSt) : GuardSt :=
  { host := upsetGuard now (u.extractLsb' 0 2) x.host
    mgc := upsetGuard now (u.extractLsb' 2 2) x.mgc
    test := upsetGuard now (u.extractLsb' 4 2) x.test
    i3c := upsetGuard now (u.extractLsb' 6 2) x.i3c }

/-- TRIPLICATE_VOTE: the copies of a field, with the given bits upset, are compared at a slow-clock edge (R449). -/
def execTriplicateVote (f : TriField) (u0 u1 u2 : BitVec 32) (s : State) : Out :=
  .next (
    if s.boot.inReset then s
    else match f with
    | .safeEn =>
      let (t, o) := voteOf (upset3 s.regs.safeEn u0 u1 u2) 0x1F
      voteNote (s.modRegs fun r => { r with safeEn := t }) o
    | .limSust =>
      let (t, o) := voteOf (upset3 s.regs.limSust u0 u1 u2) 2400
      voteNote (s.modRegs fun r => { r with limSust := t }) o
    | .limPeak =>
      let (t, o) := voteOf (upset3 s.regs.limPeak u0 u1 u2) 3000
      voteNote (s.modRegs fun r => { r with limPeak := t }) o
    | .winEn =>
      let (t, o) := voteOf (upset3 s.regs.winEn u0 u1 u2) 0
      let s := s.modRegs fun r => { r with winEn := t }
      voteNote (if o = some false then (List.range 4).foldl genUp s else s) o
    | .guard =>
      let g := s.regs.guard
      let c := fun (u : BitVec 32) (x : GuardSt) => upsetCopy s.ts u x
      let (t, o) := voteOf ⟨c u0 g.a, c u1 g.b, c u2 g.c⟩ guardSafe
      voteNote (s.modRegs fun r => { r with guard := t }) o)

/-! ### The I3C target (R535) -/

/-- Little-endian word of four bytes. -/
def i3cWord (b : List (BitVec 8)) : BitVec 32 := w32 (bytesNat (b.take 4))

/-- A private write: 8 bytes write a register, 4 bytes hold an offset, anything else is discarded. -/
def i3cTake (s : State) (b : List (BitVec 8)) : State :=
  let s := s.modRegs fun r => { r with i3cOff := none }
  let off := i3cWord b
  if off.toNat % 4 ≠ 0 then s
  else if b.length = 8 then regWrite s .i3c off.toNat (i3cWord (b.drop 4))
  else if b.length = 4 then s.modRegs fun r => { r with i3cOff := some off }
  else s

/-- A private read: 4 bytes of the register at the held offset; 0 for any other transfer. -/
def i3cGive (s : State) (len : Nat) : State :=
  let held := s.regs.i3cOff
  let s := s.modRegs fun r => { r with i3cOff := none }
  match held with
  | some off => if len = 4 then regRead s .i3c off.toNat else noteRead s .i3c off.toNat 0
  | none => noteRead s .i3c 0 0

/-- I3C_WRITE: the target answers from the end of boot step 0x02 (R535). -/
def execI3cWrite (bytes : List (BitVec 8)) (s : State) : Out :=
  .next (if s.boot.inReset || !s.boot.i3cUp then s else i3cTake s bytes)
/-- I3C_READ: a write of an offset, then a read; with no bytes, a read after an earlier write of one. -/
def execI3cRead (bytes : List (BitVec 8)) (len : Nat) (s : State) : Out :=
  .next (if s.boot.inReset || !s.boot.i3cUp then s else i3cGive (if bytes.isEmpty then s else i3cTake s bytes) len)

end Sys2Proof.Machine
end

