-- ==== Sys2Proof/Machine/Clock.lean ====
section
/-! DEFINITION. One slow cycle, 20 ns (R11, R525): TS64, the watchdog's count, and the work that goes on by itself once nothing holds it.
It is what a step on an empty queue does (log entry 2). -/

namespace Sys2Proof.Machine

/-! ### TS64 (R377, R525) -/

/-- A follower that was more than 10 µs ahead counts at half rate until it is within 10 µs, and corrects the rest by its rate: at half rate
the offset shrinks by the ticks counted since the exchange. -/
def settleRate (s : State) : State :=
  let left : Int := s.fab.ofs + 250 * ((s.ts - s.fab.tsyTs).toNat : Int)
  if s.tsRate = .half ∧ -10000000 ≤ left then
    let p : Int := (min (Config.tsPpm left) 100 : Nat)
    { s with tsRate := .ppm (-p) }
  else s

/-- Millionths of a tick that a slow cycle counts. -/
def slowMillionths (r : TsRate) : Nat :=
  match r with
  | .nominal => Config.slowTicks * 1000000
  | .half => Config.slowTicks * 500000
  | .ppm p => ((Config.slowTicks : Int) * (1000000 + p)).toNat

/-- TS64 counts one slow cycle. -/
def countTs (s : State) : State :=
  let n := slowMillionths s.tsRate + s.tsFrac
  { s with ts := s.ts + BitVec.ofNat 64 (n / 1000000), tsFrac := n % 1000000 }

/-! ### What goes on by itself -/

/-- The watchdog counts down (R541). -/
def countWdog (s : State) : State := if wdogOn s then s.modBoot fun b => { b with wdog := b.wdog - 1 } else s

/-- The stop conditions of each cluster's PLL are looked at (R58). -/
def noteIdles (s : State) : State := s.clus.foldl (fun s e => noteIdle s (BitVec.ofNat 6 e.1)) s

/-- Every tree's collective goes on (R385 to R392). -/
def przAll (s : State) : State := s.prz.trees.foldl (fun s e => przAdvance s (BitVec.ofNat 6 e.1)) s

/-- Everything that waited for a line, a credit or a rail and can now go on. -/
def goOn (s : State) : State := hwinGo (jobsGo (pumpFlows (przPump (przAll (d3Stop (takeWants (noteIdles s)))))))

/-- One slow cycle. Before the always-on PLL has locked nothing counts; in cold reset only TS64; in the safe state TS64 and the watchdog. -/
def slowCycle (s : State) : State :=
  if !s.aonUp then s
  else
    let s := countTs (settleRate s)
    if s.boot.inReset then s
    else
      let s := countWdog s
      if frozen s then s else goOn s

end Sys2Proof.Machine
end

