-- ==== Sys2Proof/Machine/CoreCtl.lean ====
section
/-! DEFINITION. Branches and jumps (R83, R84), system instructions (R32, R110), status words (R99, R136, R171). -/

namespace Sys2Proof.Machine

/-- The target of a branch from its own address (R83). -/
def branchTo (pc : Word) (imm : BitVec 22) : Word := pc + (imm.signExtend 64 <<< 2)

/-- br: pc := pc + 4 × sext(imm22) (R83). -/
def execBr (w : Who) (imm : BitVec 22) (s : State) : Out :=
  .next (issue s w (encB w 0x18 imm) 4 true fun s => s.modCore w.core fun c => { c with pc := branchTo c.pc imm })
/-- bl: s31 := pc + 4, then as br (R83). -/
def execBl (w : Who) (imm : BitVec 22) (s : State) : Out :=
  .next (issue s w (encB w 0x19 imm) 4 true fun s =>
    s.modCore w.core fun c => { c.setS 31 (c.pc + 4) with pc := branchTo c.pc imm })

/-- A jump: a target that is not 4-byte aligned raises 0x02 with the target as data address, and writes nothing (R83,
R84). -/
def jump (s : State) (w : Who) (word : Word) (legal : Bool) (a : BitVec 5) (f : CoreSt → CoreSt) : State :=
  issue s w word 4 legal fun s =>
    let t := (s.core w.core).rs a
    if t.extractLsb' 0 2 ≠ 0 then raiseExc s w.core excMisaligned t word
    else s.modCore w.core fun c => { f c with pc := t }

/-- jr: pc := a; D and B must be 0 (R83). -/
def execJr (w : Who) (d a b : BitVec 5) (s : State) : Out :=
  .next (jump s w (encR w 0x1A d a b 0x00) (d == 0 && b == 0) a fun c => c)
/-- jlr: t := a; d := pc + 4; pc := t; B must be 0 (R83). -/
def execJlr (w : Who) (d a b : BitVec 5) (s : State) : Out :=
  .next (jump s w (encR w 0x1A d a b 0x01) (b == 0) a fun c => c.setS d (c.pc + 4))

/-- nop; D, A and B must be 0 (R110). -/
def execNop (w : Who) (d a b : BitVec 5) (s : State) : Out :=
  .next (coreOp s w (encR w 0x00 d a b 0x00) 4 (d == 0 && a == 0 && b == 0) fun c => c)

/-- The end of a core's part in its launch: Idle, combining lines sent, reservation cleared (R46, R57, R95, R280). -/
def endPart (c : CoreSt) : CoreSt := flushMark { c.adv 4 with st := .idle, rsv := none, fetched := none }

/-- end: retires only after every line move has completed; until then it is issued again (R46, R106, R110). -/
def execEndCore (w : Who) (d a b : BitVec 5) (s : State) : Out :=
  .next (issue s w (encR w 0x00 d a b 0x01) 4 (d == 0 && a == 0 && b == 0) fun s =>
    if noMoves (s.core w.core) then s.modCore w.core endPart else s)

/-- A status word: fsr, vsw, fns, tks (R99). -/
def statusWord (c : CoreSt) (i : BitVec 5) : Word :=
  match i.toNat with
  | 0 => c.fsr.setWidth 64
  | 1 => c.vsw.setWidth 64
  | 2 => (BitVec.ofBool c.fns).setWidth 64
  | _ => (BitVec.ofBool c.tks).setWidth 64

/-- A status word with its sticky bits cleared (R99). -/
def clearStatus (i : BitVec 5) (c : CoreSt) : CoreSt :=
  match i.toNat with
  | 0 => { c with fsr := 0 }
  | 1 => { c with vsw := 0 }
  | 2 => { c with fns := false }
  | _ => { c with tks := false }

/-- stw.rd: d := word w; w from 4 to 31 is not defined, B must be 0 (R99). -/
def execStwRd (w : Who) (d a b : BitVec 5) (s : State) : Out :=
  .next (coreOp s w (encR w 0x00 d a b 0x02) 4 (decide (a.toNat < 4) && b == 0) fun c => c.setS d (statusWord c a))
/-- stw.rdc: copies word w and clears its sticky bits in the same step (R99). -/
def execStwRdc (w : Who) (d a b : BitVec 5) (s : State) : Out :=
  .next (coreOp s w (encR w 0x00 d a b 0x03) 4 (decide (a.toNat < 4) && b == 0) fun c =>
    clearStatus a (c.setS d (statusWord c a)))

/-- The value of a system register, from R32; none for a number that is not defined. cyc is a free value (log entry 21). -/
def sysReg (s : State) (core : CoreId) (n : Nat) : Option Word :=
  let c := s.core core
  let r := ((s.cluster core.cl).run).getD default
  match n with
  | 0x000 => some ((core.cl.setWidth 64 <<< 8) ||| core.pos.setWidth 64)
  | 0x001 => some (BitVec.ofNat 64 (logicalIndex s core.cl core.pos.toNat))
  | 0x002 => some (BitVec.ofNat 64 (enabledCount s core.cl))
  | 0x003 => some (BitVec.ofNat 64 r.nrun)
  | 0x004 => some (BitVec.ofNat 64 r.gidx)
  | 0x005 => some (BitVec.ofNat 64 r.gsize)
  | 0x006 => some (r.ctx.setWidth 64)
  | 0x007 => some r.arg
  | 0x008 => some (r.lseq.setWidth 64)
  | 0x009 => some s.ts
  | 0x00A => some (Config.coreCycles s.free)
  | 0x00B => some (BitVec.ofNat 64 (fmaxOf s core))
  | 0x00C => some (c.ovf.setWidth 64)
  | 0x00D => some (c.xcfg.setWidth 64)
  | n => if 0x100 ≤ n ∧ n < 0x400 then some (BitVec.ofNat 64 (sizeWord s (n - 0x100))) else none

/-- sys.rd: d := system register; A must be 0; an undefined number raises 0x03 (R32, R74, R110). -/
def execSysRd (w : Who) (d a : BitVec 5) (imm : BitVec 12) (s : State) : Out :=
  .next (issue s w (encI w 0x01 d a imm) 4 (a == 0) fun s =>
    match sysReg s w.core imm.toNat with
    | none => raiseExc s w.core excSysreg 0 (encI w 0x01 d a imm)
    | some v => ((s.draw).2).modCore w.core fun c => (c.setS d v).adv 4)

/-- sys.wr: only xcfg is writable, and governs the next instruction; D must be 0 (R32, R110). -/
def execSysWr (w : Who) (d a : BitVec 5) (imm : BitVec 12) (s : State) : Out :=
  .next (issue s w (encI w 0x02 d a imm) 4 (d == 0) fun s =>
    if imm = 0x00D then s.modCore w.core fun c => { c.adv 4 with xcfg := (c.rs a).extractLsb' 0 5 }
    else raiseExc s w.core excSysreg 0 (encI w 0x02 d a imm))

/-- brk: breakpoint, which has completed when the core waits (R65, R110); D and A must be 0. -/
def execBrk (w : Who) (d a : BitVec 5) (imm : BitVec 12) (s : State) : Out :=
  .next (issue s w (encI w 0x0D d a imm) 4 (d == 0 && a == 0) fun s =>
    (raiseExc s w.core excBreak 0 (encI w 0x0D d a imm)).modCore w.core fun c => c.adv 4)

end Sys2Proof.Machine
end

