-- ==== Sys2Proof/Machine/CoreFp.lean ====
section
/-! DEFINITION. Scalar floating point (R80, R81). -/

namespace Sys2Proof.Machine

/-- The format of a precision Q (R80). -/
def fmtQ (q : Bool) : Fmt := if q then fmtF32 else fmtF64
/-- The operand bits of a precision. -/
def bitsQ (q : Bool) (v : Word) : Nat := if q then v.toNat % 2 ^ 32 else v.toNat
/-- The value of a scalar register in a precision. -/
def valQ (q : Bool) (v : Word) : Fp := decodeFp (fmtQ q) (bitsQ q v)
/-- FN of a scalar float operation: FN[6:3] operation, FN[2] Q, FN[1:0] RM. -/
def fpFn (sel : BitVec 4) (q : Bool) (rm : BitVec 2) : BitVec 7 := sel ++ BitVec.ofBool q ++ rm
/-- Round to a precision with the scalar unit's rules: subnormals kept, default NaN (R81). -/
def roundQ (q : Bool) (rm : BitVec 2) (x : Fp) : Nat × Flags := roundFp (fmtQ q) (.mode rm) false .ieee .either x

/-- A scalar float instruction: its flags are sticky, and an enabled one traps after the result is written (R81). -/
def fpOp (s : State) (w : Who) (sel : BitVec 4) (d a b : BitVec 5) (q : Bool) (rm : BitVec 2) (legal : Bool)
    (f : CoreSt → CoreSt × Flags) : State :=
  let word := encR w 0x0E d a b (fpFn sel q rm)
  issue s w word 4 legal fun s =>
    let (c, fl) := f (s.core w.core)
    let s := s.setCore w.core (c.addFsr fl)
    (trapIf s w.core fl word).modCore w.core fun c => c.adv 4

/-- A result of two operands in d. -/
def fpArith (s : State) (w : Who) (sel : BitVec 4) (d a b : BitVec 5) (q : Bool) (rm : BitVec 2) (legal : Bool)
    (op : Fp → Fp → Fp × Flags) : State :=
  fpOp s w sel d a b q rm legal fun c =>
    let (x, f1) := op (valQ q (c.rs a)) (valQ q (c.rs b))
    let (v, f2) := roundQ q rm x
    (c.setS d (BitVec.ofNat 64 v), f1 ||| f2)

/-- A compare into a predicate; RM must be 0b00 (R80). -/
def fpCompare (s : State) (w : Who) (sel : BitVec 4) (d a b : BitVec 5) (q : Bool) (rm : BitVec 2) (signals : Bool)
    (rel : Fp → Fp → Bool) : State :=
  fpOp s w sel d a b q rm (rm == 0 && isPred d) fun c =>
    let x := valQ q (c.rs a)
    let y := valQ q (c.rs b)
    let bad := if signals then isNan x || isNan y else isSig x || isSig y
    (c.setP (predOf d) (rel x y), sigFlag bad)

/-- fadd (R80). -/
def execFadd (w : Who) (d a b : BitVec 5) (q : Bool) (rm : BitVec 2) (s : State) : Out :=
  .next (fpArith s w 0x0 d a b q rm true (addFp (rm == 3)))
/-- fsub (R80). -/
def execFsub (w : Who) (d a b : BitVec 5) (q : Bool) (rm : BitVec 2) (s : State) : Out :=
  .next (fpArith s w 0x1 d a b q rm true fun x y => addFp (rm == 3) x (negFp y))
/-- fmul (R80). -/
def execFmul (w : Who) (d a b : BitVec 5) (q : Bool) (rm : BitVec 2) (s : State) : Out :=
  .next (fpArith s w 0x2 d a b q rm true mulFp)
/-- fdiv (R80). -/
def execFdiv (w : Who) (d a b : BitVec 5) (q : Bool) (rm : BitVec 2) (s : State) : Out :=
  .next (fpArith s w 0x3 d a b q rm true divFp)
/-- fsqrt; B must be 0 (R80). -/
def execFsqrt (w : Who) (d a b : BitVec 5) (q : Bool) (rm : BitVec 2) (s : State) : Out :=
  .next (fpArith s w 0x4 d a b q rm (b == 0) fun x _ => sqrtFp x)
/-- fmin; RM must be 0b00 (R80). -/
def execFmin (w : Who) (d a b : BitVec 5) (q : Bool) (rm : BitVec 2) (s : State) : Out :=
  .next (fpArith s w 0x5 d a b q rm (rm == 0) minFp)
/-- fmax; RM must be 0b00 (R80). -/
def execFmax (w : Who) (d a b : BitVec 5) (q : Bool) (rm : BitVec 2) (s : State) : Out :=
  .next (fpArith s w 0x6 d a b q rm (rm == 0) maxFp)
/-- fmac: d := round(a × b + d), one rounding (R80). -/
def execFmac (w : Who) (d a b : BitVec 5) (q : Bool) (rm : BitVec 2) (s : State) : Out :=
  .next (fpOp s w 0x7 d a b q rm true fun c =>
    let (x, f1) := fmaFp (rm == 3) (valQ q (c.rs a)) (valQ q (c.rs b)) (valQ q (c.rs d))
    let (v, f2) := roundQ q rm x
    (c.setS d (BitVec.ofNat 64 v), f1 ||| f2))
/-- fcmp.eq, quiet (R80). -/
def execFcmpEq (w : Who) (d a b : BitVec 5) (q : Bool) (rm : BitVec 2) (s : State) : Out :=
  .next (fpCompare s w 0x8 d a b q rm false eqFp)
/-- fcmp.lt, signalling (R80). -/
def execFcmpLt (w : Who) (d a b : BitVec 5) (q : Bool) (rm : BitVec 2) (s : State) : Out :=
  .next (fpCompare s w 0x9 d a b q rm true ltFp)
/-- fcmp.le, signalling (R80). -/
def execFcmpLe (w : Who) (d a b : BitVec 5) (q : Bool) (rm : BitVec 2) (s : State) : Out :=
  .next (fpCompare s w 0xA d a b q rm true fun x y => ltFp x y || eqFp x y)
/-- fcmp.un, quiet (R80). -/
def execFcmpUn (w : Who) (d a b : BitVec 5) (q : Bool) (rm : BitVec 2) (s : State) : Out :=
  .next (fpCompare s w 0xB d a b q rm false fun x y => isNan x || isNan y)
/-- fcvt.fi: to a signed 64-bit integer; B must be 0 (R80, R81). -/
def execFcvtFi (w : Who) (d a b : BitVec 5) (q : Bool) (rm : BitVec 2) (s : State) : Out :=
  .next (fpOp s w 0xC d a b q rm (b == 0) fun c =>
    let (v, f) := toInt (.mode rm) (-(2 ^ 63)) (2 ^ 63 - 1) (valQ q (c.rs a))
    (c.setS d (BitVec.ofInt 64 v), f))
/-- fcvt.if: from a signed 64-bit integer; B must be 0 (R80). -/
def execFcvtIf (w : Who) (d a b : BitVec 5) (q : Bool) (rm : BitVec 2) (s : State) : Out :=
  .next (fpOp s w 0xD d a b q rm (b == 0) fun c =>
    let (v, f) := roundQ q rm (ofInt (c.rs a).toInt)
    (c.setS d (BitVec.ofNat 64 v), f))
/-- fcvt.ff: from the other precision to precision Q; B must be 0 (R80). -/
def execFcvtFf (w : Who) (d a b : BitVec 5) (q : Bool) (rm : BitVec 2) (s : State) : Out :=
  .next (fpOp s w 0xE d a b q rm (b == 0) fun c =>
    let x := valQ (!q) (c.rs a)
    let (v, f) := roundQ q rm x
    (c.setS d (BitVec.ofNat 64 v), sigFlag (isSig x) ||| f))

end Sys2Proof.Machine
end

