-- ==== Sys2Proof/Machine/CoreInt.lean ====
section
/-! DEFINITION. Integer, immediate, constant, compare and predicate-logic instructions (R78, R79, R82). -/

namespace Sys2Proof.Machine

/-! ### Operations on 64-bit values (R78) -/

/-- Leading zero bits of the low n bits, from bit n − 1 down. -/
def clzN (v : Nat) : Nat → Nat
  | 0 => 0
  | n + 1 => if v.testBit n then 0 else 1 + clzN v n
/-- Trailing zero bits, at most n. -/
def ctzN (v : Nat) : Nat → Nat
  | 0 => 0
  | n + 1 => if v % 2 = 1 then 0 else 1 + ctzN (v / 2) n
/-- Signed minimum and maximum. -/
def smin (a b : Word) : Word := if a.toInt < b.toInt then a else b
def smax (a b : Word) : Word := if a.toInt < b.toInt then b else a
/-- Unsigned minimum and maximum. -/
def umin (a b : Word) : Word := if a.toNat < b.toNat then a else b
def umax (a b : Word) : Word := if a.toNat < b.toNat then b else a
/-- High 64 bits of the signed product. -/
def mulHigh (a b : Word) : Word := BitVec.ofInt 64 (a.toInt * b.toInt / 2 ^ 64)
/-- High 64 bits of the unsigned product. -/
def mulHighU (a b : Word) : Word := BitVec.ofNat 64 (a.toNat * b.toNat / 2 ^ 64)
/-- Signed division rounded toward zero, with the stated corners. -/
def divS (a b : Word) : Word :=
  if b = 0 then BitVec.allOnes 64
  else if a = 0x8000000000000000 ∧ b = BitVec.allOnes 64 then a
  else BitVec.ofInt 64 (a.toInt.tdiv b.toInt)
/-- Unsigned division. -/
def divU (a b : Word) : Word := if b = 0 then BitVec.allOnes 64 else BitVec.ofNat 64 (a.toNat / b.toNat)
/-- Signed remainder. -/
def remS (a b : Word) : Word :=
  if b = 0 then a
  else if a = 0x8000000000000000 ∧ b = BitVec.allOnes 64 then 0
  else BitVec.ofInt 64 (a.toInt.tmod b.toInt)
/-- Unsigned remainder. -/
def remU (a b : Word) : Word := if b = 0 then a else BitVec.ofNat 64 (a.toNat % b.toNat)
/-- Shifts by b[5:0]. -/
def shl (a b : Word) : Word := a <<< (b.toNat % 64)
def shrU (a b : Word) : Word := a >>> (b.toNat % 64)
def shrS (a b : Word) : Word := a.sshiftRight (b.toNat % 64)
/-- Insert a 16-bit constant at a bit position (R79). -/
def insert16 (v : Word) (imm : BitVec 16) (bit : Nat) : Word :=
  (v &&& ~~~(0xFFFF#64 <<< bit)) ||| (imm.setWidth 64 <<< bit)

/-! ### Register operations (R78) -/

/-- add: d := a + b (R78). -/
def execAdd (w : Who) (d a b : BitVec 5) (s : State) : Out :=
  .next (regOp s w 0x04 0x00 d a b true (fun a b => a + b))
/-- sub: d := a - b (R78). -/
def execSub (w : Who) (d a b : BitVec 5) (s : State) : Out :=
  .next (regOp s w 0x04 0x01 d a b true (fun a b => a - b))
/-- and (R78). -/
def execAnd (w : Who) (d a b : BitVec 5) (s : State) : Out :=
  .next (regOp s w 0x04 0x02 d a b true (fun a b => a &&& b))
/-- or (R78). -/
def execOr (w : Who) (d a b : BitVec 5) (s : State) : Out :=
  .next (regOp s w 0x04 0x03 d a b true (fun a b => a ||| b))
/-- xor (R78). -/
def execXor (w : Who) (d a b : BitVec 5) (s : State) : Out :=
  .next (regOp s w 0x04 0x04 d a b true (fun a b => a ^^^ b))
/-- andn: a and not b (R78). -/
def execAndn (w : Who) (d a b : BitVec 5) (s : State) : Out :=
  .next (regOp s w 0x04 0x05 d a b true (fun a b => a &&& ~~~b))
/-- sll (R78). -/
def execSll (w : Who) (d a b : BitVec 5) (s : State) : Out :=
  .next (regOp s w 0x04 0x06 d a b true shl)
/-- srl (R78). -/
def execSrl (w : Who) (d a b : BitVec 5) (s : State) : Out :=
  .next (regOp s w 0x04 0x07 d a b true shrU)
/-- sra (R78). -/
def execSra (w : Who) (d a b : BitVec 5) (s : State) : Out :=
  .next (regOp s w 0x04 0x08 d a b true shrS)
/-- min, signed (R78). -/
def execMin (w : Who) (d a b : BitVec 5) (s : State) : Out :=
  .next (regOp s w 0x04 0x09 d a b true smin)
/-- max, signed (R78). -/
def execMax (w : Who) (d a b : BitVec 5) (s : State) : Out :=
  .next (regOp s w 0x04 0x0A d a b true smax)
/-- minu (R78). -/
def execMinu (w : Who) (d a b : BitVec 5) (s : State) : Out :=
  .next (regOp s w 0x04 0x0B d a b true umin)
/-- maxu (R78). -/
def execMaxu (w : Who) (d a b : BitVec 5) (s : State) : Out :=
  .next (regOp s w 0x04 0x0C d a b true umax)
/-- mul: low 64 bits of the product (R78). -/
def execMul (w : Who) (d a b : BitVec 5) (s : State) : Out :=
  .next (regOp s w 0x04 0x0D d a b true (fun a b => a * b))
/-- mulh (R78). -/
def execMulh (w : Who) (d a b : BitVec 5) (s : State) : Out :=
  .next (regOp s w 0x04 0x0E d a b true mulHigh)
/-- mulhu (R78). -/
def execMulhu (w : Who) (d a b : BitVec 5) (s : State) : Out :=
  .next (regOp s w 0x04 0x0F d a b true mulHighU)
/-- div (R78). -/
def execDiv (w : Who) (d a b : BitVec 5) (s : State) : Out :=
  .next (regOp s w 0x04 0x10 d a b true divS)
/-- divu (R78). -/
def execDivu (w : Who) (d a b : BitVec 5) (s : State) : Out :=
  .next (regOp s w 0x04 0x11 d a b true divU)
/-- rem (R78). -/
def execRem (w : Who) (d a b : BitVec 5) (s : State) : Out :=
  .next (regOp s w 0x04 0x12 d a b true remS)
/-- remu (R78). -/
def execRemu (w : Who) (d a b : BitVec 5) (s : State) : Out :=
  .next (regOp s w 0x04 0x13 d a b true remU)
/-- clz: 64 for 0; field B must be 0 (R78). -/
def execClz (w : Who) (d a b : BitVec 5) (s : State) : Out :=
  .next (regOp1 s w 0x04 0x14 d a b (fun a => BitVec.ofNat 64 (clzN a.toNat 64)))
/-- ctz: 64 for 0; field B must be 0 (R78). -/
def execCtz (w : Who) (d a b : BitVec 5) (s : State) : Out :=
  .next (regOp1 s w 0x04 0x15 d a b (fun a => BitVec.ofNat 64 (ctzN a.toNat 64)))
/-- popc; field B must be 0 (R78). -/
def execPopc (w : Who) (d a b : BitVec 5) (s : State) : Out :=
  .next (regOp1 s w 0x04 0x16 d a b (fun a => BitVec.ofNat 64 (popBelow a.toNat 64)))
/-- sext.8; field B must be 0 (R78). -/
def execSext8 (w : Who) (d a b : BitVec 5) (s : State) : Out :=
  .next (regOp1 s w 0x04 0x17 d a b (fun a => (a.extractLsb' 0 8).signExtend 64))
/-- sext.16; field B must be 0 (R78). -/
def execSext16 (w : Who) (d a b : BitVec 5) (s : State) : Out :=
  .next (regOp1 s w 0x04 0x18 d a b (fun a => (a.extractLsb' 0 16).signExtend 64))
/-- sext.32; field B must be 0 (R78). -/
def execSext32 (w : Who) (d a b : BitVec 5) (s : State) : Out :=
  .next (regOp1 s w 0x04 0x19 d a b (fun a => (a.extractLsb' 0 32).signExtend 64))
/-- zext.32; field B must be 0 (R78). -/
def execZext32 (w : Who) (d a b : BitVec 5) (s : State) : Out :=
  .next (regOp1 s w 0x04 0x1A d a b (fun a => (a.extractLsb' 0 32).setWidth 64))

/-! ### Immediates and constants (R79) -/

/-- addi: d := a op sext(imm12) (R79). -/
def execAddi (w : Who) (d a : BitVec 5) (imm : BitVec 12) (s : State) : Out :=
  .next (immOp s w 0x05 d a imm (fun a i => a + i))
/-- andi: d := a op sext(imm12) (R79). -/
def execAndi (w : Who) (d a : BitVec 5) (imm : BitVec 12) (s : State) : Out :=
  .next (immOp s w 0x06 d a imm (fun a i => a &&& i))
/-- ori: d := a op sext(imm12) (R79). -/
def execOri (w : Who) (d a : BitVec 5) (imm : BitVec 12) (s : State) : Out :=
  .next (immOp s w 0x07 d a imm (fun a i => a ||| i))
/-- xori: d := a op sext(imm12) (R79). -/
def execXori (w : Who) (d a : BitVec 5) (imm : BitVec 12) (s : State) : Out :=
  .next (immOp s w 0x08 d a imm (fun a i => a ^^^ i))

/-- A shift by an immediate: IMM12[11:10] selects it, IMM12[9:6] must be 0 (R79). -/
def shiftImm (s : State) (w : Who) (sel : BitVec 2) (d a : BitVec 5) (mz : BitVec 4) (sh : BitVec 6) (f : Word → Word → Word) : State :=
  coreOp s w (encI w 0x09 d a (sel ++ mz ++ sh)) 4 (mz == 0) fun c => c.setS d (f (c.rs a) (sh.setWidth 64))
/-- slli (R79). -/
def execSlli (w : Who) (d a : BitVec 5) (mz : BitVec 4) (sh : BitVec 6) (s : State) : Out :=
  .next (shiftImm s w 0 d a mz sh shl)
/-- srli (R79). -/
def execSrli (w : Who) (d a : BitVec 5) (mz : BitVec 4) (sh : BitVec 6) (s : State) : Out :=
  .next (shiftImm s w 1 d a mz sh shrU)
/-- srai (R79). -/
def execSrai (w : Who) (d a : BitVec 5) (mz : BitVec 4) (sh : BitVec 6) (s : State) : Out :=
  .next (shiftImm s w 2 d a mz sh shrS)
/-- movi: d := sext(imm17) (R79). -/
def execMovi (w : Who) (d : BitVec 5) (imm : BitVec 17) (s : State) : Out :=
  .next (coreOp s w (encK w 0x0A d imm) 4 true fun c => c.setS d (imm.signExtend 64))
/-- movk.lo: 16 bits at 0 or 16; the other bits are unchanged (R79). -/
def execMovkLo (w : Who) (d : BitVec 5) (hw : Bool) (imm : BitVec 16) (s : State) : Out :=
  .next (coreOp s w (encK w 0x0B d (BitVec.ofBool hw ++ imm)) 4 true fun c => c.setS d (insert16 (c.rs d) imm (if hw then 16 else 0)))
/-- movk.hi: 16 bits at 32 or 48; the other bits are unchanged (R79). -/
def execMovkHi (w : Who) (d : BitVec 5) (hw : Bool) (imm : BitVec 16) (s : State) : Out :=
  .next (coreOp s w (encK w 0x0C d (BitVec.ofBool hw ++ imm)) 4 true fun c => c.setS d (insert16 (c.rs d) imm (if hw then 48 else 32)))

/-! ### Compares (R82) -/

/-- cmp.eq: pD := (a eq b) (R82). -/
def execCmpEq (w : Who) (d a b : BitVec 5) (s : State) : Out :=
  .next (cmpOp s w 0x00 d a b (fun a b => a == b))
/-- cmp.ne: pD := (a ne b) (R82). -/
def execCmpNe (w : Who) (d a b : BitVec 5) (s : State) : Out :=
  .next (cmpOp s w 0x01 d a b (fun a b => a != b))
/-- cmp.lt: pD := (a lt b) (R82). -/
def execCmpLt (w : Who) (d a b : BitVec 5) (s : State) : Out :=
  .next (cmpOp s w 0x02 d a b (fun a b => decide (a.toInt < b.toInt)))
/-- cmp.ge: pD := (a ge b) (R82). -/
def execCmpGe (w : Who) (d a b : BitVec 5) (s : State) : Out :=
  .next (cmpOp s w 0x03 d a b (fun a b => decide (b.toInt ≤ a.toInt)))
/-- cmp.ltu: pD := (a ltu b) (R82). -/
def execCmpLtu (w : Who) (d a b : BitVec 5) (s : State) : Out :=
  .next (cmpOp s w 0x04 d a b (fun a b => decide (a.toNat < b.toNat)))
/-- cmp.geu: pD := (a geu b) (R82). -/
def execCmpGeu (w : Who) (d a b : BitVec 5) (s : State) : Out :=
  .next (cmpOp s w 0x05 d a b (fun a b => decide (b.toNat ≤ a.toNat)))
/-- cmpi.eq: pD := (a eq sext(imm12)) (R82). -/
def execCmpiEq (w : Who) (d a : BitVec 5) (imm : BitVec 12) (s : State) : Out :=
  .next (cmpImmOp s w 0x10 d a imm (fun a b => a == b))
/-- cmpi.ne: pD := (a ne sext(imm12)) (R82). -/
def execCmpiNe (w : Who) (d a : BitVec 5) (imm : BitVec 12) (s : State) : Out :=
  .next (cmpImmOp s w 0x11 d a imm (fun a b => a != b))
/-- cmpi.lt: pD := (a lt sext(imm12)) (R82). -/
def execCmpiLt (w : Who) (d a : BitVec 5) (imm : BitVec 12) (s : State) : Out :=
  .next (cmpImmOp s w 0x12 d a imm (fun a b => decide (a.toInt < b.toInt)))
/-- cmpi.ge: pD := (a ge sext(imm12)) (R82). -/
def execCmpiGe (w : Who) (d a : BitVec 5) (imm : BitVec 12) (s : State) : Out :=
  .next (cmpImmOp s w 0x13 d a imm (fun a b => decide (b.toInt ≤ a.toInt)))
/-- cmpi.ltu: pD := (a ltu sext(imm12)) (R82). -/
def execCmpiLtu (w : Who) (d a : BitVec 5) (imm : BitVec 12) (s : State) : Out :=
  .next (cmpImmOp s w 0x14 d a imm (fun a b => decide (a.toNat < b.toNat)))
/-- cmpi.geu: pD := (a geu sext(imm12)) (R82). -/
def execCmpiGeu (w : Who) (d a : BitVec 5) (imm : BitVec 12) (s : State) : Out :=
  .next (cmpImmOp s w 0x15 d a imm (fun a b => decide (b.toNat ≤ a.toNat)))

/-! ### Predicates (R82) -/

/-- pand (R82). -/
def execPand (w : Who) (d a b : BitVec 5) (s : State) : Out :=
  .next (predOp s w 0x00 d a b fun x y => x && y)
/-- por (R82). -/
def execPor (w : Who) (d a b : BitVec 5) (s : State) : Out :=
  .next (predOp s w 0x01 d a b fun x y => x || y)
/-- pxor (R82). -/
def execPxor (w : Who) (d a b : BitVec 5) (s : State) : Out :=
  .next (predOp s w 0x02 d a b fun x y => x ^^ y)
/-- pandn (R82). -/
def execPandn (w : Who) (d a b : BitVec 5) (s : State) : Out :=
  .next (predOp s w 0x03 d a b fun x y => x && !y)
/-- pnot: pD := not pA; B = 0 (R82). -/
def execPnot (w : Who) (d a b : BitVec 5) (s : State) : Out :=
  .next (coreOp s w (encR w 0x16 d a b 0x04) 4 (isPred d && isPred a && b == 0) fun c => c.setP (predOf d) (!c.rp (predOf a)))
/-- p.set: pD := a[0]; B = 0 (R82). -/
def execPSet (w : Who) (d a b : BitVec 5) (s : State) : Out :=
  .next (coreOp s w (encR w 0x17 d a b 0x00) 4 (isPred d && b == 0) fun c => c.setP (predOf d) ((c.rs a).getLsbD 0))
/-- p.get: d := pA, zero-extended; B = 0 (R82). -/
def execPGet (w : Who) (d a b : BitVec 5) (s : State) : Out :=
  .next (coreOp s w (encR w 0x17 d a b 0x01) 4 (isPred a && b == 0) fun c =>
    c.setS d ((BitVec.ofBool (c.rp (predOf a))).setWidth 64))
/-- All predicates, p0 as 1 (R72, R82). -/
def CoreSt.allP (c : CoreSt) : Word := (c.p ||| 1#8).setWidth 64
/-- p.all: d[7:0] := p7 to p0; A = 0, B = 0 (R82). -/
def execPAll (w : Who) (d a b : BitVec 5) (s : State) : Out :=
  .next (coreOp s w (encR w 0x17 d a b 0x02) 4 (a == 0 && b == 0) fun c => c.setS d c.allP)

end Sys2Proof.Machine
end

