-- ==== Sys2Proof/Machine/Lanes.lean ====
section
/-! DEFINITION. Lanes of tile registers (R111, R112, R114, R115, R119), element types (R117), and the checks of a tile-vector
word (R116, R118). -/

namespace Sys2Proof.Machine

/-! ### Element types (R117) -/

/-- Bytes of an element. -/
def tyBytes (ty : BitVec 4) : Nat :=
  match ty.toNat with
  | 0 => 1 | 1 => 1 | 2 => 2 | 3 => 2 | 4 => 4 | 5 => 4 | 6 => 8 | 7 => 8
  | 8 => 2 | 9 => 2 | 10 => 4 | 11 => 8 | _ => 1
/-- An integer type. -/
def tyInt (ty : BitVec 4) : Bool := decide (ty.toNat < 8)
/-- A signed integer type. -/
def tySigned (ty : BitVec 4) : Bool := tyInt ty && !ty.getLsbD 0
/-- f16, bf16, f32 or f64. -/
def tyFloat (ty : BitVec 4) : Bool := decide (8 ≤ ty.toNat ∧ ty.toNat ≤ 11)
/-- A type that arithmetic takes. -/
def tyArith (ty : BitVec 4) : Bool := decide (ty.toNat ≤ 11)
/-- A defined type. -/
def tyDefined (ty : BitVec 4) : Bool := decide (ty.toNat ≤ 13)
/-- The format of a float type. -/
def tyFmt (ty : BitVec 4) : Fmt :=
  match ty.toNat with
  | 8 => fmtF16 | 9 => fmtBf16 | 10 => fmtF32 | 11 => fmtF64 | 12 => fmtE4m3 | _ => fmtE5m2
/-- Bits of an element. -/
def tyBits (ty : BitVec 4) : Nat := 8 * tyBytes ty

/-- An encoding as the tile engines read it: the two forms of NaN are not distinguished (R153). -/
def engineFp (f : Fmt) (v : Nat) : Fp :=
  match decodeFp f v with
  | .nan _ => .nan false
  | x => x
/-- An input with FZ applied (R121). -/
def laneFp (ty : BitVec 4) (fz : Bool) (v : Nat) : Fp :=
  if fz then flushIn (tyFmt ty) (engineFp (tyFmt ty) v) else engineFp (tyFmt ty) v
/-- A float result: default NaN, FZ, IEEE overflow (R121). -/
def laneRound (ty : BitVec 4) (rm : BitVec 2) (fz : Bool) (x : Fp) : Nat × Flags :=
  roundFp (tyFmt ty) (.mode rm) fz .ieee .either x

/-- The number that an integer element is. -/
def laneInt (ty : BitVec 4) (v : Nat) : Int := if tySigned ty ∧ 2 ^ (tyBits ty - 1) ≤ v then (v : Int) - 2 ^ tyBits ty else v
/-- The range of an integer type. -/
def tyMin (ty : BitVec 4) : Int := if tySigned ty then -(2 ^ (tyBits ty - 1)) else 0
def tyMax (ty : BitVec 4) : Int := if tySigned ty then 2 ^ (tyBits ty - 1) - 1 else 2 ^ tyBits ty - 1
/-- The low bytes of a number. -/
def wrapTo (ty : BitVec 4) (v : Int) : Nat := (v % 2 ^ tyBits ty).toNat
/-- An exact integer result: wrapped, or clamped with ISAT (R122). -/
def intResult (ty : BitVec 4) (sat : Bool) (v : Int) : Nat × BitVec 8 :=
  if sat then
    if v < tyMin ty then (wrapTo ty (tyMin ty), vswISAT)
    else if tyMax ty < v then (wrapTo ty (tyMax ty), vswISAT)
    else (wrapTo ty v, 0)
  else (wrapTo ty v, 0)

/-! ### Lanes (R111, R112) -/

/-- Lane j of row r at element size e. -/
def laneGet (t : Tile) (e r j : Nat) : Nat := (t.toNat / 2 ^ (512 * r + 8 * e * j)) % 2 ^ (8 * e)
/-- A tile with one lane written. -/
def laneSet (t : Tile) (e r j v : Nat) : Tile :=
  let k := 512 * r + 8 * e * j
  (t &&& ~~~(BitVec.ofNat 8192 ((2 ^ (8 * e) - 1) * 2 ^ k))) ||| BitVec.ofNat 8192 (v % 2 ^ (8 * e) * 2 ^ k)
/-- The effective vector length (R112). -/
def vle (c : CoreSt) (e : Nat) : Nat := min c.vl (64 / e)
/-- The positions of the active area, in row-major order. -/
def activeArea (c : CoreSt) (e : Nat) : List (Nat × Nat) :=
  (List.range c.rl).flatMap fun r => (List.range (vle c e)).map fun j => (r, j)
/-- The flag of a lane (R119). -/
def laneFlag (t : Tile) (e r j : Nat) : Bool := laneGet t e r j % 2 == 1
/-- A destination lane is written: no mask, or its flag is set (R119). -/
def unmasked (c : CoreSt) (f : TvWord) (e r j : Nat) : Bool := !f.me || laneFlag (c.rt f.mt) e r j

/-- Write TD lane by lane over the active, unmasked lanes; sources are those of the core before (R114, R115, R119). -/
def overLanes (c : CoreSt) (f : TvWord) (e : Nat) (op : Nat → Nat → Nat × BitVec 8) : CoreSt :=
  let step := fun (acc : Tile × BitVec 8) (p : Nat × Nat) =>
    if unmasked c f e p.1 p.2 then
      let (v, fl) := op p.1 p.2
      (laneSet acc.1 e p.1 p.2 v, acc.2 ||| fl)
    else acc
  let (t, fl) := (activeArea c e).foldl step (c.rt f.td, 0)
  (c.setT f.td t).addVsw fl

/-! ### The word (R116, R118) -/

/-- Which fields of a tile-vector word an operation uses. -/
structure TvUse where
  ta : Bool := true
  tb : Bool := false
  tc : Bool := false
  imm : Bool := false
  rm : Bool := false
  fz : Bool := false
  sat : Bool := false
  me : Bool := true
  td : Bool := true
  ty : Bool := true

/-- A word is a defined encoding: fields not used are 0, and RM, FZ, SAT and SR fit the type (R118). SR is for vcvt alone,
which checks it itself. -/
def tvLegal (f : TvWord) (types : Bool) (u : TvUse) : Bool :=
  f.rsv == 0 && types && (u.td || f.td == 0) && (u.ta || f.ta == 0) && (u.tb || f.tb == 0) && (u.tc || f.tc == 0) &&
    (u.imm || f.imm == 0) && (u.ty || f.ty == 0) && (f.rm == 0 || (u.rm && !tyInt f.ty)) && (!f.fz || (u.fz && !tyInt f.ty)) &&
    (!f.sat || (u.sat && tyInt f.ty)) && (!f.me || u.me) && (f.me || f.mt == 0)

/-- Issue a tile-vector instruction that changes its core; an IEEE flag it sets traps after every lane is written when its
enable is set (R137). -/
def tvOp (s : State) (w : Who) (op : BitVec 6) (fn : BitVec 8) (f : TvWord) (legal : Bool) (g : CoreSt → CoreSt) : State :=
  let word := encTv w op fn f
  issue s w word 8 legal fun s =>
    let c := s.core w.core
    let d := g { c with vsw := 0 }
    let s := s.setCore w.core { d with vsw := d.vsw ||| c.vsw }
    (trapIf s w.core (ieeeBits d.vsw) word).modCore w.core fun c => c.adv 8

end Sys2Proof.Machine
end

