-- ==== Sys2Proof/Machine/VecElem.lean ====
section
/-! DEFINITION. Element-wise tile-vector operations, OP 0x38 (R120 to R123). -/

namespace Sys2Proof.Machine

/-- An element-wise operation on the lanes of TA, TB and TC. -/
def elemOp (s : State) (w : Who) (fn : BitVec 8) (f : TvWord) (types : Bool) (u : TvUse)
    (op : Nat → Nat → Nat → Nat × BitVec 8) : State :=
  let e := tyBytes f.ty
  tvOp s w 0x38 fn f (!f.sr && tvLegal f types u) fun c => overLanes c f e fun r j =>
    op (laneGet (c.rt f.ta) e r j) (laneGet (c.rt f.tb) e r j) (laneGet (c.rt f.tc) e r j)

/-- A float result with its flags in vsw (R121, R135). -/
def floatResult (f : TvWord) (x : Fp × Flags) : Nat × BitVec 8 :=
  let (v, fl) := laneRound f.ty f.rm f.fz x.1
  (v, (x.2 ||| fl).setWidth 8)
/-- A float operand. -/
def fpIn (f : TvWord) (v : Nat) : Fp := laneFp f.ty f.fz v
/-- Two-operand arithmetic: exact integers, or floats. -/
def arithLane (f : TvWord) (int : Int → Int → Int) (fp : Fp → Fp → Fp × Flags) (a b : Nat) : Nat × BitVec 8 :=
  if tyInt f.ty then intResult f.ty f.sat (int (laneInt f.ty a) (laneInt f.ty b)) else floatResult f (fp (fpIn f a) (fpIn f b))

/-- vadd (R120). -/
def execVadd (w : Who) (f : TvWord) (s : State) : Out :=
  .next (elemOp s w 0x00 f (tyArith f.ty) { tb := true, rm := true, fz := true, sat := true } fun a b _ =>
    arithLane f (fun x y => x + y) (addFp (f.rm == 3)) a b)
/-- vsub (R120). -/
def execVsub (w : Who) (f : TvWord) (s : State) : Out :=
  .next (elemOp s w 0x01 f (tyArith f.ty) { tb := true, rm := true, fz := true, sat := true } fun a b _ =>
    arithLane f (fun x y => x - y) (fun x y => addFp (f.rm == 3) x (negFp y)) a b)
/-- vmul (R120). -/
def execVmul (w : Who) (f : TvWord) (s : State) : Out :=
  .next (elemOp s w 0x02 f (tyArith f.ty) { tb := true, rm := true, fz := true, sat := true } fun a b _ =>
    arithLane f (fun x y => x * y) mulFp a b)
/-- vfma: one rounding for floats (R120). -/
def execVfma (w : Who) (f : TvWord) (s : State) : Out :=
  .next (elemOp s w 0x03 f (tyArith f.ty) { tb := true, tc := true, rm := true, fz := true, sat := true } fun a b c =>
    if tyInt f.ty then intResult f.ty f.sat (laneInt f.ty a * laneInt f.ty b + laneInt f.ty c)
    else floatResult f (fmaFp (f.rm == 3) (fpIn f a) (fpIn f b) (fpIn f c)))

/-- Minimum and maximum of two lanes (R80, R120). -/
def minLane (f : TvWord) (a b : Nat) : Nat × BitVec 8 :=
  if tyInt f.ty then (if laneInt f.ty b < laneInt f.ty a then b else a, 0) else floatResult f (minFp (fpIn f a) (fpIn f b))
def maxLane (f : TvWord) (a b : Nat) : Nat × BitVec 8 :=
  if tyInt f.ty then (if laneInt f.ty a < laneInt f.ty b then b else a, 0) else floatResult f (maxFp (fpIn f a) (fpIn f b))

/-- vmin (R120). -/
def execVmin (w : Who) (f : TvWord) (s : State) : Out :=
  .next (elemOp s w 0x04 f (tyArith f.ty) { tb := true, fz := true } fun a b _ => minLane f a b)
/-- vmax (R120). -/
def execVmax (w : Who) (f : TvWord) (s : State) : Out :=
  .next (elemOp s w 0x05 f (tyArith f.ty) { tb := true, fz := true } fun a b _ => maxLane f a b)
/-- vabs (R120, R122). -/
def execVabs (w : Who) (f : TvWord) (s : State) : Out :=
  .next (elemOp s w 0x06 f (tyArith f.ty) { fz := true, sat := true } fun a _ _ =>
    if tyInt f.ty then intResult f.ty f.sat (laneInt f.ty a).natAbs else floatResult f (absFp (fpIn f a), 0))
/-- vneg (R120, R122). -/
def execVneg (w : Who) (f : TvWord) (s : State) : Out :=
  .next (elemOp s w 0x07 f (tyArith f.ty) { fz := true, sat := true } fun a _ _ =>
    if tyInt f.ty then intResult f.ty f.sat (-(laneInt f.ty a)) else floatResult f (negFp (fpIn f a), 0))
/-- vdiv, floats only (R120). -/
def execVdiv (w : Who) (f : TvWord) (s : State) : Out :=
  .next (elemOp s w 0x08 f (tyFloat f.ty) { tb := true, rm := true, fz := true } fun a b _ =>
    floatResult f (divFp (fpIn f a) (fpIn f b)))
/-- vsqrt, floats only (R120). -/
def execVsqrt (w : Who) (f : TvWord) (s : State) : Out :=
  .next (elemOp s w 0x09 f (tyFloat f.ty) { rm := true, fz := true } fun a _ _ => floatResult f (sqrtFp (fpIn f a)))

/-- A bitwise operation on integer lanes (R120). -/
def bitLane (s : State) (w : Who) (fn : BitVec 8) (f : TvWord) (op : Nat → Nat → Nat) : State :=
  elemOp s w fn f (tyInt f.ty) { tb := true } fun a b _ => (op a b, 0)
/-- vand (R120). -/
def execVand (w : Who) (f : TvWord) (s : State) : Out := .next (bitLane s w 0x10 f fun a b => a &&& b)
/-- vor (R120). -/
def execVor (w : Who) (f : TvWord) (s : State) : Out := .next (bitLane s w 0x11 f fun a b => a ||| b)
/-- vxor (R120). -/
def execVxor (w : Who) (f : TvWord) (s : State) : Out := .next (bitLane s w 0x12 f fun a b => a ^^^ b)
/-- vandn: a and not b (R120). -/
def execVandn (w : Who) (f : TvWord) (s : State) : Out :=
  .next (bitLane s w 0x13 f fun a b => a &&& (b ^^^ (2 ^ tyBits f.ty - 1)))
/-- vsll (R120). -/
def execVsll (w : Who) (f : TvWord) (s : State) : Out :=
  .next (bitLane s w 0x14 f fun a b => a * 2 ^ (b % tyBits f.ty) % 2 ^ tyBits f.ty)
/-- vsrl (R120). -/
def execVsrl (w : Who) (f : TvWord) (s : State) : Out := .next (bitLane s w 0x15 f fun a b => a / 2 ^ (b % tyBits f.ty))
/-- vsra: copies of the sign bit, whatever the type's signedness (R120). -/
def execVsra (w : Who) (f : TvWord) (s : State) : Out :=
  .next (bitLane s w 0x16 f fun a b =>
    let n := tyBits f.ty
    let v : Int := if 2 ^ (n - 1) ≤ a then (a : Int) - 2 ^ n else a
    wrapTo f.ty (v / 2 ^ (b % n)))

/-- A compare: all ones for true, all zeros for false (R119, R120). -/
def cmpLane (s : State) (w : Who) (fn : BitVec 8) (f : TvWord) (signals : Bool) (int : Int → Int → Bool) (fp : Fp → Fp → Bool) :
    State :=
  elemOp s w fn f (tyArith f.ty) { tb := true, fz := true } fun a b _ =>
    let ones := fun t : Bool => if t then 2 ^ tyBits f.ty - 1 else 0
    if tyInt f.ty then (ones (int (laneInt f.ty a) (laneInt f.ty b)), 0)
    else
      let x := fpIn f a
      let y := fpIn f b
      (ones (fp x y), if signals && (isNan x || isNan y) then 1 else 0)
/-- vcmp.eq, quiet (R120). -/
def execVcmpEq (w : Who) (f : TvWord) (s : State) : Out :=
  .next (cmpLane s w 0x18 f false (fun x y => x == y) eqFp)
/-- vcmp.ne, quiet (R120). -/
def execVcmpNe (w : Who) (f : TvWord) (s : State) : Out :=
  .next (cmpLane s w 0x19 f false (fun x y => x != y) fun x y => !eqFp x y)
/-- vcmp.lt, signalling (R120). -/
def execVcmpLt (w : Who) (f : TvWord) (s : State) : Out :=
  .next (cmpLane s w 0x1A f true (fun x y => decide (x < y)) ltFp)
/-- vcmp.le, signalling (R120). -/
def execVcmpLe (w : Who) (f : TvWord) (s : State) : Out :=
  .next (cmpLane s w 0x1B f true (fun x y => decide (x ≤ y)) fun x y => ltFp x y || eqFp x y)
/-- vsel: a when the flag of c is 1, else b; any type (R120). -/
def execVsel (w : Who) (f : TvWord) (s : State) : Out :=
  .next (elemOp s w 0x1C f (tyDefined f.ty) { tb := true, tc := true } fun a b c => (if c % 2 = 1 then a else b, 0))
/-- vidx: the lane number, or with IMM9 = 1 the row number (R120). -/
def execVidx (w : Who) (f : TvWord) (s : State) : Out :=
  .next (tvOp s w 0x38 0x21 f (!f.sr && tvLegal f (tyInt f.ty && decide (f.imm.toNat ≤ 1)) { ta := false, imm := true }) fun c =>
    overLanes c f (tyBytes f.ty) fun r j => ((if f.imm = 0 then j else r) % 2 ^ tyBits f.ty, 0))

/-! ### Conversion (R123) -/

/-- The source type and the part selector of a vcvt. -/
def cvtSrc (f : TvWord) : BitVec 4 := f.imm.extractLsb' 0 4
def cvtQ (f : TvWord) : Nat := (f.imm.extractLsb' 4 2).toNat

/-- A float destination or source of a vcvt, 8-bit formats included. -/
def anyFloat (ty : BitVec 4) : Bool := tyDefined ty && !tyInt ty

/-- A vcvt word is a defined encoding (R118, R123): the sizes differ by 1, 2 or 4, Q is below the factor, SAT stands with an
integer narrowing, SR with a float source and a narrower float, then RM 0. -/
def cvtLegal (f : TvWord) : Bool :=
  let src := cvtSrc f
  let a := tyBytes src
  let b := tyBytes f.ty
  let factor := max a b / min a b
  tyDefined src && f.imm.extractLsb' 6 3 == 0 && decide (factor ≤ 4) && decide (cvtQ f < factor) &&
    (!f.sat || (tyInt src && tyInt f.ty && decide (b < a))) &&
    (!f.sr || (anyFloat src && anyFloat f.ty && decide (b < a) && f.rm == 0)) &&
    tvLegal f (tyDefined f.ty) { imm := true, rm := true, fz := true, sat := true }

/-- A rounded conversion to a float type: the 8-bit encodings saturate (R121, R164). -/
def cvtRound (f : TvWord) (r : Rounding) (x : Fp) : Nat × BitVec 8 :=
  let small := !tyFloat f.ty
  let (v, fl) := roundFp (tyFmt f.ty) r f.fz (if small then .saturate else .ieee) (if small then .after else .either) x
  (v, fl.setWidth 8)

/-- One converted element (R123). -/
def cvtLane (f : TvWord) (r : Rounding) (v : Nat) : Nat × BitVec 8 :=
  let src := cvtSrc f
  if tyInt src then
    if tyInt f.ty then intResult f.ty f.sat (laneInt src v)
    else cvtRound f r (ofInt (laneInt src v))
  else
    let x := laneFp src f.fz v
    if tyInt f.ty then
      let (n, fl) := toInt r (tyMin f.ty) (tyMax f.ty) x
      (wrapTo f.ty n, fl.setWidth 8)
    else cvtRound f r x

/-- The rounding of an element: RM, or its own draw of the random source (R163, log entry 22). -/
def laneRounding (free : Nat) (sr : Bool) (rm : BitVec 2) (i : Nat) : Rounding :=
  if sr then .stochastic (Config.randomDraw (free + i)) else .mode rm

/-- vcvt on the lanes of the active area at the wider size (R123). -/
def cvtLanes (free : Nat) (f : TvWord) (c : CoreSt) : CoreSt :=
  let a := tyBytes (cvtSrc f)
  let b := tyBytes f.ty
  let q := cvtQ f
  let step := fun (acc : Tile × BitVec 8) (p : Nat × Nat) =>
    let (r, j) := p
    let sj := if a < b then q * (64 / b) + j else j
    let dj := if b < a then q * (64 / a) + j else j
    if unmasked c f b r dj then
      let (v, fl) := cvtLane f (laneRounding free f.sr f.rm (64 * r + j)) (laneGet (c.rt f.ta) a r sj)
      (laneSet acc.1 b r dj v, acc.2 ||| fl)
    else acc
  let (t, fl) := (activeArea c (max a b)).foldl step (c.rt f.td, 0)
  (c.setT f.td t).addVsw fl

/-- The free values a stochastic instruction draws: one for each element (R163). -/
def spendDraws (s : State) (sr : Bool) : State := if sr then { s with free := s.free + 1024 } else s

/-- vcvt (R123). -/
def execVcvt (w : Who) (f : TvWord) (s : State) : Out :=
  .next (spendDraws (tvOp s w 0x38 0x20 f (cvtLegal f) (cvtLanes s.free f)) f.sr)

end Sys2Proof.Machine
end

