-- ==== Sys2Proof/Machine/Matrix.lean ====
section
/-! DEFINITION. The matrix engine: accumulator views (R142, R143), mma (R144 to R161), the accumulator moves (R166, R167), and
quantizing into scaled formats (R168 to R170). -/

namespace Sys2Proof.Machine

/-! ### Accumulators (R142) -/

/-- Read an accumulator tile. -/
def CoreSt.ra (c : CoreSt) (i : Nat) : Acc := (c.acc.toList[i]?).getD 0
/-- Write an accumulator tile. -/
def CoreSt.setA (c : CoreSt) (i : Nat) (v : Acc) : CoreSt := { c with acc := c.acc.setIfInBounds i v }
/-- Element j of row i in a view of n-bit elements. -/
def accGet (a : Acc) (n i j : Nat) : Nat := (a.toNat / 2 ^ (1024 * i + n * j)) % 2 ^ n
/-- An accumulator with one element written. -/
def accSet (a : Acc) (n i j v : Nat) : Acc :=
  let k := 1024 * i + n * j
  (a &&& ~~~(BitVec.ofNat 16384 ((2 ^ n - 1) * 2 ^ k))) ||| BitVec.ofNat 16384 (v % 2 ^ n * 2 ^ k)

/-! ### Formats (R144, R146) -/

/-- Elements in a tile row. -/
def fmtK (f : BitVec 4) : Nat :=
  match f.toNat with
  | 0 => 8 | 1 => 16 | 2 => 32 | 3 => 32 | 10 => 128 | 13 => 128 | _ => 64
/-- Group size of the accumulation. -/
def fmtG (f : BitVec 4) : Nat :=
  match f.toNat with
  | 0 => 1 | 1 => 1 | 2 => 16 | 3 => 16 | 4 => 16 | 5 => 16 | 11 => 16 | 12 => 64 | 13 => 128 | _ => 32
/-- An integer format. -/
def fmtInt (f : BitVec 4) : Bool := f == 0xC || f == 0xD
/-- An MX format. -/
def fmtMx (f : BitVec 4) : Bool := decide (6 ≤ f.toNat ∧ f.toNat ≤ 10)
/-- A scaled format. -/
def fmtScaled (f : BitVec 4) : Bool := fmtMx f || f == 0xB
/-- The encoding of a float format's elements. -/
def fmtEnc (f : BitVec 4) : Fmt :=
  match f.toNat with
  | 0 => fmtF64 | 1 => fmtF32 | 2 => fmtF16 | 3 => fmtBf16 | 5 => fmtE5m2 | 7 => fmtE5m2 | 8 => fmtE3m2 | 9 => fmtE2m3
  | 10 => fmtE2m1 | _ => fmtE4m3
/-- FA and FB may stand together (R146). -/
def fmtPair (a b : BitVec 4) : Bool := decide (a.toNat ≤ 13) && (a == b || (a.extractLsb' 1 3 == b.extractLsb' 1 3 &&
  (a.extractLsb' 1 3 == 2 || a.extractLsb' 1 3 == 3 || a.extractLsb' 1 3 == 4)))

/-- The bits of element k of a tile row (R145). -/
def elemBits (f : BitVec 4) (t : Tile) (row k : Nat) : Nat :=
  if fmtK f = 128 then laneGet t 1 row (k / 2) / 16 ^ (k % 2) % 16
  else if f = 8 ∨ f = 9 then laneGet t 1 row k % 64
  else laneGet t (64 / fmtK f) row k
/-- A float element's value; FZ acts on binary32 and binary64 alone (R153, R159). -/
def elemFp (f : BitVec 4) (fz : Bool) (t : Tile) (row k : Nat) : Fp :=
  let x := engineFp (fmtEnc f) (elemBits f t row k)
  if fz && decide (f.toNat ≤ 1) then flushIn (fmtEnc f) x else x
/-- An integer element's value. -/
def elemInt (f : BitVec 4) (t : Tile) (row k : Nat) : Int :=
  let n := if f = 0xD then 4 else 8
  let v := elemBits f t row k
  if 2 ^ (n - 1) ≤ v then (v : Int) - 2 ^ n else v

/-! ### Scales (R154, R155) -/

/-- Byte n of a tile in row-major order. -/
def tileByte (t : Tile) (n : Nat) : Nat := laneGet t 1 0 n
/-- An E8M0 scale (R152). -/
def e8m0 (x : Nat) : Fp := if x = 255 then .nan false else .fin false 1 ((x : Int) - 127)
/-- A UE5M3 sub-scale (R152). -/
def ue5m3 (x : Nat) : Fp :=
  if x = 255 then .nan false
  else if x < 8 then .fin false x (-17)
  else .fin false (8 + x % 8) ((x / 8 : Nat) - 18)
/-- One operand's scale for block b of a row (R154, R155). -/
def scaleOf (f : BitVec 4) (t : Tile) (base nb row b : Nat) : Fp :=
  let x := tileByte t (base + row * nb + b)
  if f = 0xB then ue5m3 x else e8m0 x
/-- The tile scale of a scale tile: bytes 1020 to 1023 (R155). -/
def tileScale (t : Tile) : Nat := tileByte t 1020 + 256 * tileByte t 1021 + 65536 * tileByte t 1022 + 16777216 * tileByte t 1023

/-! ### Accumulation (R156 to R160) -/

/-- floor(log2 |p|) of a finite non-zero product. -/
def expOf : Fp → Option Int
  | .fin _ m e => if m = 0 then none else some (e + m.log2)
  | _ => none
/-- A finite product truncated toward zero to a multiple of 2^q, as that multiple. -/
def truncAt (q : Int) : Fp → Int
  | .fin neg m e =>
    let n : Int := if q ≤ e then (m * 2 ^ (e - q).toNat : Nat) else (m / 2 ^ (q - e).toNat : Nat)
    if neg then -n else n
  | _ => 0
/-- Every product is −0. -/
def allNegZero (ps : List Fp) : Bool := ps.all fun p => match p with
  | .fin true 0 _ => true
  | _ => false

/-- The sum of a group's products (R156, R158). -/
def groupSum (ps : List (Fp × Flags)) : Fp × Flags :=
  let fl := ps.foldl (fun f p => f ||| p.2) (0 : Flags)
  let xs := ps.map (·.1)
  if xs.any isNan then (.nan false, fl)
  else if xs.any (· == .inf false) then (if xs.any (· == .inf true) then (.nan false, fl ||| flagNV) else (.inf false, fl))
  else if xs.any (· == .inf true) then (.inf true, fl)
  else match xs, xs.filterMap expOf with
    | [x], _ => (x, fl)
    | _, [] => (.fin (allNegZero xs) 0 0, fl)
    | _, e :: es =>
      let q := es.foldl max e - 40
      let v := xs.foldl (fun n p => n + truncAt q p) 0
      (.fin (v < 0) v.natAbs q, fl)

/-- add: one rounding of acc + s under RM to the view (R157 to R159). -/
def accAdd (view : Fmt) (rm : BitVec 2) (fz : Bool) (acc : Nat) (s : Fp) : Nat × Flags :=
  let a := engineFp view acc
  let (x, f1) := addFp (rm == 3) (if fz then flushIn view a else a) s
  let (v, f2) := roundFp view (.mode rm) fz .ieee .after x
  (v, f1 ||| f2)

/-- Element (i, j) of a float mma: the groups in increasing k order (R147). -/
def mmaFloat (c : CoreSt) (f : MmaWord) (p : Fp) (i j acc : Nat) : Nat × Flags :=
  let k := fmtK f.fa
  let g := fmtG f.fa
  let nb := k / g
  let view := if f.fa = 0 then fmtF64 else fmtF32
  let ta := c.rt f.y
  let tb := if j < 16 then c.rt f.z else c.rt (f.z + 1)
  let group := fun (acc : Nat × Flags) (n : Nat) =>
    let ps := (List.range g).map fun m =>
      mulFp (elemFp f.fa f.fz ta i (n * g + m)) (elemFp f.fb f.fz tb (j % 16) (n * g + m))
    let (s, f1) := groupSum ps
    let (s, f2) :=
      if fmtScaled f.fa then
        let sa := scaleOf f.fa (c.rt f.w) (32 * f.aofs.toNat) nb i n
        let sb := scaleOf f.fa (c.rt f.sbt) (64 * f.bofs.toNat) nb j n
        if isNan sa || isNan sb then (Fp.nan false, (0 : Flags))
        else
          let (u, f3) := mulFp sa sb
          let (u, f4) := mulFp u p
          let (r, f5) := mulFp s u
          (r, f3 ||| f4 ||| f5)
      else (s, 0)
    let (v, f6) := accAdd view f.rm f.fz acc.1 s
    (v, acc.2 ||| f1 ||| f2 ||| f6)
  (List.range nb).foldl group (acc, 0)

/-- Element (i, j) of an integer mma (R156, R160). -/
def mmaInt (c : CoreSt) (f : MmaWord) (i j acc : Nat) : Nat × BitVec 8 :=
  let tb := if j < 16 then c.rt f.z else c.rt (f.z + 1)
  let s := (List.range (fmtK f.fa)).foldl (fun n k => n + elemInt f.fa (c.rt f.y) i k * elemInt f.fb tb (j % 16) k) (0 : Int)
  intResult 0x4 f.sat (laneInt 0x4 acc + s)

/-- The product of the two tile scales, rounded once to binary32 by nearest even; 1 for the other formats (R155). -/
def tileProduct (c : CoreSt) (f : MmaWord) : Fp :=
  if f.fa = 0xB then
    let x := fun t => engineFp fmtF32 (tileScale t)
    engineFp fmtF32 (roundFp fmtF32 (.mode 0) false .ieee .after (mulFp (x (c.rt f.w)) (x (c.rt f.sbt))).1).1
  else .fin false 1 0

/-- The effect of mma on its accumulator and vsw (R147, R148). -/
def mmaTile (f : MmaWord) (c : CoreSt) : CoreSt :=
  let n := if f.fa = 0 then 64 else 32
  let cols := if f.fa = 0 then 16 else 32
  let x := (f.x.extractLsb' 0 2).toNat
  let p := tileProduct c f
  let step := fun (st : Acc × BitVec 8) (ij : Nat × Nat) =>
    let old := if f.za then 0 else accGet (c.ra x) n ij.1 ij.2
    let (v, fl) := if fmtInt f.fa then mmaInt c f ij.1 ij.2 old else
      let (v, fl) := mmaFloat c f p ij.1 ij.2 old
      (v, fl.setWidth 8)
    (accSet st.1 n ij.1 ij.2 v, st.2 ||| fl)
  let (a, fl) := ((List.range 16).flatMap fun i => (List.range cols).map fun j => (i, j)).foldl step (c.ra x, 0)
  (c.setA x a).addVsw fl

/-! ### Words (R149 to R151) -/

/-- The second word of mma. -/
def encMma (w : Who) (f : MmaWord) : Word :=
  ((0#8 ++ f.fa ++ f.fb ++ f.rm ++ BitVec.ofBool f.b13 ++ BitVec.ofBool f.fz ++ BitVec.ofBool f.sat ++ BitVec.ofBool f.za ++
    f.sbt ++ f.aofs ++ f.bofs) ++ encW1 w 0x3C f.x f.y f.z f.w f.rsv)
/-- The second word of an accumulator move (R166). -/
def encAcc (w : Who) (fn : BitVec 8) (f : AccWord) : Word :=
  ((fn ++ f.fd ++ f.rm ++ BitVec.ofBool f.sr ++ BitVec.ofBool f.fz ++ f.q ++ f.lo) ++ encW1 w 0x3D f.x f.y f.z f.w f.rsv)
/-- The second word of mq (R168). -/
def encMq (w : Who) (f : MqWord) : Word :=
  ((0#8 ++ f.fd ++ f.rm ++ BitVec.ofBool f.sr ++ BitVec.ofBool f.b16 ++ BitVec.ofBool f.role ++ BitVec.ofBool f.h ++ f.q ++
    f.ofs ++ f.lo) ++ encW1 w 0x3E f.x f.y f.z f.w f.rsv)

/-- A field names an accumulator: its high bits are 0. -/
def isAcc (x : BitVec 5) : Bool := x.extractLsb' 2 3 == 0
/-- The accumulator a field names. -/
def accOf (x : BitVec 5) : Nat := (x.extractLsb' 0 2).toNat

/-- An mma is a defined encoding (R149 to R151). -/
def mmaLegal (f : MmaWord) : Bool :=
  f.rsv == 0 && !f.b13 && isAcc f.x && fmtPair f.fa f.fb && (f.fa == 0 || !f.z.getLsbD 0) &&
    (fmtScaled f.fa || (f.w == 0 && f.sbt == 0 && f.aofs == 0 && f.bofs == 0)) &&
    (!fmtInt f.fa || (f.rm == 0 && !f.fz)) && (fmtInt f.fa || !f.sat)

/-- Issue a matrix instruction; an IEEE flag it sets traps when its enable is set (R172). -/
def mxOp (s : State) (w : Who) (word : Word) (legal : Bool) (g : CoreSt → CoreSt) : State :=
  issue s w word 8 legal fun s =>
    let c := s.core w.core
    let d := g { c with vsw := 0 }
    let s := s.setCore w.core { d with vsw := d.vsw ||| c.vsw }
    (trapIf s w.core (ieeeBits d.vsw) word).modCore w.core fun c => c.adv 8

/-- mma (R147). -/
def execMma (w : Who) (f : MmaWord) (s : State) : Out := .next (mxOp s w (encMma w f) (mmaLegal f) (mmaTile f))

/-! ### Accumulator moves (R166, R167) -/

/-- The fields that acc.zero and acc.ld do not use are 0. -/
def accPlain (f : AccWord) : Bool :=
  f.rsv == 0 && f.z == 0 && f.w == 0 && f.fd == 0 && f.rm == 0 && !f.sr && !f.fz && f.q == 0 && f.lo == 0

/-- acc.zero (R166). -/
def execAccZero (w : Who) (f : AccWord) (s : State) : Out :=
  .next (mxOp s w (encAcc w 0x00 f) (accPlain f && f.y == 0 && isAcc f.x) fun c => c.setA (accOf f.x) 0)

/-- An accumulator of two tiles: row i is row i of each (R166). -/
def accOfTiles (t u : Tile) : Acc :=
  (List.range 16).foldl (fun (a : Acc) i =>
    a ||| ((t.extractLsb' (512 * i) 512).setWidth 16384 <<< (1024 * i)) ||| ((u.extractLsb' (512 * i) 512).setWidth 16384 <<< (1024 * i + 512))) 0

/-- acc.ld: tY even (R166). -/
def execAccLd (w : Who) (f : AccWord) (s : State) : Out :=
  .next (mxOp s w (encAcc w 0x01 f) (accPlain f && isAcc f.x && !f.y.getLsbD 0) fun c =>
    c.setA (accOf f.x) (accOfTiles (c.rt f.y) (c.rt (f.y + 1))))

/-- An acc.st is a defined encoding (R151, R163, R166, R167). -/
def accStLegal (f : AccWord) : Bool :=
  f.rsv == 0 && f.z == 0 && f.lo == 0 && isAcc f.y && decide (1 ≤ f.fd.toNat ∧ f.fd.toNat ≤ 5) &&
    (f.fd != 1 || (!f.x.getLsbD 0 && !f.sr)) && (decide (4 ≤ f.fd.toNat) || f.q == 0) && decide (f.q.toNat ≤ 1) &&
    (!f.sr || f.rm == 0) && (f.fd != 1 || f.w != 0 || (f.rm == 0 && !f.fz))

/-- The destination format of acc.st. -/
def accDst (fd : BitVec 4) : Fmt :=
  match fd.toNat with
  | 1 => fmtF32 | 2 => fmtF16 | 3 => fmtBf16 | 4 => fmtE4m3 | _ => fmtE5m2

/-- One converted accumulator element (R162 to R164, R167). -/
def accConvert (f : AccWord) (r : Rounding) (v : Nat) (factor : Option Nat) : Nat × Flags :=
  let small := decide (4 ≤ f.fd.toNat)
  let inp := fun v => let x := engineFp fmtF32 v; if f.fz && !small then flushIn fmtF32 x else x
  let (x, f1) := match factor with
    | some c => mulFp (inp v) (inp c)
    | none => (inp v, 0)
  let (d, f2) := roundFp (accDst f.fd) r f.fz (if small then .saturate else .ieee) .after x
  (d, f1 ||| f2)

/-- The effect of acc.st (R166, R167). -/
def accStore (free : Nat) (f : AccWord) (c : CoreSt) : CoreSt :=
  let a := c.ra (accOf f.y)
  let factor := if f.w = 0 then none else some ((c.rs f.w).toNat % 2 ^ 32)
  let e := match f.fd.toNat with
    | 1 => 4 | 2 => 2 | 3 => 2 | _ => 1
  let step := fun (st : (Tile × Tile) × Flags) (ij : Nat × Nat) =>
    let (i, j) := ij
    let v := accGet a 32 i j
    let (d, fl) := if f.fd = 1 ∧ f.w = 0 then (v, (0 : Flags)) else accConvert f (laneRounding free f.sr f.rm (32 * i + j)) v factor
    let (lo, hi) := st.1
    let ts := if e = 4 ∧ 16 ≤ j then (lo, laneSet hi 4 i (j - 16) d)
              else (laneSet lo e i (if e = 1 then 32 * f.q.toNat + j else j) d, hi)
    (ts, st.2 ||| fl)
  let ((lo, hi), fl) := ((List.range 16).flatMap fun i => (List.range 32).map fun j => (i, j)).foldl step
    ((c.rt f.x, c.rt (f.x + 1)), 0)
  let c := c.setT f.x lo
  (if e = 4 then c.setT (f.x + 1) hi else c).addVsw (fl.setWidth 8)

/-- acc.st (R166, R167). -/
def execAccSt (w : Who) (f : AccWord) (s : State) : Out :=
  .next (spendDraws (mxOp s w (encAcc w 0x02 f) (accStLegal f) (accStore s.free f)) f.sr)

/-! ### Quantizing (R168 to R170) -/

/-- An mq is a defined encoding (R151, R163, R168). -/
def mqLegal (f : MqWord) : Bool :=
  f.rsv == 0 && !f.b16 && f.lo == 0 && isAcc f.y && decide (6 ≤ f.fd.toNat ∧ f.fd.toNat ≤ 11) && (f.fd == 0xB || f.z == 0) &&
    (f.role || (!f.h && decide (f.ofs.toNat ≤ 3))) && (f.fd == 0xA || decide (f.q.toNat ≤ 1)) && (!f.sr || f.rm == 0)

/-- emax of a destination (R169). -/
def mqEmax (fd : BitVec 4) : Int :=
  match fd.toNat with
  | 6 => 8 | 7 => 15 | 8 => 4 | _ => 2

/-- A converted element under R164 or R165. -/
def mqRound (fd : BitVec 4) (r : Rounding) (x : Fp) : Nat × Flags :=
  let small := fd == 8 || fd == 9 || fd == 10
  let (v, fl) := roundFp (fmtEnc fd) r false (if small then .saturateQuiet else .saturate) .after x
  (v, if small then fl &&& flagNX else fl)

/-- The largest magnitude of some values. -/
def maxAbs (xs : List Fp) : Fp := xs.foldl (fun m x => if ltFp m (absFp x) then absFp x else m) (.fin false 0 0)
/-- A NaN or an infinity. -/
def isSpecial : Fp → Bool
  | .fin _ _ _ => false
  | _ => true

/-- An MX block: its scale byte, its elements and flags (R169). -/
def mqBlock (fd : BitVec 4) (rnd : Nat → Rounding) (xs : List Fp) : Nat × List Nat × Flags :=
  if xs.any isSpecial then (0xFF, xs.map fun _ => 0, flagNV)
  else match expOf (maxAbs xs) with
    | none => (0, xs.map fun _ => 0, 0)
    | some l =>
      let x := max (-127) (min 127 (l - mqEmax fd))
      let es := xs.zipIdx.map fun p => mqRound fd (rnd p.2) (mulFp p.1 (.fin false 1 (-x))).1
      ((x + 127).toNat, es.map (·.1), es.foldl (fun f p => f ||| p.2) 0)

/-- The smallest UE5M3 value not below m / (448 × T), with OF when it exceeds the largest (R170). -/
def subScale (m t : Fp) : Nat × Flags :=
  let big := fun x => (mulFp (mulFp (ue5m3 x) (.fin false 448 0)).1 t).1
  match (List.range 254).find? fun i => !ltFp (big (i + 1)) m with
  | some i => (i + 1, 0)
  | none => (0xFE, flagOF)

/-- A B8x2 sub-block (R170). -/
def mqSub (t : Fp) (rnd : Nat → Rounding) (xs : List Fp) : Nat × List Nat × Flags :=
  if xs.any isSpecial then (0xFF, xs.map fun _ => 0, flagNV)
  else match expOf (maxAbs xs) with
    | none => (0, xs.map fun _ => 0, 0)
    | some _ =>
      let (u, fu) := subScale (maxAbs xs) t
      let es := xs.zipIdx.map fun p => mqRound 0xB (rnd p.2) (divFp p.1 (mulFp t (ue5m3 u)).1).1
      (u, es.map (·.1), es.foldl (fun f p => f ||| p.2) fu)

/-- T is a positive, finite, normal binary32 value (R170). -/
def goodTileScale (t : Nat) : Bool := decide (2 ^ 23 ≤ t ∧ t < 255 * 2 ^ 23)

/-- Write the elements of a row from column c0 (R168). -/
def mqPut (f : MqWord) (t : Tile) (i c0 : Nat) (es : List Nat) : Tile :=
  es.zipIdx.foldl (fun t p =>
    let c := c0 + p.2
    if f.fd = 0xA then
      let b := 16 * f.q.toNat + c / 2
      let old := laneGet t 1 i b
      laneSet t 1 i b (if c % 2 = 0 then old / 16 * 16 + p.1 else old % 16 + 16 * p.1)
    else laneSet t 1 i (32 * f.q.toNat + c) p.1) t

/-- One accumulator row into the destination tile and the scale tile (R168 to R170). -/
def mqRow (free : Nat) (f : MqWord) (c : CoreSt) (st : (Tile × Tile) × Flags) (i : Nat) : (Tile × Tile) × Flags :=
  let a := c.ra (accOf f.y)
  let xs := (List.range 32).map fun j => engineFp fmtF32 (accGet a 32 i j)
  let rnd := fun n j => laneRounding free f.sr f.rm (32 * i + n + j)
  let r := if f.role then (if f.h then 16 + i else i) else i
  let base := (if f.role then 64 else 32) * f.ofs.toNat
  let q := f.q.toNat
  let byte := fun (t : Tile) (n v : Nat) => laneSet t 1 0 n v
  let ((d, sc), fl) := st
  if f.fd = 0xB then
    let tv := (c.rs f.z).toNat % 2 ^ 32
    let sub := fun xs n => if goodTileScale tv then mqSub (engineFp fmtF32 tv) (rnd n) xs else (0xFF, xs.map fun _ => 0, flagNV)
    let (u0, e0, f0) := sub (xs.take 16) 0
    let (u1, e1, f1) := sub (xs.drop 16) 16
    ((mqPut f (mqPut f d i 0 e0) i 16 e1, byte (byte sc (base + r * 4 + 2 * q) u0) (base + r * 4 + 2 * q + 1) u1), fl ||| f0 ||| f1)
  else
    let nb := if f.fd = 0xA then 4 else 2
    let (x, es, f0) := mqBlock f.fd (rnd 0) xs
    ((mqPut f d i 0 es, byte sc (base + r * nb + q) x), fl ||| f0)

/-- The effect of mq: the elements, then the scales, and T for B8x2 (R168 to R170). -/
def mqTile (free : Nat) (f : MqWord) (c : CoreSt) : CoreSt :=
  let ((d, sc), fl) := (List.range 16).foldl (mqRow free f c) ((c.rt f.x, c.rt f.w), 0)
  let tv := (c.rs f.z).toNat
  let sc := if f.fd = 0xB then
      (List.range 4).foldl (fun t k => laneSet t 1 0 (1020 + k) (tv / 256 ^ k)) sc else sc
  ((c.setT f.x d).setT f.w sc).addVsw (fl.setWidth 8)

/-- mq (R168). -/
def execMq (w : Who) (f : MqWord) (s : State) : Out :=
  .next (spendDraws (mxOp s w (encMq w f) (mqLegal f) (mqTile s.free f)) f.sr)

end Sys2Proof.Machine
end

