-- ==== Sys2Proof/Machine/VecPerm.lean ====
section
/-! DEFINITION. Permutations, scans, reductions, compaction, and the transfers with the local store and the scalar registers:
OP 0x39, 0x3A and 0x3B (R124 to R134). -/

namespace Sys2Proof.Machine

/-! ### OP 0x39 (R124 to R126) -/

/-- A permutation on the lanes of TD. -/
def permOp (s : State) (w : Who) (fn : BitVec 8) (f : TvWord) (ok : Bool) (u : TvUse) (op : CoreSt → Nat → Nat → Nat × BitVec 8) :
    State :=
  tvOp s w 0x39 fn f (!f.sr && tvLegal f (tyDefined f.ty && ok) u) fun c => overLanes c f (tyBytes f.ty) (op c)

/-- vmov (R124). -/
def execVmov (w : Who) (f : TvWord) (s : State) : Out :=
  .next (permOp s w 0x00 f true {} fun c r j => (laneGet (c.rt f.ta) (tyBytes f.ty) r j, 0))
/-- vperm: an index at or beyond VLe reads zero and sets OOR (R124, R125). -/
def execVperm (w : Who) (f : TvWord) (s : State) : Out :=
  .next (permOp s w 0x01 f true { tb := true } fun c r j =>
    let e := tyBytes f.ty
    let i := laneGet (c.rt f.tb) e r j
    if i < vle c e then (laneGet (c.rt f.ta) e r i, 0) else (0, vswOOR))
/-- vpermx: across the whole tile (R124, R125). -/
def execVpermx (w : Who) (f : TvWord) (s : State) : Out :=
  .next (permOp s w 0x02 f true { tb := true } fun c r j =>
    let e := tyBytes f.ty
    let i := laneGet (c.rt f.tb) e r j
    let l := 64 / e
    if i / l < c.rl ∧ i % l < vle c e then (laneGet (c.rt f.ta) e (i / l) (i % l), 0) else (0, vswOOR))
/-- vrot: k is IMM9[5:0] (R124). -/
def execVrot (w : Who) (f : TvWord) (s : State) : Out :=
  .next (permOp s w 0x03 f (decide (f.imm.toNat < 64)) { imm := true } fun c r j =>
    let e := tyBytes f.ty
    (laneGet (c.rt f.ta) e r ((j + f.imm.toNat) % vle c e), 0))
/-- vrotr: k is IMM9[3:0] (R124). -/
def execVrotr (w : Who) (f : TvWord) (s : State) : Out :=
  .next (permOp s w 0x04 f (decide (f.imm.toNat < 16)) { imm := true } fun c r j =>
    (laneGet (c.rt f.ta) (tyBytes f.ty) ((r + f.imm.toNat) % c.rl) j, 0))
/-- vtrans: square blocks; a source outside the active area reads zero (R126). -/
def execVtrans (w : Who) (f : TvWord) (s : State) : Out :=
  .next (permOp s w 0x05 f true {} fun c r j =>
    let e := tyBytes f.ty
    let k := if e = 8 then 8 else 16
    let sr := r / k * k + j % k
    let sj := j / k * k + r % k
    if sr < c.rl ∧ sj < vle c e then (laneGet (c.rt f.ta) e sr sj, 0) else (0, 0))
/-- vzero (R124). -/
def execVzero (w : Who) (f : TvWord) (s : State) : Out :=
  .next (permOp s w 0x06 f true { ta := false } fun _ _ _ => (0, 0))

/-! ### OP 0x3A: scans and reductions (R127 to R130) -/

/-- The operations of a scan may take the type: bitwise ones integers only (R127). -/
def scanTypes (op : BitVec 3) (ty : BitVec 4) : Bool :=
  match op.toNat with
  | 0 => tyArith ty | 1 => tyArith ty | 2 => tyArith ty
  | 3 => tyInt ty | 4 => tyInt ty | 5 => tyInt ty | _ => false

/-- The identity of an operation as an encoding (R128). -/
def scanIdentity (op : BitVec 3) (ty : BitVec 4) : Nat :=
  match op.toNat with
  | 1 => if tyInt ty then wrapTo ty (tyMin ty) else (tyFmt ty).inf true
  | 2 => if tyInt ty then wrapTo ty (tyMax ty) else (tyFmt ty).inf false
  | 3 => 2 ^ tyBits ty - 1
  | _ => 0

/-- An element as a scan takes it alone: FZ and the default NaN apply to floats. -/
def scanOne (f : TvWord) (v : Nat) : Nat × BitVec 8 :=
  if tyInt f.ty then (v, 0) else
    let (x, fl) := laneRound f.ty f.rm f.fz (laneFp f.ty f.fz v)
    (x, fl.setWidth 8)

/-- One step of a scan: float sums round at each step (R129). -/
def scanStep (op : BitVec 3) (f : TvWord) (a b : Nat) : Nat × BitVec 8 :=
  let fp := fun g : Fp → Fp → Fp × Flags =>
    let (x, f1) := g (laneFp f.ty f.fz a) (laneFp f.ty f.fz b)
    let (v, f2) := laneRound f.ty f.rm f.fz x
    (v, (f1 ||| f2).setWidth 8)
  match op.toNat with
  | 0 => if tyInt f.ty then (wrapTo f.ty (laneInt f.ty a + laneInt f.ty b), 0) else fp (addFp (f.rm == 3))
  | 1 => if tyInt f.ty then (if laneInt f.ty a < laneInt f.ty b then b else a, 0) else fp maxFp
  | 2 => if tyInt f.ty then (if laneInt f.ty b < laneInt f.ty a then b else a, 0) else fp minFp
  | 3 => (a &&& b, 0)
  | 4 => (a ||| b, 0)
  | _ => (a ^^^ b, 0)

/-- A line of elements scanned in order: starts says where a segment begins; the flags of the operations on what is written
come with it (R128, R129). -/
def scanLine (op : BitVec 3) (f : TvWord) (exc : Bool) : List (Nat × Bool) → Option (Nat × BitVec 8) → List (Nat × BitVec 8)
  | [], _ => []
  | (v, start) :: t, acc =>
    let acc := if start then none else acc
    let next := match acc with
      | none => scanOne f v
      | some (x, fl) => let (y, g) := scanStep op f x v; (y, fl ||| g)
    (if exc then acc.getD (scanIdentity op f.ty, 0) else next) :: scanLine op f exc t (some next)

/-- The lines that a scan runs along: rows, or columns (R128). -/
def scanLines (c : CoreSt) (e : Nat) (col : Bool) : List (List (Nat × Nat)) :=
  if col then (List.range (vle c e)).map fun j => (List.range c.rl).map fun r => (r, j)
  else (List.range c.rl).map fun r => (List.range (vle c e)).map fun j => (r, j)

/-- Write a list of values at a list of positions of TD. -/
def putAll (e : Nat) (acc : Tile × BitVec 8) (ps : List (Nat × Nat)) (vs : List (Nat × BitVec 8)) : Tile × BitVec 8 :=
  (ps.zip vs).foldl (fun acc x => (laneSet acc.1 e x.1.1 x.1.2 x.2.1, acc.2 ||| x.2.2)) acc

/-- The elements of a line with their segment starts: the first always starts one, a set flag of TC does with SEG (R128). -/
def scanInput (c : CoreSt) (f : TvWord) (seg : Bool) (ps : List (Nat × Nat)) : List (Nat × Bool) :=
  let e := tyBytes f.ty
  ps.zipIdx.map fun x => (laneGet (c.rt f.ta) e x.1.1 x.1.2, x.2 == 0 || (seg && laneFlag (c.rt f.tc) e x.1.1 x.1.2))

/-- A scan of TA into TD (R128). -/
def scanTile (op : BitVec 3) (f : TvWord) (col seg exc : Bool) (c : CoreSt) : CoreSt :=
  let e := tyBytes f.ty
  let go := fun acc ps => putAll e acc ps (scanLine op f exc (scanInput c f seg ps) none)
  let (t, fl) := (scanLines c e col).foldl go (c.rt f.td, 0)
  (c.setT f.td t).addVsw fl

/-- A reduction of TA into TD: the result first, zeros after it (R130). -/
def reduceTile (op : BitVec 3) (f : TvWord) (col : Bool) (c : CoreSt) : CoreSt :=
  let e := tyBytes f.ty
  let go := fun acc ps =>
    let r := (scanLine op f false (scanInput c f false ps) none).getLastD (0, 0)
    putAll e acc ps (r :: List.replicate 64 (0, 0))
  let (t, fl) := (scanLines c e col).foldl go (c.rt f.td, 0)
  (c.setT f.td t).addVsw fl

/-- FN of OP 0x3A (R127). -/
def scanFn (op : BitVec 3) (form : BitVec 2) (seg exc lo : Bool) : BitVec 8 :=
  op ++ form ++ BitVec.ofBool seg ++ BitVec.ofBool exc ++ BitVec.ofBool lo

/-- A scan or reduction: ME must be 0, RM stands only with a float sum (R118, R127). -/
def scanOp (s : State) (w : Who) (op : BitVec 3) (form : BitVec 2) (seg exc lo : Bool) (f : TvWord) (g : CoreSt → CoreSt) : State :=
  let legal := !lo && !f.sr && (!form.getLsbD 1 || (!seg && !exc)) &&
    tvLegal f (scanTypes op f.ty) { tc := seg, rm := op == 0, fz := true, me := false }
  tvOp s w 0x3A (scanFn op form seg exc lo) f legal g

/-- vscan.op.row (R128). -/
def execVscanRow (w : Who) (op : BitVec 3) (seg exc lo : Bool) (f : TvWord) (s : State) : Out :=
  .next (scanOp s w op 0 seg exc lo f (scanTile op f false seg exc))
/-- vscan.op.col (R128). -/
def execVscanCol (w : Who) (op : BitVec 3) (seg exc lo : Bool) (f : TvWord) (s : State) : Out :=
  .next (scanOp s w op 1 seg exc lo f (scanTile op f true seg exc))
/-- vred.op.row (R130). -/
def execVredRow (w : Who) (op : BitVec 3) (seg exc lo : Bool) (f : TvWord) (s : State) : Out :=
  .next (scanOp s w op 2 seg exc lo f (reduceTile op f false))
/-- vred.op.col (R130). -/
def execVredCol (w : Who) (op : BitVec 3) (seg exc lo : Bool) (f : TvWord) (s : State) : Out :=
  .next (scanOp s w op 3 seg exc lo f (reduceTile op f true))

/-! ### Compaction (R131) -/

/-- The kept elements of a list of positions, in order. -/
def keptOf (c : CoreSt) (f : TvWord) (ps : List (Nat × Nat)) : List (Nat × BitVec 8) :=
  let e := tyBytes f.ty
  (ps.filter fun p => laneFlag (c.rt f.tb) e p.1 p.2).map fun p => (laneGet (c.rt f.ta) e p.1 p.2, 0)

/-- Compact along some lines of positions: kept elements first, zeros after, and the count into TC (R131). -/
def compactTile (f : TvWord) (lines : CoreSt → List (List (Nat × Nat))) (c : CoreSt) : CoreSt :=
  let e := tyBytes f.ty
  let go := fun acc ps => putAll e acc ps (keptOf c f ps ++ List.replicate 1024 (0, 0))
  let (t, _) := (lines c).foldl go (c.rt f.td, 0)
  (c.setT f.td t).setS f.tc (BitVec.ofNat 64 (keptOf c f (activeArea c e)).length)

/-- vcomp.row (R131). -/
def execVcompRow (w : Who) (f : TvWord) (s : State) : Out :=
  .next (tvOp s w 0x3A 0xC0 f (!f.sr && tvLegal f (tyDefined f.ty) { tb := true, tc := true, me := false })
    (compactTile f fun c => scanLines c (tyBytes f.ty) false))
/-- vcomp.tile (R131). -/
def execVcompTile (w : Who) (f : TvWord) (s : State) : Out :=
  .next (tvOp s w 0x3A 0xC8 f (!f.sr && tvLegal f (tyDefined f.ty) { tb := true, tc := true, me := false })
    (compactTile f fun c => [activeArea c (tyBytes f.ty)]))

/-! ### OP 0x3B: local store (R132 to R134) -/

/-- The local-store accesses of the active, unmasked lanes: each lane and its byte offset. -/
def laneAddrs (c : CoreSt) (f : TvWord) (at_ : Nat → Nat → Nat) : List ((Nat × Nat) × Nat) :=
  let e := tyBytes f.ty
  ((activeArea c e).filter fun p => unmasked c f e p.1 p.2).map fun p => (p, at_ p.1 p.2)

/-- Issue a local-store access: 0x02 when an address operand is not a multiple of E, 0x07 when an element reaches beyond
byte 65,535, both before any access (R74, R133). -/
def tvMem (s : State) (w : Who) (fn : BitVec 8) (f : TvWord) (u : TvUse) (addrs : CoreSt → List Nat)
    (at_ : CoreSt → Nat → Nat → Nat) (g : List ((Nat × Nat) × Nat) → CoreSt → CoreSt) : State :=
  let word := encTv w 0x3B fn f
  let e := tyBytes f.ty
  issue s w word 8 (!f.sr && tvLegal f (tyDefined f.ty) u) fun s =>
    let c := s.core w.core
    match (addrs c).find? fun a => a % e ≠ 0 with
    | some a => raiseExc s w.core excMisaligned (BitVec.ofNat 64 a) word
    | none =>
      let ps := laneAddrs c f (at_ c)
      match ps.find? fun p => 65536 < p.2 + e with
      | some p => raiseExc s w.core excLsRange (BitVec.ofNat 64 p.2) word
      | none => s.modCore w.core fun c => (g ps c).adv 8

/-- Read the lanes of TD from the local store. -/
def loadLanes (f : TvWord) (ps : List ((Nat × Nat) × Nat)) (c : CoreSt) : CoreSt :=
  let e := tyBytes f.ty
  c.setT f.td (ps.foldl (fun t p => laneSet t e p.1.1 p.1.2 (rdBytes c.ls p.2 e)) (c.rt f.td))
/-- Write the lanes of TD to the local store, in row-major order (R134). -/
def storeLanes (f : TvWord) (ps : List ((Nat × Nat) × Nat)) (c : CoreSt) : CoreSt :=
  let e := tyBytes f.ty
  { c with ls := ps.foldl (fun m p => wrBytes m p.2 e (laneGet (c.rt f.td) e p.1.1 p.1.2)) c.ls }

/-- The base of vld and vst: a + sext(IMM9) × 64 as an unsigned 64-bit offset (R132). -/
def rowBase (c : CoreSt) (f : TvWord) : Nat := (c.rs f.ta + (f.imm.signExtend 64 <<< 6)).toNat
/-- The byte offset of a lane of a strided row access. -/
def rowAt (f : TvWord) (c : CoreSt) (r j : Nat) : Nat := rowBase c f + r * (c.rs f.tb).toNat + j * tyBytes f.ty
/-- The byte offset of an indexed access. -/
def indexAt (f : TvWord) (c : CoreSt) (r j : Nat) : Nat :=
  (c.rs f.ta).toNat + laneGet (c.rt f.tb) (tyBytes f.ty) r j * tyBytes f.ty

/-- vld (R132). -/
def execVld (w : Who) (f : TvWord) (s : State) : Out :=
  .next (tvMem s w 0x00 f { tb := true, imm := true } (fun c => [rowBase c f, (c.rs f.tb).toNat]) (rowAt f) (loadLanes f))
/-- vst (R132). -/
def execVst (w : Who) (f : TvWord) (s : State) : Out :=
  .next (tvMem s w 0x01 f { tb := true, imm := true } (fun c => [rowBase c f, (c.rs f.tb).toNat]) (rowAt f) (storeLanes f))
/-- vgather (R132). -/
def execVgather (w : Who) (f : TvWord) (s : State) : Out :=
  .next (tvMem s w 0x02 f { tb := true } (fun c => [(c.rs f.ta).toNat]) (indexAt f) (loadLanes f))
/-- vscatter (R132). -/
def execVscatter (w : Who) (f : TvWord) (s : State) : Out :=
  .next (tvMem s w 0x03 f { tb := true } (fun c => [(c.rs f.ta).toNat]) (indexAt f) (storeLanes f))

/-! ### Shape and scalar transfer (R112, R113, R132) -/

/-- No field but the named ones is used. -/
def noType : TvUse := { td := false, ta := false, ty := false, me := false }

/-- tv.shapei: VL from IMM9[6:0], RL from TB; any other value is illegal (R132). -/
def execTvShapei (w : Who) (f : TvWord) (s : State) : Out :=
  let vl := f.imm.toNat
  let rl := f.tb.toNat
  let ok := decide (1 ≤ vl ∧ vl ≤ 64 ∧ 1 ≤ rl ∧ rl ≤ 16)
  .next (tvOp s w 0x3B 0x04 f (!f.sr && tvLegal f ok { noType with tb := true, imm := true }) fun c => { c with vl := vl, rl := rl })
/-- A value clamped to a range. -/
def clampTo (lo hi v : Nat) : Nat := max lo (min hi v)
/-- tv.shape: each value clamped, with SHC when a clamp acts (R132, R135). -/
def execTvShape (w : Who) (f : TvWord) (s : State) : Out :=
  .next (tvOp s w 0x3B 0x05 f (!f.sr && tvLegal f true { noType with ta := true }) fun c =>
    let a := c.rs f.ta
    let vl := (a.extractLsb' 0 7).toNat
    let rl := (a.extractLsb' 8 5).toNat
    let d := { c with vl := clampTo 1 64 vl, rl := clampTo 1 16 rl }
    if d.vl ≠ vl ∨ d.rl ≠ rl then d.addVsw vswSHC else d)
/-- tv.getshape (R132). -/
def execTvGetshape (w : Who) (f : TvWord) (s : State) : Out :=
  .next (tvOp s w 0x3B 0x06 f (!f.sr && tvLegal f true { noType with td := true }) fun c =>
    c.setS f.td (BitVec.ofNat 64 (c.vl + 256 * c.rl)))

/-- The lane and row that a scalar names: b[5:0] and b[11:8] (R132). -/
def laneOf (b : Word) : Nat × Nat := ((b.extractLsb' 8 4).toNat, (b.extractLsb' 0 6).toNat)

/-- vext: an index out of range reads zero and sets OOR (R125, R132). -/
def execVext (w : Who) (f : TvWord) (s : State) : Out :=
  .next (tvOp s w 0x3B 0x08 f (!f.sr && tvLegal f (tyDefined f.ty) { tb := true, me := false }) fun c =>
    let e := tyBytes f.ty
    let (r, j) := laneOf (c.rs f.tb)
    if r < c.rl ∧ j < vle c e then
      let v := laneGet (c.rt f.ta) e r j
      c.setS f.td (if tySigned f.ty then sext64 (8 * e) v else BitVec.ofNat 64 v)
    else (c.setS f.td 0).addVsw vswOOR)
/-- vins: an index out of range writes nothing and sets OOR (R125, R132). -/
def execVins (w : Who) (f : TvWord) (s : State) : Out :=
  .next (tvOp s w 0x3B 0x09 f (!f.sr && tvLegal f (tyDefined f.ty) { tb := true }) fun c =>
    let e := tyBytes f.ty
    let (r, j) := laneOf (c.rs f.tb)
    if r < c.rl ∧ j < vle c e then
      if unmasked c f e r j then c.setT f.td (laneSet (c.rt f.td) e r j (c.rs f.ta).toNat) else c
    else c.addVsw vswOOR)
/-- vbcast (R132). -/
def execVbcast (w : Who) (f : TvWord) (s : State) : Out :=
  .next (tvOp s w 0x3B 0x0A f (!f.sr && tvLegal f (tyDefined f.ty) {}) fun c =>
    overLanes c f (tyBytes f.ty) fun _ _ => ((c.rs f.ta).toNat % 2 ^ tyBits f.ty, 0))

end Sys2Proof.Machine
end

