-- ==== Sys2Proof/Machine/Dispatch.lean ====
section
/-! DEFINITION. The dispatch: one arm per command, each one direct call of its meaning. -/

namespace Sys2Proof.Machine

def exec (i : Instr) (s : State) : Host.Outcome State Fault Refusal :=
  match i with
  | .nop w d a b => Sys2Proof.Machine.execNop w d a b s
  | .endCore w d a b => Sys2Proof.Machine.execEndCore w d a b s
  | .stwRd w d a b => Sys2Proof.Machine.execStwRd w d a b s
  | .stwRdc w d a b => Sys2Proof.Machine.execStwRdc w d a b s
  | .sysRd w d a imm => Sys2Proof.Machine.execSysRd w d a imm s
  | .sysWr w d a imm => Sys2Proof.Machine.execSysWr w d a imm s
  | .pf w a imm => Sys2Proof.Machine.execPf w a imm s
  | .clClean w a imm => Sys2Proof.Machine.execClClean w a imm s
  | .clCinv w a imm => Sys2Proof.Machine.execClCinv w a imm s
  | .add w d a b => Sys2Proof.Machine.execAdd w d a b s
  | .sub w d a b => Sys2Proof.Machine.execSub w d a b s
  | .and w d a b => Sys2Proof.Machine.execAnd w d a b s
  | .or w d a b => Sys2Proof.Machine.execOr w d a b s
  | .xor w d a b => Sys2Proof.Machine.execXor w d a b s
  | .andn w d a b => Sys2Proof.Machine.execAndn w d a b s
  | .sll w d a b => Sys2Proof.Machine.execSll w d a b s
  | .srl w d a b => Sys2Proof.Machine.execSrl w d a b s
  | .sra w d a b => Sys2Proof.Machine.execSra w d a b s
  | .min w d a b => Sys2Proof.Machine.execMin w d a b s
  | .max w d a b => Sys2Proof.Machine.execMax w d a b s
  | .minu w d a b => Sys2Proof.Machine.execMinu w d a b s
  | .maxu w d a b => Sys2Proof.Machine.execMaxu w d a b s
  | .mul w d a b => Sys2Proof.Machine.execMul w d a b s
  | .mulh w d a b => Sys2Proof.Machine.execMulh w d a b s
  | .mulhu w d a b => Sys2Proof.Machine.execMulhu w d a b s
  | .div w d a b => Sys2Proof.Machine.execDiv w d a b s
  | .divu w d a b => Sys2Proof.Machine.execDivu w d a b s
  | .rem w d a b => Sys2Proof.Machine.execRem w d a b s
  | .remu w d a b => Sys2Proof.Machine.execRemu w d a b s
  | .clz w d a b => Sys2Proof.Machine.execClz w d a b s
  | .ctz w d a b => Sys2Proof.Machine.execCtz w d a b s
  | .popc w d a b => Sys2Proof.Machine.execPopc w d a b s
  | .sext8 w d a b => Sys2Proof.Machine.execSext8 w d a b s
  | .sext16 w d a b => Sys2Proof.Machine.execSext16 w d a b s
  | .sext32 w d a b => Sys2Proof.Machine.execSext32 w d a b s
  | .zext32 w d a b => Sys2Proof.Machine.execZext32 w d a b s
  | .addi w d a imm => Sys2Proof.Machine.execAddi w d a imm s
  | .andi w d a imm => Sys2Proof.Machine.execAndi w d a imm s
  | .ori w d a imm => Sys2Proof.Machine.execOri w d a imm s
  | .xori w d a imm => Sys2Proof.Machine.execXori w d a imm s
  | .slli w d a mz sh => Sys2Proof.Machine.execSlli w d a mz sh s
  | .srli w d a mz sh => Sys2Proof.Machine.execSrli w d a mz sh s
  | .srai w d a mz sh => Sys2Proof.Machine.execSrai w d a mz sh s
  | .movi w d imm => Sys2Proof.Machine.execMovi w d imm s
  | .movkLo w d hw imm => Sys2Proof.Machine.execMovkLo w d hw imm s
  | .movkHi w d hw imm => Sys2Proof.Machine.execMovkHi w d hw imm s
  | .brk w d a imm => Sys2Proof.Machine.execBrk w d a imm s
  | .fadd w d a b q rm => Sys2Proof.Machine.execFadd w d a b q rm s
  | .fsub w d a b q rm => Sys2Proof.Machine.execFsub w d a b q rm s
  | .fmul w d a b q rm => Sys2Proof.Machine.execFmul w d a b q rm s
  | .fdiv w d a b q rm => Sys2Proof.Machine.execFdiv w d a b q rm s
  | .fsqrt w d a b q rm => Sys2Proof.Machine.execFsqrt w d a b q rm s
  | .fmin w d a b q rm => Sys2Proof.Machine.execFmin w d a b q rm s
  | .fmax w d a b q rm => Sys2Proof.Machine.execFmax w d a b q rm s
  | .fmac w d a b q rm => Sys2Proof.Machine.execFmac w d a b q rm s
  | .fcmpEq w d a b q rm => Sys2Proof.Machine.execFcmpEq w d a b q rm s
  | .fcmpLt w d a b q rm => Sys2Proof.Machine.execFcmpLt w d a b q rm s
  | .fcmpLe w d a b q rm => Sys2Proof.Machine.execFcmpLe w d a b q rm s
  | .fcmpUn w d a b q rm => Sys2Proof.Machine.execFcmpUn w d a b q rm s
  | .fcvtFi w d a b q rm => Sys2Proof.Machine.execFcvtFi w d a b q rm s
  | .fcvtIf w d a b q rm => Sys2Proof.Machine.execFcvtIf w d a b q rm s
  | .fcvtFf w d a b q rm => Sys2Proof.Machine.execFcvtFf w d a b q rm s
  | .cmpEq w d a b => Sys2Proof.Machine.execCmpEq w d a b s
  | .cmpNe w d a b => Sys2Proof.Machine.execCmpNe w d a b s
  | .cmpLt w d a b => Sys2Proof.Machine.execCmpLt w d a b s
  | .cmpGe w d a b => Sys2Proof.Machine.execCmpGe w d a b s
  | .cmpLtu w d a b => Sys2Proof.Machine.execCmpLtu w d a b s
  | .cmpGeu w d a b => Sys2Proof.Machine.execCmpGeu w d a b s
  | .cmpiEq w d a imm => Sys2Proof.Machine.execCmpiEq w d a imm s
  | .cmpiNe w d a imm => Sys2Proof.Machine.execCmpiNe w d a imm s
  | .cmpiLt w d a imm => Sys2Proof.Machine.execCmpiLt w d a imm s
  | .cmpiGe w d a imm => Sys2Proof.Machine.execCmpiGe w d a imm s
  | .cmpiLtu w d a imm => Sys2Proof.Machine.execCmpiLtu w d a imm s
  | .cmpiGeu w d a imm => Sys2Proof.Machine.execCmpiGeu w d a imm s
  | .pand w d a b => Sys2Proof.Machine.execPand w d a b s
  | .por w d a b => Sys2Proof.Machine.execPor w d a b s
  | .pxor w d a b => Sys2Proof.Machine.execPxor w d a b s
  | .pandn w d a b => Sys2Proof.Machine.execPandn w d a b s
  | .pnot w d a b => Sys2Proof.Machine.execPnot w d a b s
  | .pSet w d a b => Sys2Proof.Machine.execPSet w d a b s
  | .pGet w d a b => Sys2Proof.Machine.execPGet w d a b s
  | .pAll w d a b => Sys2Proof.Machine.execPAll w d a b s
  | .br w imm => Sys2Proof.Machine.execBr w imm s
  | .bl w imm => Sys2Proof.Machine.execBl w imm s
  | .jr w d a b => Sys2Proof.Machine.execJr w d a b s
  | .jlr w d a b => Sys2Proof.Machine.execJlr w d a b s
  | .ldS8 w d a imm => Sys2Proof.Machine.execLdS8 w d a imm s
  | .ldU8 w d a imm => Sys2Proof.Machine.execLdU8 w d a imm s
  | .ldS16 w d a imm => Sys2Proof.Machine.execLdS16 w d a imm s
  | .ldU16 w d a imm => Sys2Proof.Machine.execLdU16 w d a imm s
  | .ldS32 w d a imm => Sys2Proof.Machine.execLdS32 w d a imm s
  | .ldU32 w d a imm => Sys2Proof.Machine.execLdU32 w d a imm s
  | .ld64 w d a imm => Sys2Proof.Machine.execLd64 w d a imm s
  | .st8 w d a imm => Sys2Proof.Machine.execSt8 w d a imm s
  | .st16 w d a imm => Sys2Proof.Machine.execSt16 w d a imm s
  | .st32 w d a imm => Sys2Proof.Machine.execSt32 w d a imm s
  | .st64 w d a imm => Sys2Proof.Machine.execSt64 w d a imm s
  | .ldPair w d a imm => Sys2Proof.Machine.execLdPair w d a imm s
  | .stPair w d a imm => Sys2Proof.Machine.execStPair w d a imm s
  | .stNt w d a imm => Sys2Proof.Machine.execStNt w d a imm s
  | .lsLd64 w d a imm => Sys2Proof.Machine.execLsLd64 w d a imm s
  | .lsLdU32 w d a imm => Sys2Proof.Machine.execLsLdU32 w d a imm s
  | .lsSt64 w d a imm => Sys2Proof.Machine.execLsSt64 w d a imm s
  | .lsSt32 w d a imm => Sys2Proof.Machine.execLsSt32 w d a imm s
  | .ld32Acq w d a b sc ord => Sys2Proof.Machine.execLd32Acq w d a b sc ord s
  | .ld64Acq w d a b sc ord => Sys2Proof.Machine.execLd64Acq w d a b sc ord s
  | .st32Rel w d a b sc ord => Sys2Proof.Machine.execSt32Rel w d a b sc ord s
  | .st64Rel w d a b sc ord => Sys2Proof.Machine.execSt64Rel w d a b sc ord s
  | .amoAdd w d a b sc ord sz => Sys2Proof.Machine.execAmoAdd w d a b sc ord sz s
  | .amoAnd w d a b sc ord sz => Sys2Proof.Machine.execAmoAnd w d a b sc ord sz s
  | .amoOr w d a b sc ord sz => Sys2Proof.Machine.execAmoOr w d a b sc ord sz s
  | .amoXor w d a b sc ord sz => Sys2Proof.Machine.execAmoXor w d a b sc ord sz s
  | .amoSwap w d a b sc ord sz => Sys2Proof.Machine.execAmoSwap w d a b sc ord sz s
  | .amoCas w d a b sc ord sz => Sys2Proof.Machine.execAmoCas w d a b sc ord sz s
  | .amoMax w d a b sc ord sz => Sys2Proof.Machine.execAmoMax w d a b sc ord sz s
  | .amoMin w d a b sc ord sz => Sys2Proof.Machine.execAmoMin w d a b sc ord sz s
  | .amoMinu w d a b sc ord sz => Sys2Proof.Machine.execAmoMinu w d a b sc ord sz s
  | .amoMaxu w d a b sc ord sz => Sys2Proof.Machine.execAmoMaxu w d a b sc ord sz s
  | .ldRsv w d a b sc ord sz => Sys2Proof.Machine.execLdRsv w d a b sc ord sz s
  | .stCnd w d a b sc ord sz => Sys2Proof.Machine.execStCnd w d a b sc ord sz s
  | .redAddI32 w d a b sc ord => Sys2Proof.Machine.execRedAddI32 w d a b sc ord s
  | .redAddI64 w d a b sc ord => Sys2Proof.Machine.execRedAddI64 w d a b sc ord s
  | .redAddF32 w d a b sc ord => Sys2Proof.Machine.execRedAddF32 w d a b sc ord s
  | .redAddBf16 w d a b sc ord => Sys2Proof.Machine.execRedAddBf16 w d a b sc ord s
  | .fenceAcq w d a b sc => Sys2Proof.Machine.execFenceAcq w d a b sc s
  | .fenceRel w d a b sc => Sys2Proof.Machine.execFenceRel w d a b sc s
  | .fenceAr w d a b sc => Sys2Proof.Machine.execFenceAr w d a b sc s
  | .tokSend w d a b => Sys2Proof.Machine.execTokSend w d a b s
  | .tokWait w d a b => Sys2Proof.Machine.execTokWait w d a b s
  | .tokTest w d a b => Sys2Proof.Machine.execTokTest w d a b s
  | .tokRead w d a b => Sys2Proof.Machine.execTokRead w d a b s
  | .strPutN w d a b dir => Sys2Proof.Machine.execStrPutN w d a b dir s
  | .strGetP w d a b dir => Sys2Proof.Machine.execStrGetP w d a b dir s
  | .strPutNTile w d a b dir => Sys2Proof.Machine.execStrPutNTile w d a b dir s
  | .strGetPTile w d a b dir => Sys2Proof.Machine.execStrGetPTile w d a b dir s
  | .lmvIn w d a b fn => Sys2Proof.Machine.execLmvIn w d a b fn s
  | .lmvOut w d a b fn => Sys2Proof.Machine.execLmvOut w d a b fn s
  | .lmvComplete c x => Sys2Proof.Machine.execLmvComplete c x s
  | .vadd w f => Sys2Proof.Machine.execVadd w f s
  | .vsub w f => Sys2Proof.Machine.execVsub w f s
  | .vmul w f => Sys2Proof.Machine.execVmul w f s
  | .vfma w f => Sys2Proof.Machine.execVfma w f s
  | .vmin w f => Sys2Proof.Machine.execVmin w f s
  | .vmax w f => Sys2Proof.Machine.execVmax w f s
  | .vabs w f => Sys2Proof.Machine.execVabs w f s
  | .vneg w f => Sys2Proof.Machine.execVneg w f s
  | .vdiv w f => Sys2Proof.Machine.execVdiv w f s
  | .vsqrt w f => Sys2Proof.Machine.execVsqrt w f s
  | .vand w f => Sys2Proof.Machine.execVand w f s
  | .vor w f => Sys2Proof.Machine.execVor w f s
  | .vxor w f => Sys2Proof.Machine.execVxor w f s
  | .vandn w f => Sys2Proof.Machine.execVandn w f s
  | .vsll w f => Sys2Proof.Machine.execVsll w f s
  | .vsrl w f => Sys2Proof.Machine.execVsrl w f s
  | .vsra w f => Sys2Proof.Machine.execVsra w f s
  | .vcmpEq w f => Sys2Proof.Machine.execVcmpEq w f s
  | .vcmpNe w f => Sys2Proof.Machine.execVcmpNe w f s
  | .vcmpLt w f => Sys2Proof.Machine.execVcmpLt w f s
  | .vcmpLe w f => Sys2Proof.Machine.execVcmpLe w f s
  | .vsel w f => Sys2Proof.Machine.execVsel w f s
  | .vcvt w f => Sys2Proof.Machine.execVcvt w f s
  | .vidx w f => Sys2Proof.Machine.execVidx w f s
  | .vmov w f => Sys2Proof.Machine.execVmov w f s
  | .vperm w f => Sys2Proof.Machine.execVperm w f s
  | .vpermx w f => Sys2Proof.Machine.execVpermx w f s
  | .vrot w f => Sys2Proof.Machine.execVrot w f s
  | .vrotr w f => Sys2Proof.Machine.execVrotr w f s
  | .vtrans w f => Sys2Proof.Machine.execVtrans w f s
  | .vzero w f => Sys2Proof.Machine.execVzero w f s
  | .vscanRow w op seg exc lo f => Sys2Proof.Machine.execVscanRow w op seg exc lo f s
  | .vscanCol w op seg exc lo f => Sys2Proof.Machine.execVscanCol w op seg exc lo f s
  | .vredRow w op seg exc lo f => Sys2Proof.Machine.execVredRow w op seg exc lo f s
  | .vredCol w op seg exc lo f => Sys2Proof.Machine.execVredCol w op seg exc lo f s
  | .vcompRow w f => Sys2Proof.Machine.execVcompRow w f s
  | .vcompTile w f => Sys2Proof.Machine.execVcompTile w f s
  | .vld w f => Sys2Proof.Machine.execVld w f s
  | .vst w f => Sys2Proof.Machine.execVst w f s
  | .vgather w f => Sys2Proof.Machine.execVgather w f s
  | .vscatter w f => Sys2Proof.Machine.execVscatter w f s
  | .tvShapei w f => Sys2Proof.Machine.execTvShapei w f s
  | .tvShape w f => Sys2Proof.Machine.execTvShape w f s
  | .tvGetshape w f => Sys2Proof.Machine.execTvGetshape w f s
  | .vext w f => Sys2Proof.Machine.execVext w f s
  | .vins w f => Sys2Proof.Machine.execVins w f s
  | .vbcast w f => Sys2Proof.Machine.execVbcast w f s
  | .mma w f => Sys2Proof.Machine.execMma w f s
  | .accZero w f => Sys2Proof.Machine.execAccZero w f s
  | .accLd w f => Sys2Proof.Machine.execAccLd w f s
  | .accSt w f => Sys2Proof.Machine.execAccSt w f s
  | .mq w f => Sys2Proof.Machine.execMq w f s
  | .exceptionRecordWrite l x => Sys2Proof.Machine.execExceptionRecordWrite l x s
  | .launchHalt l => Sys2Proof.Machine.execLaunchHalt l s
  | .coreWake c => Sys2Proof.Machine.execCoreWake c s
  | .tokenApply cl => Sys2Proof.Machine.execTokenApply cl s
  | .tokWaitSatisfied c => Sys2Proof.Machine.execTokWaitSatisfied c s
  | .streamBeatArrive c fromPred => Sys2Proof.Machine.execStreamBeatArrive c fromPred s
  | .streamCreditArrive c fromPred => Sys2Proof.Machine.execStreamCreditArrive c fromPred s
  | .launchPrepare l => Sys2Proof.Machine.execLaunchPrepare l s
  | .prepareDone l cl => Sys2Proof.Machine.execPrepareDone l cl s
  | .launchStart l => Sys2Proof.Machine.execLaunchStart l s
  | .launchComplete l => Sys2Proof.Machine.execLaunchComplete l s
  | .pllStop cl => Sys2Proof.Machine.execPllStop cl s
  | .pllRestart cl => Sys2Proof.Machine.execPllRestart cl s
  | .pllLock cl => Sys2Proof.Machine.execPllLock cl s
  | .l1Fill c line => Sys2Proof.Machine.execL1Fill c line s
  | .storeBufferDrain c => Sys2Proof.Machine.execStoreBufferDrain c s
  | .cbIdleTimeout c x => Sys2Proof.Machine.execCbIdleTimeout c x s
  | .rsvHoldExpire cl line => Sys2Proof.Machine.execRsvHoldExpire cl line s
  | .dcxExpand dcx line => Sys2Proof.Machine.execDcxExpand dcx line s
  | .dcxInv ag die => Sys2Proof.Machine.execDcxInv ag die s
  | .dcxInvDone die => Sys2Proof.Machine.execDcxInvDone die s
  | .nmuAdd h => Sys2Proof.Machine.execNmuAdd h s
  | .rmClean ag die n => Sys2Proof.Machine.execRmClean ag die n s
  | .rmInvalidate ag die n => Sys2Proof.Machine.execRmInvalidate ag die n s
  | .rmCleanInvalidate ag die n => Sys2Proof.Machine.execRmCleanInvalidate ag die n s
  | .rmDone die n => Sys2Proof.Machine.execRmDone die n s
  | .scrubRead die line found => Sys2Proof.Machine.execScrubRead die line found s
  | .scrubOverrun die stack => Sys2Proof.Machine.execScrubOverrun die stack s
  | .rds h src => Sys2Proof.Machine.execRds h src s
  | .rdx h src => Sys2Proof.Machine.execRdx h src s
  | .rdc h src => Sys2Proof.Machine.execRdc h src s
  | .wrp h src => Sys2Proof.Machine.execWrp h src s
  | .red h src => Sys2Proof.Machine.execRed h src s
  | .rdh h => Sys2Proof.Machine.execRdh h s
  | .wrh h => Sys2Proof.Machine.execWrh h s
  | .homeAccept h line => Sys2Proof.Machine.execHomeAccept h line s
  | .vcd h src => Sys2Proof.Machine.execVcd h src s
  | .vck h src => Sys2Proof.Machine.execVck h src s
  | .vcn h src => Sys2Proof.Machine.execVcn h src s
  | .fsh cl h => Sys2Proof.Machine.execFsh cl h s
  | .fex cl h => Sys2Proof.Machine.execFex cl h s
  | .frc cl h => Sys2Proof.Machine.execFrc cl h s
  | .inv cl h => Sys2Proof.Machine.execInv cl h s
  | .bisnp h => Sys2Proof.Machine.execBisnp h s
  | .cmp dst h => Sys2Proof.Machine.execCmp dst h s
  | .gnt cl h => Sys2Proof.Machine.execGnt cl h s
  | .ack h src => Sys2Proof.Machine.execAck h src s
  | .fak h src => Sys2Proof.Machine.execFak h src s
  | .iak h src => Sys2Proof.Machine.execIak h src s
  | .npr h src => Sys2Proof.Machine.execNpr h src s
  | .npd h src => Sys2Proof.Machine.execNpd h src s
  | .vpd h src => Sys2Proof.Machine.execVpd h src s
  | .bir line rsp => Sys2Proof.Machine.execBir line rsp s
  | .ncx dst h => Sys2Proof.Machine.execNcx dst h s
  | .rty dst h => Sys2Proof.Machine.execRty dst h s
  | .crg dst h => Sys2Proof.Machine.execCrg dst h s
  | .dat dst src => Sys2Proof.Machine.execDat dst src s
  | .fdt h src => Sys2Proof.Machine.execFdt h src s
  | .hdt h => Sys2Proof.Machine.execHdt h s
  | .homeFwdTimeout h line cl => Sys2Proof.Machine.execHomeFwdTimeout h line cl s
  | .clusterReclaimScan h cl => Sys2Proof.Machine.execClusterReclaimScan h cl s
  | .hostReclaimScan h => Sys2Proof.Machine.execHostReclaimScan h s
  | .biasFlipScan h page => Sys2Proof.Machine.execBiasFlipScan h page s
  | .fabDrainedRead ag => Sys2Proof.Machine.execFabDrainedRead ag s
  | .svpDrainedRead ag => Sys2Proof.Machine.execSvpDrainedRead ag s
  | .svpFlushTimer => Sys2Proof.Machine.execSvpFlushTimer s
  | .xltRequest wt => Sys2Proof.Machine.execXltRequest wt s
  | .walkDone ctx vpn => Sys2Proof.Machine.execWalkDone ctx vpn s
  | .fqBatchClose => Sys2Proof.Machine.execFqBatchClose s
  | .fqBatchWritten => Sys2Proof.Machine.execFqBatchWritten s
  | .ovfBatchForm => Sys2Proof.Machine.execOvfBatchForm s
  | .xltResolveRetry ag => Sys2Proof.Machine.execXltResolveRetry ag s
  | .xltResolveFatal ag => Sys2Proof.Machine.execXltResolveFatal ag s
  | .xltInvRange ag => Sys2Proof.Machine.execXltInvRange ag s
  | .xltInvContext ag => Sys2Proof.Machine.execXltInvContext ag s
  | .xltInvDone => Sys2Proof.Machine.execXltInvDone s
  | .xltOwnTagWrite ag v => Sys2Proof.Machine.execXltOwnTagWrite ag v s
  | .xltFqRdWrite ag v => Sys2Proof.Machine.execXltFqRdWrite ag v s
  | .descRetranslate q => Sys2Proof.Machine.execDescRetranslate q s
  | .doorbell ag ring v => Sys2Proof.Machine.execDoorbell ag ring v s
  | .ringEnable ag ring => Sys2Proof.Machine.execRingEnable ag ring s
  | .ringDisable ag ring => Sys2Proof.Machine.execRingDisable ag ring s
  | .commandTake => Sys2Proof.Machine.execCommandTake s
  | .commandStart ring => Sys2Proof.Machine.execCommandStart ring s
  | .waitGatePoll ring => Sys2Proof.Machine.execWaitGatePoll ring s
  | .nopCommand ring => Sys2Proof.Machine.execNopCommand ring s
  | .launch ring => Sys2Proof.Machine.execLaunch ring s
  | .dma ring => Sys2Proof.Machine.execDma ring s
  | .dmaComplete q => Sys2Proof.Machine.execDmaComplete q s
  | .collective ring => Sys2Proof.Machine.execCollective ring s
  | .fence ring => Sys2Proof.Machine.execFence ring s
  | .fenceComplete ring k => Sys2Proof.Machine.execFenceComplete ring k s
  | .bias ring => Sys2Proof.Machine.execBias ring s
  | .prefetch ring => Sys2Proof.Machine.execPrefetch ring s
  | .adviseMigrate ring => Sys2Proof.Machine.execAdviseMigrate ring s
  | .energyMark ring => Sys2Proof.Machine.execEnergyMark ring s
  | .stepBegin ring => Sys2Proof.Machine.execStepBegin ring s
  | .stepStart ring => Sys2Proof.Machine.execStepStart ring s
  | .stepEnd ring => Sys2Proof.Machine.execStepEnd ring s
  | .stepEndEffect ring k => Sys2Proof.Machine.execStepEndEffect ring k s
  | .eventRecordWrite m => Sys2Proof.Machine.execEventRecordWrite m s
  | .evrdWrite ag m v => Sys2Proof.Machine.execEvrdWrite ag m v s
  | .launchResume ag lseq cl pos => Sys2Proof.Machine.execLaunchResume ag lseq cl pos s
  | .launchAbort ag lseq cl => Sys2Proof.Machine.execLaunchAbort ag lseq cl s
  | .contextClosed ctx => Sys2Proof.Machine.execContextClosed ctx s
  | .fabricFrameRx port f => Sys2Proof.Machine.execFabricFrameRx port f s
  | .fabPortRetrain port why => Sys2Proof.Machine.execFabPortRetrain port why s
  | .fabRetrainDone port ok => Sys2Proof.Machine.execFabRetrainDone port ok s
  | .fabPortRetrainCmd ag port => Sys2Proof.Machine.execFabPortRetrainCmd ag port s
  | .fabWr port => Sys2Proof.Machine.execFabWr port s
  | .fabWrm port => Sys2Proof.Machine.execFabWrm port s
  | .fabRd port => Sys2Proof.Machine.execFabRd port s
  | .pzd port => Sys2Proof.Machine.execPzd port s
  | .fabAck port => Sys2Proof.Machine.execFabAck port s
  | .rdd port => Sys2Proof.Machine.execRdd port s
  | .fabNak port => Sys2Proof.Machine.execFabNak port s
  | .fabAckTimeout x => Sys2Proof.Machine.execFabAckTimeout x s
  | .fabNakResend x => Sys2Proof.Machine.execFabNakResend x s
  | .fabDestDead dst => Sys2Proof.Machine.execFabDestDead dst s
  | .fabCombineTimeout x => Sys2Proof.Machine.execFabCombineTimeout x s
  | .flowEntryFree src flow => Sys2Proof.Machine.execFlowEntryFree src flow s
  | .fabTabInv ag => Sys2Proof.Machine.execFabTabInv ag s
  | .fabDeadClr ag all addr => Sys2Proof.Machine.execFabDeadClr ag all addr s
  | .tsySend => Sys2Proof.Machine.execTsySend s
  | .tsy port => Sys2Proof.Machine.execTsy port s
  | .tsLockTimeout => Sys2Proof.Machine.execTsLockTimeout s
  | .treeLoad ag t => Sys2Proof.Machine.execTreeLoad ag t s
  | .treeUnload ag t => Sys2Proof.Machine.execTreeUnload ag t s
  | .przReady port => Sys2Proof.Machine.execPrzReady port s
  | .przHb port => Sys2Proof.Machine.execPrzHb port s
  | .przHbTimer t nb => Sys2Proof.Machine.execPrzHbTimer t nb s
  | .przNeighbourLost t nb => Sys2Proof.Machine.execPrzNeighbourLost t nb s
  | .przDone port => Sys2Proof.Machine.execPrzDone port s
  | .przSummary port => Sys2Proof.Machine.execPrzSummary port s
  | .join port => Sys2Proof.Machine.execJoin port s
  | .joinok port => Sys2Proof.Machine.execJoinok port s
  | .joinTimeout t => Sys2Proof.Machine.execJoinTimeout t s
  | .adopt port => Sys2Proof.Machine.execAdopt port s
  | .przAbort port => Sys2Proof.Machine.execPrzAbort port s
  | .leave port => Sys2Proof.Machine.execLeave port s
  | .przReissue t => Sys2Proof.Machine.execPrzReissue t s
  | .rootSettleTimeout t => Sys2Proof.Machine.execRootSettleTimeout t s
  | .collectiveComplete t => Sys2Proof.Machine.execCollectiveComplete t s
  | .memrd hpa mv => Sys2Proof.Machine.execMemrd hpa mv s
  | .memrddata hpa => Sys2Proof.Machine.execMemrddata hpa s
  | .memwr hpa data poison => Sys2Proof.Machine.execMemwr hpa data poison s
  | .memwrptl hpa mask data poison => Sys2Proof.Machine.execMemwrptl hpa mask data poison s
  | .memspecrd hpa => Sys2Proof.Machine.execMemspecrd hpa s
  | .meminv hpa => Sys2Proof.Machine.execMeminv hpa s
  | .biconflict hpa => Sys2Proof.Machine.execBiconflict hpa s
  | .h2dSnoop hpa => Sys2Proof.Machine.execH2dSnoop hpa s
  | .hdmCommit n => Sys2Proof.Machine.execHdmCommit n s
  | .configRequest wr reg v => Sys2Proof.Machine.execConfigRequest wr reg v s
  | .bar2Access wr off len data poison => Sys2Proof.Machine.execBar2Access wr off len data poison s
  | .assertInta => Sys2Proof.Machine.execAssertInta s
  | .deassertInta => Sys2Proof.Machine.execDeassertInta s
  | .d3hotEntry => Sys2Proof.Machine.execD3hotEntry s
  | .d3coldEntry => Sys2Proof.Machine.execD3coldEntry s
  | .d0Return => Sys2Proof.Machine.execD0Return s
  | .l0sEntry => Sys2Proof.Machine.execL0sEntry s
  | .l1Entry => Sys2Proof.Machine.execL1Entry s
  | .hostLinkRetrain long => Sys2Proof.Machine.execHostLinkRetrain long s
  | .hostLinkDown why => Sys2Proof.Machine.execHostLinkDown why s
  | .hostLossTimeout => Sys2Proof.Machine.execHostLossTimeout s
  | .hostLinkReinit => Sys2Proof.Machine.execHostLinkReinit s
  | .hptBiasToDevice ag count => Sys2Proof.Machine.execHptBiasToDevice ag count s
  | .hptBiasToShared ag count => Sys2Proof.Machine.execHptBiasToShared ag count s
  | .hwinHostToDevice ag coh => Sys2Proof.Machine.execHwinHostToDevice ag coh s
  | .hwinDeviceToHost ag coh => Sys2Proof.Machine.execHwinDeviceToHost ag coh s
  | .hwinCompletionTimeout => Sys2Proof.Machine.execHwinCompletionTimeout s
  | .svpCfgRead ag a => Sys2Proof.Machine.execSvpCfgRead ag a s
  | .svpCfgWrite ag a => Sys2Proof.Machine.execSvpCfgWrite ag a s
  | .svpCfgComplete ok v => Sys2Proof.Machine.execSvpCfgComplete ok v s
  | .svpPresenceChange present => Sys2Proof.Machine.execSvpPresenceChange present s
  | .slotPowerOn ag v => Sys2Proof.Machine.execSlotPowerOn ag v s
  | .slotPowerFault => Sys2Proof.Machine.execSlotPowerFault s
  | .svpLinkUp width speed => Sys2Proof.Machine.execSvpLinkUp width speed s
  | .slotResetRelease => Sys2Proof.Machine.execSlotResetRelease s
  | .attnButton => Sys2Proof.Machine.execAttnButton s
  | .surpriseRemoval byLink => Sys2Proof.Machine.execSurpriseRemoval byLink s
  | .svpDestDead why => Sys2Proof.Machine.execSvpDestDead why s
  | .svpDeadClear ag v => Sys2Proof.Machine.execSvpDeadClear ag v s
  | .assertIntx x => Sys2Proof.Machine.execAssertIntx x s
  | .deassertIntx x => Sys2Proof.Machine.execDeassertIntx x s
  | .svpErrMessage sev => Sys2Proof.Machine.execSvpErrMessage sev s
  | .apertureRequest wr bus len data poison bad => Sys2Proof.Machine.execApertureRequest wr bus len data poison bad s
  | .registerWrite ag off v => Sys2Proof.Machine.execRegisterWrite ag off v s
  | .strobeWrite ag n go => Sys2Proof.Machine.execStrobeWrite ag n go s
  | .strobeSet ag set => Sys2Proof.Machine.execStrobeSet ag set s
  | .strobeApply n => Sys2Proof.Machine.execStrobeApply n s
  | .g1FirstWrite ag off v => Sys2Proof.Machine.execG1FirstWrite ag off v s
  | .g1ComplementWrite ag off v => Sys2Proof.Machine.execG1ComplementWrite ag off v s
  | .g1Timeout ag => Sys2Proof.Machine.execG1Timeout ag s
  | .gctlUnlock ag key => Sys2Proof.Machine.execGctlUnlock ag key s
  | .g2LockTimeout ag => Sys2Proof.Machine.execG2LockTimeout ag s
  | .sqcClearWrite ag off v => Sys2Proof.Machine.execSqcClearWrite ag off v s
  | .triplicateVote f u0 u1 u2 => Sys2Proof.Machine.execTriplicateVote f u0 u1 u2 s
  | .shadowLoRead ag off => Sys2Proof.Machine.execShadowLoRead ag off s
  | .gctlCntReset ag row => Sys2Proof.Machine.execGctlCntReset ag row s
  | .dieLinkFlit link up f => Sys2Proof.Machine.execDieLinkFlit link up f s
  | .linkHandshake link => Sys2Proof.Machine.execLinkHandshake link s
  | .handshakeAttempt link m => Sys2Proof.Machine.execHandshakeAttempt link m s
  | .handshakeStepTimeout link st => Sys2Proof.Machine.execHandshakeStepTimeout link st s
  | .linkHoldRelease ag link => Sys2Proof.Machine.execLinkHoldRelease ag link s
  | .linkHoldCmd ag link => Sys2Proof.Machine.execLinkHoldCmd ag link s
  | .d2dReset ag link far => Sys2Proof.Machine.execD2dReset ag link far s
  | .d2dRetrain ag link => Sys2Proof.Machine.execD2dRetrain ag link s
  | .sbsDrop link => Sys2Proof.Machine.execSbsDrop link s
  | .d2dTestMode ag link far mode => Sys2Proof.Machine.execD2dTestMode ag link far mode s
  | .bondParityError cl repeatOk => Sys2Proof.Machine.execBondParityError cl repeatOk s
  | .timeMark die => Sys2Proof.Machine.execTimeMark die s
  | .powerPass x => Sys2Proof.Machine.execPowerPass x s
  | .activityModelTick x => Sys2Proof.Machine.execActivityModelTick x s
  | .telemetryFrame rail crcOk reported modelled rated => Sys2Proof.Machine.execTelemetryFrame rail crcOk reported modelled rated s
  | .modelUncalibrated => Sys2Proof.Machine.execModelUncalibrated s
  | .railSettled cd => Sys2Proof.Machine.execRailSettled cd s
  | .proofEngage cd => Sys2Proof.Machine.execProofEngage cd s
  | .proofRelease cd => Sys2Proof.Machine.execProofRelease cd s
  | .proofReleaseCmd ag => Sys2Proof.Machine.execProofReleaseCmd ag s
  | .droopDetect cl => Sys2Proof.Machine.execDroopDetect cl s
  | .droopClear cl => Sys2Proof.Machine.execDroopClear cl s
  | .thermalThrottle cl base reading => Sys2Proof.Machine.execThermalThrottle cl base reading s
  | .thermalCeilingRaise cl own base => Sys2Proof.Machine.execThermalCeilingRaise cl own base s
  | .thermalTrip base sensor reading => Sys2Proof.Machine.execThermalTrip base sensor reading s
  | .coolantFlowLoss => Sys2Proof.Machine.execCoolantFlowLoss s
  | .coolantFlowLow hz => Sys2Proof.Machine.execCoolantFlowLow hz s
  | .coolantFlowRestored hz => Sys2Proof.Machine.execCoolantFlowRestored hz s
  | .regulatorAlert => Sys2Proof.Machine.execRegulatorAlert s
  | .regulatorAlertEnd => Sys2Proof.Machine.execRegulatorAlertEnd s
  | .supplySag input aon bad => Sys2Proof.Machine.execSupplySag input aon bad s
  | .faultReport r => Sys2Proof.Machine.execFaultReport r s
  | .mirrorPairFault src => Sys2Proof.Machine.execMirrorPairFault src s
  | .gathererPoll src => Sys2Proof.Machine.execGathererPoll src s
  | .faultWindowClose src => Sys2Proof.Machine.execFaultWindowClose src s
  | .faultDemote ag all src => Sys2Proof.Machine.execFaultDemote ag all src s
  | .safeStateEntry => Sys2Proof.Machine.execSafeStateEntry s
  | .fclCrumbRdWrite ag v => Sys2Proof.Machine.execFclCrumbRdWrite ag v s
  | .loupeSample x => Sys2Proof.Machine.execLoupeSample x s
  | .stackRecalibration far stack chan => Sys2Proof.Machine.execStackRecalibration far stack chan s
  | .sensorCalibration => Sys2Proof.Machine.execSensorCalibration s
  | .calCommit ag => Sys2Proof.Machine.execCalCommit ag s
  | .calReload ag => Sys2Proof.Machine.execCalReload ag s
  | .calEraseDone => Sys2Proof.Machine.execCalEraseDone s
  | .calWinDataAccess ag wr v => Sys2Proof.Machine.execCalWinDataAccess ag wr v s
  | .wdogKick ag v => Sys2Proof.Machine.execWdogKick ag v s
  | .wdogExpire => Sys2Proof.Machine.execWdogExpire s
  | .clusterWarmReset ag cl => Sys2Proof.Machine.execClusterWarmReset ag cl s
  | .coreWarmReset ag cl pos => Sys2Proof.Machine.execCoreWarmReset ag cl pos s
  | .warmResetDrainTimeout cl pos => Sys2Proof.Machine.execWarmResetDrainTimeout cl pos s
  | .coldReset cause => Sys2Proof.Machine.execColdReset cause s
  | .gctlColdRst ag => Sys2Proof.Machine.execGctlColdRst ag s
  | .bootStart testEn => Sys2Proof.Machine.execBootStart testEn s
  | .bootStepDone r => Sys2Proof.Machine.execBootStepDone r s
  | .bootStepTimeout => Sys2Proof.Machine.execBootStepTimeout s
  | .imageVerify image keyOk sigOk digestOk version => Sys2Proof.Machine.execImageVerify image keyOk sigOk digestOk version s
  | .recoveryImage keyOk sigOk digestOk version => Sys2Proof.Machine.execRecoveryImage keyOk sigOk digestOk version s
  | .hostRelease => Sys2Proof.Machine.execHostRelease s
  | .aonPllLock railLost => Sys2Proof.Machine.execAonPllLock railLost s
  | .refclkLoss => Sys2Proof.Machine.execRefclkLoss s
  | .refclkReturn => Sys2Proof.Machine.execRefclkReturn s
  | .phyrefLoss => Sys2Proof.Machine.execPhyrefLoss s
  | .i3cWrite bytes => Sys2Proof.Machine.execI3cWrite bytes s
  | .i3cRead bytes len => Sys2Proof.Machine.execI3cRead bytes len s
  | .debugRequest cl => Sys2Proof.Machine.execDebugRequest cl s
  | .svpCompletion id st data poison => Sys2Proof.Machine.execSvpCompletion id st data poison s
  | .hwinCompletion id st data poison => Sys2Proof.Machine.execHwinCompletion id st data poison s
  | .hostLinkUp good => Sys2Proof.Machine.execHostLinkUp good s
  | .aspmExit => Sys2Proof.Machine.execAspmExit s
  | .fabPortTrained port => Sys2Proof.Machine.execFabPortTrained port s
  | .svpLinkDown => Sys2Proof.Machine.execSvpLinkDown s
  | .slotPowerOff ag v => Sys2Proof.Machine.execSlotPowerOff ag v s
  | .slotPowerGood => Sys2Proof.Machine.execSlotPowerGood s
  | .supplySagEnd input aon => Sys2Proof.Machine.execSupplySagEnd input aon s
  | .phyrefReturn => Sys2Proof.Machine.execPhyrefReturn s
  | .coolantFlowOkRise => Sys2Proof.Machine.execCoolantFlowOkRise s
  | .warmResetDone cl core pos => Sys2Proof.Machine.execWarmResetDone cl core pos s
  | .calCommitDone verifyOk => Sys2Proof.Machine.execCalCommitDone verifyOk s

end Sys2Proof.Machine
end

