-- ==== Sys2Proof/Safety.lean ====
section
/-! DEFINITION. The terms in which statements speak of a run: when a core's instruction takes effect, the bytes of device
memory as the complex holds them, and what a command leaves alone. -/

namespace Sys2Proof.Machine

/-- An instruction of some length takes effect: its core is running and has nothing outstanding, holds the instruction as
fetched, the guard reads 1, and a 64-bit instruction starts at a multiple of 8 (R57, R69, R71, R75, R184). -/
def issues (s : State) (w : Who) (len : Nat) : Bool :=
  coreReady s w.core && fetchedHere (s.core w.core) && guardOn (s.core w.core) w &&
    (len != 8 || (s.core w.core).pc.toNat % 8 == 0)

/-- A core is at an instruction, whatever its guard reads. -/
def reaches (s : State) (w : Who) : Bool := coreReady s w.core && fetchedHere (s.core w.core)

/-- The copy of a line that a cluster L2 may have written: E, M, or KE (R227, R235). -/
def ownedCopy (s : State) (line : Nat) : Option Line :=
  (List.range 64).findSome? fun c => match l2Find (mget s.clus c) line with
    | some (_, w) => if w.st = .E ∨ w.st = .M ∨ w.st = .KE then some w.data else none
    | none => none

/-- The copy of a line on its way from a cluster's write-back buffer to its home (R235). -/
def leavingCopy (s : State) (line : Nat) : Option Line :=
  (List.range 64).findSome? fun c => ((mget s.clus c).wb.find? fun x => x.line == line).map (·.data)

/-- A byte of device memory: of the copy that a cluster owns, else of the copy on its way home, else as the home holds it
(R199, R227, R235). -/
def byteAt (s : State) (a : Nat) : Byte :=
  lineByte ((ownedCopy s (a / 64)).getD ((leavingCopy s (a / 64)).getD (memPeek s.mem (a / 64)).1)) (a % 64)

/-- A byte of device memory as a core reads it: a store of its own that has not left the store buffer covers the byte
(R279), else memory holds it. -/
def byteSeen (s : State) (core : CoreId) (a : Nat) : Byte :=
  match (s.core core).sb.reverse.find? (fun e => e.kind == .store && e.dest == .device && e.pa / 64 == a / 64 &&
    e.mask.getLsbD (a % 64)) with
  | some e => lineByte e.data (a % 64)
  | none => byteAt s a

/-- Nothing of a core's earlier accesses is outstanding: no store-buffer entry, combining line or line move of the core, and
no write of its cluster that awaits an answer (R106, R277, R278, R280). -/
def quiet (s : State) (core : CoreId) : Bool :=
  (s.core core).sb.isEmpty && (s.core core).cb.isEmpty && noMoves (s.core core) && (s.cluster core.cl).outw.isEmpty

/-- The translation of an address is at hand: the cluster TLB gives it with the permission that the access needs, and nothing
changes (R300, R302). -/
def atHand (s : State) (core : CoreId) (va : Word) (a : Access) (l : Leaf) : Prop :=
  translate s core.cl (ctxOf s core) va a = .ok l s

/-- A store-buffer entry holds an access: its kind, place, bytes, context and the address of its instruction (R86, R278). -/
def holdsAccess (s : State) (core : CoreId) (k : SbKind) (l : Leaf) (va : Word) (n v : Nat) (e : SbEntry) : Prop :=
  e.kind = k ∧ e.dest = destOf l ∧ e.pa = physOf l va.toNat ∧ e.mask = maskAt (e.pa % 64) n ∧
    e.data = lineAt (e.pa % 64) n v ∧ e.ctx = ctxOf s core ∧ e.pc = (s.core core).pc ∧ e.sent = false

/-- Everything but one core is as before. -/
def onlyCore (s t : State) (core : CoreId) : Prop :=
  t = { s with cores := t.cores } ∧ ∀ c : CoreId, c ≠ core → t.core c = s.core c

/-- A core after an engine instruction that sets flags: its effect from a clear vsw, the flags joined to the old ones, the pc past
the 64-bit word (R135). -/
def engineCore (g : CoreSt → CoreSt) (c : CoreSt) : CoreSt :=
  let d := g { c with vsw := 0 }
  { d with vsw := d.vsw ||| c.vsw }.adv 8

/-- A lane of the active area that a tile-vector instruction writes: in the first RL rows, the first min(VL, L) lanes, and with its
mask flag set where ME is 1 (R112, R119). -/
def laneOn (c : CoreSt) (f : TvWord) (r j : Nat) : Bool :=
  decide (r < c.rl) && decide (j < min c.vl (64 / tyBytes f.ty)) && unmasked c f (tyBytes f.ty) r j

/-- The next state of a tile-vector instruction that gives every written lane of TD its value v r j and flags fl r j: the other
lanes, tiles, scalars and predicates are as before, vsw gains the flags of the written lanes, the pc moves by 8; with no arithmetic
trap enabled nothing else of the machine changes (R112, R114, R115, R119, R135, R137). -/
def lanesAfter (s t : State) (w : Who) (f : TvWord) (v : Nat → Nat → Nat) (fl : Nat → Nat → BitVec 8) : Prop :=
  let c := s.core w.core
  let d := t.core w.core
  let e := tyBytes f.ty
  (∀ r j, r < 16 → j < 64 / e →
    laneGet (d.rt f.td) e r j = if laneOn c f r j then v r j % 2 ^ (8 * e) else laneGet (c.rt f.td) e r j) ∧
  (∀ i, i ≠ f.td → d.rt i = c.rt i) ∧ d.s = c.s ∧ d.p = c.p ∧ d.ls = c.ls ∧ d.pc = c.pc + 8 ∧
  (∀ i, i < 8 → (d.vsw.getLsbD i = true ↔
    c.vsw.getLsbD i = true ∨ ∃ r j, laneOn c f r j = true ∧ (fl r j).getLsbD i = true)) ∧
  (c.xcfg = 0 → onlyCore s t w.core)

/-- A register access of an agent reaches its register: the complex is out of reset, the host's link is up with the device in D0 and
Memory Space Enable set, the die is powered and behind an up die link (R402, R415, R418, R442, R463). -/
def reachable (s : State) (ag : RegAgent) (off : Nat) : Bool :=
  !s.boot.inReset && (ag != .host || (linkUp s && s.hpt.dstate == .d0 && memEnabled s)) &&
    !s.boot.offDie.contains (dieOfOffset off) && pathUp s 0 (baseOfDie (dieOfOffset off))

/-- At most one directory way names a line (R232). -/
def oneEntry (m : MemSt) (line : Nat) : Prop :=
  ∀ i j e f, mgetD none m.dir i = some e → mgetD none m.dir j = some f → e.line = line → f.line = line → i = j

/-- The completion record of a command at this moment (R339). -/
def doneRec (s : State) (c : Cmd) (status : BitVec 8) (vis path step lo hi : Nat) : Line :=
  recordLine 1 c.opc.toNat status.toNat c.ctx.toNat c.ring.toNat step c.idx.toNat c.tag.toNat s.ts.toNat vis path lo hi

/-- A record stands last among the records that wait on a ring's event ring (R341). -/
def recorded (s t : State) (r : BitVec 10) (rec : Line) : Prop :=
  (t.ev (s.ring r).ev).recs = (s.ev (s.ring r).ev).recs ++ [rec]

/-- A ring holds a started command of a kind, is not being disabled, and the command asks for its record (R330, R333). -/
def runsCmd (s : State) (r : BitVec 10) (opc : BitVec 8) (h : HeldCmd) : Prop :=
  startedCmd s r opc = some h ∧ h.cmd.ring = r ∧ (s.ring r).closing = false ∧ h.cmd.norec = false

/-- A command left its ring's head and runs: the ring is free for the next command and counts it as active (R330). -/
def nowActive (s t : State) (r : BitVec 10) (c : Cmd) : Prop :=
  (t.ring r).held = none ∧ (t.ring r).active = (s.ring r).active ++ [(c.idx, c.step)]

/-- A packet of a class with so many lines to a physical address has a port now: the address is not on the dead list, its
route-table entry is cached, and a port of its mask can send it (R363, R374). -/
def routed (s : State) (dst : BitVec 16) (cls : BitVec 2) (lines : Nat) (n : BitVec 4) : Prop :=
  s.fab.dead.contains dst = false ∧
    ∃ mask, mgetD none s.fab.routeTab (routeIndex ((s.reg Reg.fabMyaddr).extractLsb' 0 16) dst) = some mask ∧
      choosePort s mask { (default : Packet) with cls := cls, pay := List.replicate lines 0 } = some n

/-- A non-caching agent's access to a line can be one step now: it passes the context check, its home is powered and reachable, and
nothing is under way on the line, of which the host holds no copy (R226, R229, R245). -/
def takesLine (s : State) (a : Agent) (ctx : Ctx) (line : Nat) : Bool :=
  !isReserved s.mem line && !isPacked line && ctxPasses s.mem ctx line && !homeHeld s (homeOf s.mem line) &&
    agentPath s a (homeOf s.mem line) && quietLine s line && (dirGet s.mem line).hst == .I

/-- The oldest packet of its class on a port is a Prism packet of a type from the neighbour r of a tree whose running collective
has its SEQ and CTX, the first of its flow and for this rank (R365, R369, R382). -/
def przFrom (s : State) (port : BitVec 4) (ty : BitVec 8) (p : Packet) (x : Tree) (c : Coll) (r : BitVec 16) : Prop :=
  (∃ s1, rxTake s port ty = some (p, s1)) ∧ s.fab.flows = [] ∧ p.fseq = p.base ∧ (s.reg Reg.fabMyrank).getLsbD 31 = true ∧
    (s.reg Reg.fabMyrank).extractLsb' 0 16 = p.drank ∧ treeOf s (p.arg.extractLsb' 26 6) = some x ∧ x.coll = some c ∧
    x.ctx = p.ctx ∧ c.seq = p.arg.extractLsb' 32 32 ∧ neighbourOf s x p.src = some r

/-- A collective that moves no data of its own and has not been settled: a barrier without a SUMMARY (R386, R392). -/
def barrierOpen (c : Coll) : Prop := c.op = 3 ∧ c.summary = none ∧ c.inq = [] ∧ c.paused = false

/-- The root of a tree is not about to settle its collective: a live child has yet to send DONE (R389, R392). -/
def notSettling (x : Tree) (c : Coll) : Prop := x.root = false ∨ (c.sentDone = false ∧ ∃ k ∈ liveKids c, k.done = false)

/-- The command of a tree's collective asks for its record on a ring that is not being disabled. -/
def collCmd (s : State) (t : BitVec 6) (cmd : Cmd) : Prop :=
  mgetD none s.dsp.colls t.toNat = some cmd ∧ (s.ring cmd.ring).closing = false ∧ cmd.norec = false

end Sys2Proof.Machine
end

