-- ==== Sys2Proof/WellFormed.lean ====
section
/-! DEFINITION. Well-formed commands: operand values that name something the spec gives the block. A command that is not
well-formed has a meaning all the same (exec is total); the checks say which operands name a part of the machine. -/

namespace Sys2Proof

/-- A core position exists: 0 to 159 (R30). -/
def CoreId.wf (c : CoreId) : Bool := c.pos.toNat < 160

/-- A line of the 44-bit device physical address space (R185, R192). -/
def lineWf (line : Nat) : Bool := line < 2 ^ 38

/-- A register offset is 4-byte aligned (R438). -/
def offWf (off : BitVec 26) : Bool := off.toNat % 4 == 0

/-- One of the 12 fabric ports (R351). -/
def portWf (port : BitVec 4) : Bool := port.toNat < 12

/-- One of the three die links (R457). -/
def linkWf (link : BitVec 2) : Bool := link.toNat < 3

/-- A 64-byte aligned host address, as CXL.mem carries one (R410). -/
def hpaWf (hpa : BitVec 64) : Bool := hpa.toNat % 64 == 0

/-- A frame's data field of 2,000 bytes: 125 words of 16 bytes (R352). -/
def frameWf (f : Frame) : Bool := f.words.length ≤ 125

/-- A waiter names a core position and one of four line moves (R106, R313). -/
def waiterWf : Waiter → Bool
  | .core c => c.wf
  | .lmv c i => c.wf && i < 4
  | _ => true

/-- The bytes of a bus access: a write carries some, a read none (R402, R424). -/
def accessWf (wr : Bool) (data : List (BitVec 8)) : Bool := if wr then !data.isEmpty else data.isEmpty

/-- A command's operands name something the spec gives the block. -/
def Instr.wf : Instr → Bool
  | .nop w _ _ _ | .endCore w _ _ _ | .stwRd w _ _ _ | .stwRdc w _ _ _ | .sysRd w _ _ _ | .sysWr w _ _ _ | .pf w _ _
  | .clClean w _ _ | .clCinv w _ _ | .add w _ _ _ | .sub w _ _ _ | .and w _ _ _ | .or w _ _ _ | .xor w _ _ _ | .andn w _ _ _
  | .sll w _ _ _ | .srl w _ _ _ | .sra w _ _ _ | .min w _ _ _ | .max w _ _ _ | .minu w _ _ _ | .maxu w _ _ _ | .mul w _ _ _
  | .mulh w _ _ _ | .mulhu w _ _ _ | .div w _ _ _ | .divu w _ _ _ | .rem w _ _ _ | .remu w _ _ _ | .clz w _ _ _ | .ctz w _ _ _
  | .popc w _ _ _ | .sext8 w _ _ _ | .sext16 w _ _ _ | .sext32 w _ _ _ | .zext32 w _ _ _ | .addi w _ _ _ | .andi w _ _ _
  | .ori w _ _ _ | .xori w _ _ _ | .slli w _ _ _ _ | .srli w _ _ _ _ | .srai w _ _ _ _ | .movi w _ _ | .movkLo w _ _ _
  | .movkHi w _ _ _ | .brk w _ _ _ | .fadd w _ _ _ _ _ | .fsub w _ _ _ _ _ | .fmul w _ _ _ _ _ | .fdiv w _ _ _ _ _
  | .fsqrt w _ _ _ _ _ | .fmin w _ _ _ _ _ | .fmax w _ _ _ _ _ | .fmac w _ _ _ _ _ | .fcmpEq w _ _ _ _ _ | .fcmpLt w _ _ _ _ _
  | .fcmpLe w _ _ _ _ _ | .fcmpUn w _ _ _ _ _ | .fcvtFi w _ _ _ _ _ | .fcvtIf w _ _ _ _ _ | .fcvtFf w _ _ _ _ _ | .cmpEq w _ _ _
  | .cmpNe w _ _ _ | .cmpLt w _ _ _ | .cmpGe w _ _ _ | .cmpLtu w _ _ _ | .cmpGeu w _ _ _ | .cmpiEq w _ _ _ | .cmpiNe w _ _ _
  | .cmpiLt w _ _ _ | .cmpiGe w _ _ _ | .cmpiLtu w _ _ _ | .cmpiGeu w _ _ _ | .pand w _ _ _ | .por w _ _ _ | .pxor w _ _ _
  | .pandn w _ _ _ | .pnot w _ _ _ | .pSet w _ _ _ | .pGet w _ _ _ | .pAll w _ _ _ | .br w _ | .bl w _ | .jr w _ _ _
  | .jlr w _ _ _ | .ldS8 w _ _ _ | .ldU8 w _ _ _ | .ldS16 w _ _ _ | .ldU16 w _ _ _ | .ldS32 w _ _ _ | .ldU32 w _ _ _
  | .ld64 w _ _ _ | .st8 w _ _ _ | .st16 w _ _ _ | .st32 w _ _ _ | .st64 w _ _ _ | .ldPair w _ _ _ | .stPair w _ _ _
  | .stNt w _ _ _ | .lsLd64 w _ _ _ | .lsLdU32 w _ _ _ | .lsSt64 w _ _ _ | .lsSt32 w _ _ _ | .ld32Acq w _ _ _ _ _
  | .ld64Acq w _ _ _ _ _ | .st32Rel w _ _ _ _ _ | .st64Rel w _ _ _ _ _ | .amoAdd w _ _ _ _ _ _ | .amoAnd w _ _ _ _ _ _
  | .amoOr w _ _ _ _ _ _ | .amoXor w _ _ _ _ _ _ | .amoSwap w _ _ _ _ _ _ | .amoCas w _ _ _ _ _ _ | .amoMax w _ _ _ _ _ _
  | .amoMin w _ _ _ _ _ _ | .amoMinu w _ _ _ _ _ _ | .amoMaxu w _ _ _ _ _ _ | .ldRsv w _ _ _ _ _ _ | .stCnd w _ _ _ _ _ _
  | .redAddI32 w _ _ _ _ _ | .redAddI64 w _ _ _ _ _ | .redAddF32 w _ _ _ _ _ | .redAddBf16 w _ _ _ _ _ | .fenceAcq w _ _ _ _
  | .fenceRel w _ _ _ _ | .fenceAr w _ _ _ _ | .tokSend w _ _ _ | .tokWait w _ _ _ | .tokTest w _ _ _ | .tokRead w _ _ _
  | .strPutN w _ _ _ _ | .strGetP w _ _ _ _ | .strPutNTile w _ _ _ _ | .strGetPTile w _ _ _ _ | .lmvIn w _ _ _ _
  | .lmvOut w _ _ _ _ | .vadd w _ | .vsub w _ | .vmul w _ | .vfma w _ | .vmin w _ | .vmax w _ | .vabs w _ | .vneg w _ | .vdiv w _
  | .vsqrt w _ | .vand w _ | .vor w _ | .vxor w _ | .vandn w _ | .vsll w _ | .vsrl w _ | .vsra w _ | .vcmpEq w _ | .vcmpNe w _
  | .vcmpLt w _ | .vcmpLe w _ | .vsel w _ | .vcvt w _ | .vidx w _ | .vmov w _ | .vperm w _ | .vpermx w _ | .vrot w _ | .vrotr w _
  | .vtrans w _ | .vzero w _ | .vscanRow w _ _ _ _ _ | .vscanCol w _ _ _ _ _ | .vredRow w _ _ _ _ _ | .vredCol w _ _ _ _ _
  | .vcompRow w _ | .vcompTile w _ | .vld w _ | .vst w _ | .vgather w _ | .vscatter w _ | .tvShapei w _ | .tvShape w _
  | .tvGetshape w _ | .vext w _ | .vins w _ | .vbcast w _ | .mma w _ | .accZero w _ | .accLd w _ | .accSt w _ | .mq w _ => w.core.wf
  | .lmvComplete c i => c.wf && i < 4
  | .exceptionRecordWrite _ _ | .launchHalt _ | .tokenApply _ | .launchPrepare _ | .prepareDone _ _ | .launchStart _
  | .launchComplete _ | .pllStop _ | .pllRestart _ | .pllLock _ | .dcxInv _ _ | .dcxInvDone _ | .nmuAdd _ | .rmClean _ _ _
  | .rmInvalidate _ _ _ | .rmCleanInvalidate _ _ _ | .rmDone _ _ | .scrubOverrun _ _ | .rds _ _ | .rdx _ _ | .rdc _ _ | .wrp _ _
  | .red _ _ | .rdh _ | .wrh _ | .vcd _ _ | .vck _ _ | .vcn _ _ | .fsh _ _ | .fex _ _ | .frc _ _ | .inv _ _ | .bisnp _ | .cmp _ _
  | .gnt _ _ | .ack _ _ | .fak _ _ | .iak _ _ | .npr _ _ | .npd _ _ | .vpd _ _ | .ncx _ _ | .rty _ _ | .crg _ _ | .dat _ _
  | .fdt _ _ | .hdt _ | .clusterReclaimScan _ _ | .hostReclaimScan _ | .fabDrainedRead _ | .svpDrainedRead _ | .svpFlushTimer
  | .walkDone _ _ | .fqBatchClose | .fqBatchWritten | .ovfBatchForm | .xltResolveRetry _ | .xltResolveFatal _ | .xltInvRange _
  | .xltInvContext _ | .xltInvDone | .xltOwnTagWrite _ _ | .xltFqRdWrite _ _ | .descRetranslate _ | .doorbell _ _ _
  | .ringEnable _ _ | .ringDisable _ _ | .commandTake | .commandStart _ | .waitGatePoll _ | .nopCommand _ | .launch _ | .dma _
  | .dmaComplete _ | .collective _ | .fence _ | .fenceComplete _ _ | .bias _ | .prefetch _ | .adviseMigrate _ | .energyMark _
  | .stepBegin _ | .stepStart _ | .stepEnd _ | .stepEndEffect _ _ | .eventRecordWrite _ | .evrdWrite _ _ _ | .launchAbort _ _ _
  | .contextClosed _ | .fabAckTimeout _ | .fabNakResend _ | .fabDestDead _ | .fabCombineTimeout _ | .flowEntryFree _ _
  | .fabTabInv _ | .fabDeadClr _ _ _ | .tsySend | .tsLockTimeout | .treeLoad _ _ | .treeUnload _ _ | .przHbTimer _ _
  | .przNeighbourLost _ _ | .joinTimeout _ | .przReissue _ | .rootSettleTimeout _ | .collectiveComplete _ | .hdmCommit _
  | .configRequest _ _ _ | .assertInta | .deassertInta | .d3hotEntry | .d3coldEntry | .d0Return | .l0sEntry | .l1Entry
  | .hostLinkRetrain _ | .hostLinkDown _ | .hostLossTimeout | .hostLinkReinit | .hptBiasToDevice _ _ | .hptBiasToShared _ _
  | .hwinHostToDevice _ _ | .hwinDeviceToHost _ _ | .hwinCompletionTimeout | .svpCfgRead _ _ | .svpCfgWrite _ _
  | .svpCfgComplete _ _ | .svpPresenceChange _ | .slotPowerOn _ _ | .slotPowerFault | .svpLinkUp _ _ | .slotResetRelease
  | .attnButton | .surpriseRemoval _ | .svpDestDead _ | .svpDeadClear _ _ | .assertIntx _ | .deassertIntx _ | .svpErrMessage _
  | .strobeWrite _ _ _ | .strobeSet _ _ | .strobeApply _ | .g1Timeout _ | .gctlUnlock _ _ | .g2LockTimeout _
  | .triplicateVote _ _ _ _ | .gctlCntReset _ _ | .bondParityError _ _ | .timeMark _ | .modelUncalibrated | .railSettled _
  | .proofEngage _ | .proofRelease _ | .proofReleaseCmd _ | .droopDetect _ | .droopClear _ | .thermalThrottle _ _ _
  | .thermalCeilingRaise _ _ _ | .thermalTrip _ _ _ | .coolantFlowLoss | .coolantFlowLow _ | .coolantFlowRestored _
  | .regulatorAlert | .regulatorAlertEnd | .supplySag _ _ _ | .faultReport _ | .mirrorPairFault _ | .gathererPoll _
  | .faultWindowClose _ | .faultDemote _ _ _ | .safeStateEntry | .fclCrumbRdWrite _ _ | .loupeSample _ | .stackRecalibration _ _ _
  | .sensorCalibration | .calCommit _ | .calReload _ | .calEraseDone | .calWinDataAccess _ _ _ | .wdogKick _ _ | .wdogExpire
  | .clusterWarmReset _ _ | .coldReset _ | .gctlColdRst _ | .bootStart _ | .bootStepDone _ | .bootStepTimeout
  | .imageVerify _ _ _ _ _ | .recoveryImage _ _ _ _ | .hostRelease | .aonPllLock _ | .refclkLoss | .refclkReturn | .phyrefLoss
  | .i3cWrite _ | .i3cRead _ _ | .debugRequest _ | .svpCompletion _ _ _ _ | .hwinCompletion _ _ _ _ | .hostLinkUp _ | .aspmExit
  | .svpLinkDown | .slotPowerOff _ _ | .slotPowerGood | .supplySagEnd _ _ | .phyrefReturn | .coolantFlowOkRise | .calCommitDone _ => true
  | .coreWake c | .tokWaitSatisfied c | .streamBeatArrive c _ | .streamCreditArrive c _ | .storeBufferDrain c | .cbIdleTimeout c _ => c.wf
  | .l1Fill c line => c.wf && lineWf line
  | .rsvHoldExpire _ line | .dcxExpand _ line | .scrubRead _ line _ | .homeAccept _ line | .bir line _ | .homeFwdTimeout _ line _ => lineWf line
  | .biasFlipScan _ page => page < 2 ^ 19
  | .xltRequest wt => waiterWf wt
  | .launchResume _ _ _ pos | .coreWarmReset _ _ pos | .warmResetDrainTimeout _ pos => pos.toNat < 160
  | .fabricFrameRx port f => portWf port && frameWf f
  | .fabPortRetrain port _ | .fabRetrainDone port _ | .fabPortRetrainCmd _ port | .fabWr port | .fabWrm port | .fabRd port
  | .pzd port | .fabAck port | .rdd port | .fabNak port | .tsy port | .przReady port | .przHb port | .przDone port
  | .przSummary port | .join port | .joinok port | .adopt port | .przAbort port | .leave port | .fabPortTrained port => portWf port
  | .memrd hpa _ | .memrddata hpa | .memwr hpa _ _ | .memwrptl hpa _ _ _ | .memspecrd hpa | .meminv hpa | .biconflict hpa
  | .h2dSnoop hpa => hpaWf hpa
  | .bar2Access wr _ _ data _ | .apertureRequest wr _ _ data _ _ => accessWf wr data
  | .registerWrite _ off _ | .g1FirstWrite _ off _ | .g1ComplementWrite _ off _ | .sqcClearWrite _ off _ | .shadowLoRead _ off => offWf off
  | .dieLinkFlit link _ _ | .linkHandshake link | .handshakeStepTimeout link _ | .linkHoldRelease _ link | .linkHoldCmd _ link
  | .d2dReset _ link _ | .d2dRetrain _ link | .sbsDrop link | .d2dTestMode _ link _ _ => linkWf link
  | .handshakeAttempt link m => linkWf link && m.down.length ≤ 96 && m.up.length ≤ 96
  | .powerPass i => i.dieNeed.length ≤ 4 && i.dieShare.length ≤ 4
  | .activityModelTick i => i.current.length ≤ 4
  | .telemetryFrame rail _ _ _ _ => rail.toNat < 11
  | .warmResetDone _ core pos => !core || pos.toNat < 160

end Sys2Proof
end

