-- ==== Sys2Proof/Certificates/Slice0/Obligations.lean ====
section
/-! DEFINITION. The statements for the provers, one Prop each; OBLIGATIONS.json lists them. A statement that an instruction
completes says so for every state and operands that meet its hypotheses, and gives the next state. -/

open Sys2Proof Sys2Proof.Machine

/-- The model's own frame (a block takes commands in order): a step is the front command's meaning on the rest. -/
def Obligations.StepTakesFrontCommand : Prop :=
  ∀ (c : Instr) (rest : List Instr) (s : State), s.pending = c :: rest → step s = exec c { s with pending := rest }

/-- A step on an empty queue is one slow cycle: the model's choice (log entry 2); what TS64 does in it is R525. -/
def Obligations.EmptyQueueStepCountsTime : Prop :=
  ∀ s : State, s.pending = [] →
    (∃ t, step s = .next t) ∧
    (s.aonUp = false → step s = .next s) ∧
    (s.aonUp = true → s.tsRate = .nominal → s.tsFrac = 0 →
      s.boot.inReset = true ∨ (s.fcl.safe = true ∧ wdogOn s = false) → step s = .next { s with ts := s.ts + 80 })

/-- Reset, by the values that the spec gives. -/
def Obligations.ResetStateHolds : Prop :=
  let s := State.reset
  s.pending = [] ∧ s.ts = 0 ∧ s.aonUp = false ∧ s.boot.inReset = true ∧
  (∀ c, (s.cluster c).pll = .stopped ∧ (s.cluster c).l2 = [] ∧ (s.cluster c).tlb = [] ∧ (s.cluster c).miss = [] ∧
    (s.cluster c).wb = [] ∧ (s.cluster c).run = none) ∧
  (∀ c, (s.core c).st = .idle ∧ (s.core c).xcfg = 0 ∧ (s.core c).l1 = [] ∧ (s.core c).victim = [] ∧ (s.core c).ic = [] ∧
    (s.core c).rsv = none) ∧
  s.mem.bcc = [] ∧ s.mem.dir = [] ∧ (∀ die page, ownerAt s.mem die page = 0 ∧ sharedAt s.mem die page = false) ∧
  s.regs.limSust = ⟨2400, 2400, 2400⟩ ∧ s.regs.limPeak = ⟨3000, 3000, 3000⟩ ∧ s.regs.cnt = [] ∧ s.regs.pend = [] ∧
  s.regs.strobes = [] ∧ s.net = [] ∧ s.fab.sent = [] ∧ s.hpt.reqs = [] ∧ s.svp.reqs = [] ∧ s.dsp.launches = []

/-- No command breaks the canonical form of memory. -/
def Obligations.EveryStepKeepsMemoryCanonical : Prop :=
  ∀ s t : State, Memory.wf s.mem.cells = true → step s = .next t → Memory.wf t.mem.cells = true

/-- The base of the invariant. -/
def Obligations.ResetMemoryCanonical : Prop :=
  Memory.wf State.reset.mem.cells = true ∧ ∀ a, rdByte State.reset.mem.cells a = 0

/-- The fuses are fixed, and a command affects everything but the queue. -/
def Obligations.EveryStepKeepsFusesAndTakesOneCommand : Prop :=
  ∀ s t : State, step s = .next t → t.fuse = s.fuse ∧ t.pending = s.pending.tail

/-- R78: each operation with its result. -/
def Obligations.IntegerRegisterOperations : Prop :=
  ∀ (w : Who) (d a b : BitVec 5) (s : State), issues s w 4 = true →
    let two := fun (v : Word → Word → Word) =>
      (.next (s.modCore w.core fun c => (c.setS d (v (c.rs a) (c.rs b))).adv 4) : Out)
    let one := fun (v : Word → Word) => (.next (s.modCore w.core fun c => (c.setS d (v (c.rs a))).adv 4) : Out)
    let most : Word := 0x8000000000000000
    exec (.add w d a b) s = two (fun x y => x + y) ∧
    exec (.sub w d a b) s = two (fun x y => x - y) ∧
    exec (.and w d a b) s = two (fun x y => x &&& y) ∧
    exec (.or w d a b) s = two (fun x y => x ||| y) ∧
    exec (.xor w d a b) s = two (fun x y => x ^^^ y) ∧
    exec (.andn w d a b) s = two (fun x y => x &&& ~~~y) ∧
    exec (.sll w d a b) s = two (fun x y => x <<< (y.toNat % 64)) ∧
    exec (.srl w d a b) s = two (fun x y => x >>> (y.toNat % 64)) ∧
    exec (.sra w d a b) s = two (fun x y => x.sshiftRight (y.toNat % 64)) ∧
    exec (.min w d a b) s = two (fun x y => if x.toInt < y.toInt then x else y) ∧
    exec (.max w d a b) s = two (fun x y => if x.toInt < y.toInt then y else x) ∧
    exec (.minu w d a b) s = two (fun x y => if x.toNat < y.toNat then x else y) ∧
    exec (.maxu w d a b) s = two (fun x y => if x.toNat < y.toNat then y else x) ∧
    exec (.mul w d a b) s = two (fun x y => x * y) ∧
    exec (.mulh w d a b) s = two (fun x y => BitVec.ofInt 64 (x.toInt * y.toInt / 2 ^ 64)) ∧
    exec (.mulhu w d a b) s = two (fun x y => BitVec.ofNat 64 (x.toNat * y.toNat / 2 ^ 64)) ∧
    exec (.div w d a b) s = two (fun x y =>
      if y = 0 then BitVec.allOnes 64 else if x = most ∧ y = -1 then x else BitVec.ofInt 64 (x.toInt.tdiv y.toInt)) ∧
    exec (.divu w d a b) s = two (fun x y => if y = 0 then BitVec.allOnes 64 else BitVec.ofNat 64 (x.toNat / y.toNat)) ∧
    exec (.rem w d a b) s = two (fun x y =>
      if y = 0 then x else if x = most ∧ y = -1 then 0 else BitVec.ofInt 64 (x.toInt - x.toInt.tdiv y.toInt * y.toInt)) ∧
    exec (.remu w d a b) s = two (fun x y => if y = 0 then x else BitVec.ofNat 64 (x.toNat % y.toNat)) ∧
    (b = 0 →
      (∃ n : Word → Nat, exec (.clz w d a b) s = one (fun x => BitVec.ofNat 64 (n x)) ∧
        ∀ x, n x ≤ 64 ∧ (∀ i, 64 - n x ≤ i → x.getLsbD i = false) ∧ (n x < 64 → x.getLsbD (63 - n x) = true)) ∧
      (∃ n : Word → Nat, exec (.ctz w d a b) s = one (fun x => BitVec.ofNat 64 (n x)) ∧
        ∀ x, n x ≤ 64 ∧ (∀ i, i < n x → x.getLsbD i = false) ∧ (n x < 64 → x.getLsbD (n x) = true)) ∧
      exec (.popc w d a b) s = one (fun x => BitVec.ofNat 64 (((List.range 64).filter fun i => x.getLsbD i).length)) ∧
      exec (.sext8 w d a b) s = one (fun x => (x.extractLsb' 0 8).signExtend 64) ∧
      exec (.sext16 w d a b) s = one (fun x => (x.extractLsb' 0 16).signExtend 64) ∧
      exec (.sext32 w d a b) s = one (fun x => (x.extractLsb' 0 32).signExtend 64) ∧
      exec (.zext32 w d a b) s = one (fun x => (x.extractLsb' 0 32).setWidth 64))

/-- R79: each instruction with its result. -/
def Obligations.ImmediateAndConstantInstructions : Prop :=
  ∀ (w : Who) (d a : BitVec 5) (s : State), issues s w 4 = true →
    let put := fun (v : Word → Word) => (.next (s.modCore w.core fun c => (c.setS d (v (c.rs a))).adv 4) : Out)
    (∀ imm : BitVec 12,
      exec (.addi w d a imm) s = put (fun x => x + imm.signExtend 64) ∧
      exec (.andi w d a imm) s = put (fun x => x &&& imm.signExtend 64) ∧
      exec (.ori w d a imm) s = put (fun x => x ||| imm.signExtend 64) ∧
      exec (.xori w d a imm) s = put (fun x => x ^^^ imm.signExtend 64)) ∧
    (∀ sh : BitVec 6,
      exec (.slli w d a 0 sh) s = put (fun x => x <<< sh.toNat) ∧
      exec (.srli w d a 0 sh) s = put (fun x => x >>> sh.toNat) ∧
      exec (.srai w d a 0 sh) s = put (fun x => x.sshiftRight sh.toNat)) ∧
    (∀ imm : BitVec 17, exec (.movi w d imm) s = put (fun _ => imm.signExtend 64)) ∧
    (∀ imm : BitVec 16, ∃ r : Bool → Bool → Word → Word,
      (∀ hw, exec (.movkLo w d hw imm) s = .next (s.modCore w.core fun c => (c.setS d (r false hw (c.rs d))).adv 4)) ∧
      (∀ hw, exec (.movkHi w d hw imm) s = .next (s.modCore w.core fun c => (c.setS d (r true hw (c.rs d))).adv 4)) ∧
      ∀ hi hw x i, i < 64 → (r hi hw x).getLsbD i =
        (let k := (if hi then 32 else 0) + (if hw then 16 else 0)
         if k ≤ i ∧ i < k + 16 then imm.getLsbD (i - k) else x.getLsbD i))

/-- R82: each instruction with its result; a predicate field is a 5-bit number below 8. -/
def Obligations.CompareAndPredicateInstructions : Prop :=
  ∀ (w : Who) (d a b : BitVec 5) (imm : BitVec 12) (p q r : BitVec 3) (s : State), issues s w 4 = true →
    let pd : BitVec 5 := p.setWidth 5
    let pa : BitVec 5 := q.setWidth 5
    let pb : BitVec 5 := r.setWidth 5
    let cmp := fun (v : Word → Word → Bool) =>
      (.next (s.modCore w.core fun c => (c.setP p (v (c.rs a) (c.rs b))).adv 4) : Out)
    let cmpi := fun (v : Word → Word → Bool) =>
      (.next (s.modCore w.core fun c => (c.setP p (v (c.rs a) (imm.signExtend 64))).adv 4) : Out)
    let pred := fun (v : CoreSt → Bool) => (.next (s.modCore w.core fun c => (c.setP p (v c)).adv 4) : Out)
    let reg := fun (v : CoreSt → Word) => (.next (s.modCore w.core fun c => (c.setS d (v c)).adv 4) : Out)
    exec (.cmpEq w pd a b) s = cmp (fun x y => x == y) ∧
    exec (.cmpNe w pd a b) s = cmp (fun x y => x != y) ∧
    exec (.cmpLt w pd a b) s = cmp (fun x y => x.slt y) ∧
    exec (.cmpGe w pd a b) s = cmp (fun x y => y.sle x) ∧
    exec (.cmpLtu w pd a b) s = cmp (fun x y => x.ult y) ∧
    exec (.cmpGeu w pd a b) s = cmp (fun x y => y.ule x) ∧
    exec (.cmpiEq w pd a imm) s = cmpi (fun x y => x == y) ∧
    exec (.cmpiNe w pd a imm) s = cmpi (fun x y => x != y) ∧
    exec (.cmpiLt w pd a imm) s = cmpi (fun x y => x.slt y) ∧
    exec (.cmpiGe w pd a imm) s = cmpi (fun x y => y.sle x) ∧
    exec (.cmpiLtu w pd a imm) s = cmpi (fun x y => x.ult y) ∧
    exec (.cmpiGeu w pd a imm) s = cmpi (fun x y => y.ule x) ∧
    exec (.pand w pd pa pb) s = pred (fun c => c.rp q && c.rp r) ∧
    exec (.por w pd pa pb) s = pred (fun c => c.rp q || c.rp r) ∧
    exec (.pxor w pd pa pb) s = pred (fun c => c.rp q != c.rp r) ∧
    exec (.pandn w pd pa pb) s = pred (fun c => c.rp q && !c.rp r) ∧
    exec (.pnot w pd pa 0) s = pred (fun c => !c.rp q) ∧
    exec (.pSet w pd a 0) s = pred (fun c => (c.rs a).getLsbD 0) ∧
    exec (.pGet w d pa 0) s = reg (fun c => if c.rp q then 1 else 0) ∧
    (∃ v : CoreSt → Word, exec (.pAll w d 0 0) s = reg v ∧
      ∀ c i, i < 64 → (v c).getLsbD i = (decide (i < 8) && c.rp (BitVec.ofNat 3 i)))

/-- R83, on targets that R84 does not turn away. -/
def Obligations.BranchesAndJumps : Prop :=
  ∀ (w : Who) (d a : BitVec 5) (imm : BitVec 22) (s : State), issues s w 4 = true →
    exec (.br w imm) s = .next (s.modCore w.core fun c => { c with pc := c.pc + 4 * imm.signExtend 64 }) ∧
    exec (.bl w imm) s = .next (s.modCore w.core fun c => { c.setS 31 (c.pc + 4) with pc := c.pc + 4 * imm.signExtend 64 }) ∧
    (((s.core w.core).rs a).extractLsb' 0 2 = 0 →
      exec (.jr w 0 a 0) s = .next (s.modCore w.core fun c => { c with pc := c.rs a }) ∧
      exec (.jlr w d a 0) s = .next (s.modCore w.core fun c => { c.setS d (c.pc + 4) with pc := c.rs a }))

/-- R110 with R99, R46 and R65. The counter of free values moves where cyc, a free value, could have been read (log entry 21). -/
def Obligations.SystemInstructions : Prop :=
  ∀ (w : Who) (d a : BitVec 5) (imm : BitVec 12) (s : State), issues s w 4 = true →
    exec (.nop w 0 0 0) s = .next (s.modCore w.core fun c => c.adv 4) ∧
    (noMoves (s.core w.core) = true → exec (.endCore w 0 0 0) s = .next (s.modCore w.core fun c =>
      { c.adv 4 with st := .idle, rsv := none, fetched := none, cb := c.cb.map fun l => { l with flush := true } })) ∧
    (noMoves (s.core w.core) = false → exec (.endCore w 0 0 0) s = .next s) ∧
    exec (.stwRd w d 0 0) s = .next (s.modCore w.core fun c => (c.setS d (c.fsr.setWidth 64)).adv 4) ∧
    exec (.stwRd w d 1 0) s = .next (s.modCore w.core fun c => (c.setS d (c.vsw.setWidth 64)).adv 4) ∧
    exec (.stwRd w d 2 0) s = .next (s.modCore w.core fun c => (c.setS d (if c.fns then 1 else 0)).adv 4) ∧
    exec (.stwRd w d 3 0) s = .next (s.modCore w.core fun c => (c.setS d (if c.tks then 1 else 0)).adv 4) ∧
    exec (.stwRdc w d 0 0) s = .next (s.modCore w.core fun c => { (c.setS d (c.fsr.setWidth 64)).adv 4 with fsr := 0 }) ∧
    exec (.stwRdc w d 1 0) s = .next (s.modCore w.core fun c => { (c.setS d (c.vsw.setWidth 64)).adv 4 with vsw := 0 }) ∧
    exec (.stwRdc w d 2 0) s = .next (s.modCore w.core fun c => { (c.setS d (if c.fns then 1 else 0)).adv 4 with fns := false }) ∧
    exec (.stwRdc w d 3 0) s = .next (s.modCore w.core fun c => { (c.setS d (if c.tks then 1 else 0)).adv 4 with tks := false }) ∧
    (∀ v, sysReg s w.core imm.toNat = some v →
      exec (.sysRd w d 0 imm) s =
        .next ({ s with free := s.free + 1 }.modCore w.core fun c => (c.setS d v).adv 4)) ∧
    exec (.sysWr w 0 a 0x00D) s = .next (s.modCore w.core fun c => { c.adv 4 with xcfg := (c.rs a).extractLsb' 0 5 }) ∧
    (∃ t, exec (.brk w 0 0 imm) s = .next t ∧
      (t.core w.core).pc = (s.core w.core).pc + 4 ∧ ((t.core w.core).st = .waiting ∨ (t.core w.core).st = .halted) ∧
      (t.core w.core).s = (s.core w.core).s ∧ (t.core w.core).p = (s.core w.core).p)

/-- R32, row by row. -/
def Obligations.SystemRegisterValues : Prop :=
  ∀ (s : State) (core : CoreId) (r : RunInfo), (s.cluster core.cl).run = some r →
    sysReg s core 0x000 = some (BitVec.ofNat 64 (core.cl.toNat * 256 + core.pos.toNat)) ∧
    sysReg s core 0x001 = some (BitVec.ofNat 64
      (((List.range core.pos.toNat).filter fun i => enabledPos s core.cl i).length)) ∧
    sysReg s core 0x002 = some (BitVec.ofNat 64 (((List.range 160).filter fun i => enabledPos s core.cl i).length)) ∧
    sysReg s core 0x003 = some (BitVec.ofNat 64 r.nrun) ∧
    sysReg s core 0x004 = some (BitVec.ofNat 64 r.gidx) ∧
    sysReg s core 0x005 = some (BitVec.ofNat 64 r.gsize) ∧
    sysReg s core 0x006 = some (r.ctx.setWidth 64) ∧
    sysReg s core 0x007 = some r.arg ∧
    sysReg s core 0x008 = some (r.lseq.setWidth 64) ∧
    sysReg s core 0x009 = some s.ts ∧
    (∃ v, sysReg s core 0x00A = some v) ∧
    sysReg s core 0x00B = some (BitVec.ofNat 64 (fmaxOf s core)) ∧
    sysReg s core 0x00C = some ((s.core core).ovf.setWidth 64) ∧
    sysReg s core 0x00D = some ((s.core core).xcfg.setWidth 64) ∧
    (∀ n, 0x100 ≤ n → n < 0x400 → ∃ v, sysReg s core n = some v) ∧
    (∀ n, 0x00D < n → n < 0x100 ∨ 0x400 ≤ n → sysReg s core n = none)

/-- R71 over the formats. -/
def Obligations.FalseGuardSkipsTheInstruction : Prop :=
  ∀ (w : Who) (d a b : BitVec 5) (imm : BitVec 12) (off : BitVec 22) (fn : BitVec 7) (sz dir : Bool) (s : State),
    reaches s w = true → (w.n && w.p == 0) = false → guardOn (s.core w.core) w = false →
    let skip := fun (n : Nat) => (.next (s.modCore w.core fun c => c.adv n) : Out)
    exec (.add w d a b) s = skip 4 ∧ exec (.br w off) s = skip 4 ∧ exec (.jr w 0 a 0) s = skip 4 ∧
    exec (.st64 w d a imm) s = skip 4 ∧ exec (.ld64 w d a imm) s = skip 4 ∧ exec (.lsLd64 w d a imm) s = skip 4 ∧
    exec (.amoAdd w d a b 0 0 sz) s = skip 4 ∧ exec (.ldRsv w d a 0 0 0 sz) s = skip 4 ∧ exec (.redAddI64 w 0 a b 0 0) s = skip 4 ∧
    exec (.fenceAr w 0 0 0 1) s = skip 4 ∧ exec (.tokSend w (d &&& 0xF) a b) s = skip 4 ∧ exec (.tokWait w (d &&& 0xF) 0 b) s = skip 4 ∧
    exec (.strPutN w 0 a 0 dir) s = skip 4 ∧ exec (.lmvIn w d a b fn) s = skip 4 ∧ exec (.endCore w 0 0 0) s = skip 4 ∧
    exec (.brk w 0 0 imm) s = skip 4 ∧ exec (.sysRd w d 0 imm) s = skip 4 ∧ exec (.pf w a imm) s = skip 4 ∧
    ((s.core w.core).pc.toNat % 8 = 0 →
      (∀ f : TvWord, f.sr = false → tvLegal f (tyDefined f.ty) { ta := false } = true → exec (.vzero w f) s = skip 8) ∧
      (∀ f : AccWord, accPlain f = true → f.y = 0 → isAcc f.x = true → exec (.accZero w f) s = skip 8))

/-- R73 over the excluded field values of chapter 03. -/
def Obligations.UndefinedFieldsRaiseIllegalInstruction : Prop :=
  ∀ (w : Who) (d a b : BitVec 5) (imm : BitVec 12) (mz : BitVec 4) (sh : BitVec 6) (sc ord : BitVec 2) (sz : Bool) (s : State),
    reaches s w = true →
    let raises := fun (i : Instr) => ∃ word, exec i s = .next (raiseExc s w.core 0x01 0 word)
    (b ≠ 0 → raises (.clz w d a b) ∧ raises (.ctz w d a b) ∧ raises (.popc w d a b) ∧ raises (.sext8 w d a b) ∧
      raises (.sext16 w d a b) ∧ raises (.sext32 w d a b) ∧ raises (.zext32 w d a b) ∧ raises (.jlr w d a b) ∧
      raises (.ld32Acq w d a b sc ord) ∧ raises (.ldRsv w d a b sc ord sz) ∧ raises (.nop w d a b) ∧ raises (.endCore w d a b)) ∧
    (mz ≠ 0 → raises (.slli w d a mz sh) ∧ raises (.srli w d a mz sh) ∧ raises (.srai w d a mz sh)) ∧
    (7 < d.toNat → raises (.cmpEq w d a b) ∧ raises (.cmpiLt w d a imm) ∧ raises (.pand w d a b) ∧ raises (.pSet w d a b)) ∧
    (d ≠ 0 → raises (.jr w d a b) ∧ raises (.sysWr w d a imm) ∧ raises (.brk w d a imm) ∧ raises (.st32Rel w d a b sc ord) ∧
      raises (.redAddI32 w d a b sc ord) ∧ raises (.fenceAcq w d a b sc)) ∧
    (a ≠ 0 → raises (.sysRd w d a imm) ∧ raises (.pAll w d a b)) ∧
    (d.getLsbD 0 = true → raises (.ldPair w d a imm) ∧ raises (.stPair w d a imm)) ∧
    (3 < a.toNat → raises (.stwRd w d a b) ∧ raises (.stwRdc w d a b)) ∧
    (ord ≠ 1 → raises (.ld64Acq w d a b sc ord)) ∧ (ord ≠ 2 → raises (.st64Rel w d a b sc ord)) ∧
    (ord = 0 → sc ≠ 0 → raises (.amoSwap w d a b sc ord sz) ∧ raises (.stCnd w d a b sc ord sz)) ∧
    ((s.core w.core).pc.toNat % 8 ≠ 0 → (∀ f, raises (.vadd w f)) ∧ (∀ f, raises (.mma w f))) ∧
    (w.n = true → w.p = 0 → raises (.add w d a b) ∧ raises (.st8 w d a imm) ∧ raises (.tokTest w d a b))

/-- R63 to R67 by two instructions, one for each action. -/
def Obligations.ExceptionStopsCoreAndIsRecorded : Prop :=
  ∀ (w : Who) (a : BitVec 5) (imm : BitVec 12) (s : State) (r : RunInfo) (l : Launch) (rest : List Launch),
    issues s w 4 = true → (s.cluster w.core.cl).run = some r → s.dsp.launches = l :: rest → l.id = r.id →
    l.phase = .running → l.recs.length < 16 → (∀ x ∈ l.recs, x.pc ≠ (s.core w.core).pc) →
    let c := s.core w.core
    let rec1 := fun (code : BitVec 8) (halt : Bool) (addr word : Word) =>
      (⟨s.ts, code, halt, w.core.cl, w.core.pos, logicalIndex s w.core.cl w.core.pos.toNat, c.pc, addr, word, s.ts, s.ts, 1⟩ : ExcRec)
    (∃ t, exec (.brk w 0 0 imm) s = .next t ∧ (t.core w.core).st = (if l.nowait then .halted else .waiting) ∧
      (t.core w.core).rsv = none ∧ (t.core w.core).s = c.s ∧ (t.core w.core).pc = c.pc + 4 ∧
      t.dsp.launches = { l with
        recs := l.recs ++ [rec1 0x09 l.nowait 0 (encI w 0x0D 0 0 imm)]
        phase := if l.nowait then .halting else .running
        status := if l.nowait then stHalted else l.status } :: rest ∧ t.mem = s.mem) ∧
    ((c.rs a).extractLsb' 0 2 ≠ 0 →
      ∃ t, exec (.jr w 0 a 0) s = .next t ∧ (t.core w.core).st = .halted ∧ (t.core w.core).rsv = none ∧
        (t.core w.core).s = c.s ∧ (t.core w.core).pc = c.pc ∧
        t.dsp.launches = { l with
          recs := l.recs ++ [rec1 0x02 true (c.rs a) (encR w 0x1A 0 a 0 0)], phase := .halting, status := stHalted } :: rest ∧
        t.mem = s.mem)

/-- R72, with the refusals of R32. -/
def Obligations.SysregExceptionAndZeroRegisters : Prop :=
  ∀ (w : Who) (d a b : BitVec 5) (imm : BitVec 12) (s : State), issues s w 4 = true →
    (∀ (c : CoreSt) (v : Word) (x : Bool), c.rs 0 = 0 ∧ c.rp 0 = true ∧ c.setS 0 v = c ∧ c.setP 0 x = c) ∧
    exec (.add w 0 a b) s = .next (s.modCore w.core fun c => c.adv 4) ∧
    exec (.movi w 0 (imm.setWidth 17)) s = .next (s.modCore w.core fun c => c.adv 4) ∧
    exec (.cmpLt w 0 a b) s = .next (s.modCore w.core fun c => c.adv 4) ∧
    (sysReg s w.core imm.toNat = none →
      exec (.sysRd w d 0 imm) s = .next (raiseExc s w.core 0x03 0 (encI w 0x01 d 0 imm))) ∧
    (imm ≠ 0x00D → exec (.sysWr w 0 a imm) s = .next (raiseExc s w.core 0x03 0 (encI w 0x02 0 a imm)))

/-- R80 and R81. addFp to sqrtFp and toInt are the IEEE 754 operations of the scalar unit on decoded values, roundFp its rounding;
where IEEE 754 leaves tininess and one NaN case open they take a free value (log entry 20). -/
def Obligations.ScalarFloatInstructions : Prop :=
  ∀ (w : Who) (d a b : BitVec 5) (p : BitVec 3) (q : Bool) (rm : BitVec 2) (s : State), issues s w 4 = true →
    let c := s.core w.core
    let x := valQ q (c.rs a)
    let y := valQ q (c.rs b)
    let done := fun (i : Instr) (r : CoreSt × Flags) =>
      (r.2 &&& c.xcfg = 0 → exec i s = .next (s.modCore w.core fun _ => (r.1.addFsr r.2).adv 4)) ∧
      (r.2 &&& c.xcfg ≠ 0 → ∃ t, exec i s = .next t ∧ (t.core w.core).s = r.1.s ∧ (t.core w.core).p = r.1.p ∧
        (t.core w.core).fsr = c.fsr ||| r.2 ∧ (t.core w.core).pc = c.pc + 4 ∧
        ((t.core w.core).st = .waiting ∨ (t.core w.core).st = .halted))
    let rounded := fun (v : Fp) (f : Flags) => (c.setS d (BitVec.ofNat 64 (roundQ q rm v).1), f ||| (roundQ q rm v).2)
    done (.fadd w d a b q rm) (rounded (addFp (rm == 3) x y).1 (addFp (rm == 3) x y).2) ∧
    done (.fsub w d a b q rm) (rounded (addFp (rm == 3) x (negFp y)).1 (addFp (rm == 3) x (negFp y)).2) ∧
    done (.fmul w d a b q rm) (rounded (mulFp x y).1 (mulFp x y).2) ∧
    done (.fdiv w d a b q rm) (rounded (divFp x y).1 (divFp x y).2) ∧
    done (.fsqrt w d a 0 q rm) (rounded (sqrtFp x).1 (sqrtFp x).2) ∧
    done (.fmac w d a b q rm)
      (rounded (fmaFp (rm == 3) x y (valQ q (c.rs d))).1 (fmaFp (rm == 3) x y (valQ q (c.rs d))).2) ∧
    done (.fcvtFi w d a 0 q rm)
      (c.setS d (BitVec.ofInt 64 (toInt (.mode rm) (-(2 ^ 63)) (2 ^ 63 - 1) x).1), (toInt (.mode rm) (-(2 ^ 63)) (2 ^ 63 - 1) x).2) ∧
    done (.fcvtIf w d a 0 q rm)
      (c.setS d (BitVec.ofNat 64 (roundQ q rm (ofInt (c.rs a).toInt)).1), (roundQ q rm (ofInt (c.rs a).toInt)).2) ∧
    done (.fcvtFf w d a 0 q rm) (rounded (valQ (!q) (c.rs a)) (sigFlag (isSig (valQ (!q) (c.rs a))))) ∧
    done (.fcmpEq w (p.setWidth 5) a b q 0) (c.setP p (eqFp x y), sigFlag (isSig x || isSig y)) ∧
    done (.fcmpLt w (p.setWidth 5) a b q 0) (c.setP p (ltFp x y), sigFlag (isNan x || isNan y)) ∧
    done (.fcmpLe w (p.setWidth 5) a b q 0) (c.setP p (ltFp x y || eqFp x y), sigFlag (isNan x || isNan y)) ∧
    done (.fcmpUn w (p.setWidth 5) a b q 0) (c.setP p (isNan x || isNan y), sigFlag (isSig x || isSig y)) ∧
    (∀ zero : BitVec 2, zero = 0 →
      let plain := fun (v : Fp) (f : Flags) => (c.setS d (BitVec.ofNat 64 (roundQ q zero v).1), f ||| (roundQ q zero v).2)
      done (.fmin w d a b q zero) (plain (minFp x y).1 (minFp x y).2) ∧
      done (.fmax w d a b q zero) (plain (maxFp x y).1 (maxFp x y).2))

/-- R81's special values. -/
def Obligations.ScalarFloatSpecialResults : Prop :=
  ∀ (q sg : Bool) (rm : BitVec 2),
    (∀ v : Word, isNan (valQ q v) = true →
      BitVec.ofNat 64 (roundQ q rm (valQ q v)).1 = (if q then 0x7FC00000 else 0x7FF8000000000000) ∧
      (toInt (.mode rm) (-(2 ^ 63)) (2 ^ 63 - 1) (valQ q v)) = (0, 1)) ∧
    (let inf : Word := if q then (if sg then 0xFF800000 else 0x7F800000) else (if sg then 0xFFF0000000000000 else 0x7FF0000000000000)
     toInt (.mode rm) (-(2 ^ 63)) (2 ^ 63 - 1) (valQ q inf) = (if sg then -(2 ^ 63) else 2 ^ 63 - 1, 1)) ∧
    (let big : Word := if q then (if sg then 0xDF800000 else 0x5F800000) else (if sg then 0xC3F0000000000000 else 0x43F0000000000000)
     toInt (.mode rm) (-(2 ^ 63)) (2 ^ 63 - 1) (valQ q big) = (if sg then -(2 ^ 63) else 2 ^ 63 - 1, 1)) ∧
    (let zero : Word := 0
     let minus : Word := if q then 0x80000000 else 0x8000000000000000
     eqFp (valQ q zero) (valQ q minus) = true ∧ ltFp (valQ q minus) (valQ q zero) = false)

/-- R88. -/
def Obligations.LocalStoreInstructions : Prop :=
  ∀ (w : Who) (d a : BitVec 5) (imm : BitVec 12) (s : State), issues s w 4 = true →
    let c := s.core w.core
    let la := c.rs a + imm.signExtend 64
    let o := la.toNat
    let load := fun (n : Nat) => (.next (s.modCore w.core fun c =>
      (c.setS d (BitVec.ofNat 64 ((List.range n).foldr (fun i v => (rdByte c.ls (o + i)).toNat + 256 * v) 0))).adv 4) : Out)
    let stored := fun (i : Instr) (n : Nat) => Memory.wf c.ls = true →
      ∃ ls, exec i s = .next (s.modCore w.core fun c => { c.adv 4 with ls := ls }) ∧ Memory.wf ls = true ∧
        ∀ x, rdByte ls x = if o ≤ x ∧ x < o + n then (c.rs d).extractLsb' (8 * (x - o)) 8 else rdByte c.ls x
    (o % 8 = 0 → o + 8 ≤ 65536 → exec (.lsLd64 w d a imm) s = load 8 ∧ stored (.lsSt64 w d a imm) 8) ∧
    (o % 4 = 0 → o + 4 ≤ 65536 → exec (.lsLdU32 w d a imm) s = load 4 ∧ stored (.lsSt32 w d a imm) 4) ∧
    (o % 8 ≠ 0 → exec (.lsLd64 w d a imm) s = .next (raiseExc s w.core 0x02 la (encI w 0x2E d a imm)) ∧
      exec (.lsSt64 w d a imm) s = .next (raiseExc s w.core 0x02 la (encI w 0x2F d a imm))) ∧
    (o % 8 = 0 → 65536 < o + 8 → exec (.lsLd64 w d a imm) s = .next (raiseExc s w.core 0x07 la (encI w 0x2E d a imm)) ∧
      exec (.lsSt64 w d a imm) s = .next (raiseExc s w.core 0x07 la (encI w 0x2F d a imm))) ∧
    (o % 4 ≠ 0 → exec (.lsLdU32 w d a imm) s = .next (raiseExc s w.core 0x02 la (encI w 0x30 d a imm)) ∧
      exec (.lsSt32 w d a imm) s = .next (raiseExc s w.core 0x02 la (encI w 0x31 d a imm))) ∧
    (o % 4 = 0 → 65536 < o + 4 → exec (.lsLdU32 w d a imm) s = .next (raiseExc s w.core 0x07 la (encI w 0x30 d a imm)) ∧
      exec (.lsSt32 w d a imm) s = .next (raiseExc s w.core 0x07 la (encI w 0x31 d a imm)))

/-- R85 and R90 on a hit. -/
def Obligations.LoadsThatHitTheL1 : Prop :=
  ∀ (w : Who) (d a : BitVec 5) (imm : BitVec 12) (sc : BitVec 2) (s : State) (l : Leaf) (x : L1Line) (va : Word),
    issues s w 4 = true → quiet s w.core = true → atHand s w.core va .read l →
    destOf l = .device → aCache (attrOf s l) = true →
    mgetD none (s.core w.core).l1 (physOf l va.toNat / 64 % 512) = some x →
    x.line = physOf l va.toNat / 64 → x.ctx = ctxOf s w.core → x.poison = false →
    let off := physOf l va.toNat % 64
    let got := fun (n : Nat) (sext : Bool) => (.next (s.modCore w.core fun c =>
      (c.setS d (if sext then sext64 (8 * n) (lineNat x.data off n) else BitVec.ofNat 64 (lineNat x.data off n))).adv 4) : Out)
    ((s.core w.core).rs a + imm.signExtend 64 = va →
      exec (.ldS8 w d a imm) s = got 1 true ∧ exec (.ldU8 w d a imm) s = got 1 false ∧
      (va.toNat % 2 = 0 → exec (.ldS16 w d a imm) s = got 2 true ∧ exec (.ldU16 w d a imm) s = got 2 false) ∧
      (va.toNat % 4 = 0 → exec (.ldS32 w d a imm) s = got 4 true ∧ exec (.ldU32 w d a imm) s = got 4 false) ∧
      (va.toNat % 8 = 0 → exec (.ld64 w d a imm) s = got 8 false) ∧
      (va.toNat % 8 = 0 → d.getLsbD 0 = false → off < 56 → (s.core w.core).pairLo = none →
        exec (.ldPair w d a imm) s = .next (s.modCore w.core fun c =>
          ((c.setS d (lineWord x.data off 8)).setS (d + 1) (lineWord x.data (off + 8) 8)).adv 4))) ∧
    ((s.core w.core).rs a = va →
      (va.toNat % 4 = 0 → exec (.ld32Acq w d a 0 sc 1) s = got 4 false) ∧
      (va.toNat % 8 = 0 → exec (.ld64Acq w d a 0 sc 1) s = got 8 false))

/-- R279 for the 8-byte load. -/
def Obligations.LoadForwardsFromStoreBuffer : Prop :=
  ∀ (w : Who) (d a : BitVec 5) (imm : BitVec 12) (s : State) (l : Leaf) (e : SbEntry) (older younger : List SbEntry),
    let va := (s.core w.core).rs a + imm.signExtend 64
    let m := maskAt (physOf l va.toNat % 64) 8
    issues s w 4 = true → va.toNat % 8 = 0 → atHand s w.core va .read l → destOf l = .device → aDevo (attrOf s l) = false →
    (s.core w.core).cb = [] → noMoves (s.core w.core) = true → (s.core w.core).sb = older ++ e :: younger →
    e.kind = .store → e.dest = .device → e.pa / 64 = physOf l va.toNat / 64 → e.mask &&& m ≠ 0 →
    (∀ y ∈ younger, y.kind = .store ∧ (y.dest ≠ .device ∨ y.pa / 64 ≠ e.pa / 64 ∨ y.mask &&& m = 0)) →
    exec (.ld64 w d a imm) s =
      if m &&& ~~~e.mask = 0 then
        .next (s.modCore w.core fun c => (c.setS d (lineWord e.data (physOf l va.toNat % 64) 8)).adv 4)
      else .next s

/-- R85 and R86. -/
def Obligations.LoadPoisonAndMisalignment : Prop :=
  ∀ (w : Who) (d a : BitVec 5) (imm : BitVec 12) (s : State), issues s w 4 = true →
    let va := (s.core w.core).rs a + imm.signExtend 64
    (va.toNat % 8 ≠ 0 → exec (.ld64 w d a imm) s = .next (raiseExc s w.core 0x02 va (encI w 0x26 d a imm)) ∧
      exec (.st64 w d a imm) s = .next (raiseExc s w.core 0x02 va (encI w 0x2A d a imm))) ∧
    (∀ (l : Leaf) (x : L1Line), va.toNat % 8 = 0 → quiet s w.core = true → atHand s w.core va .read l →
      destOf l = .device → aCache (attrOf s l) = true →
      mgetD none (s.core w.core).l1 (physOf l va.toNat / 64 % 512) = some x →
      x.line = physOf l va.toNat / 64 → x.ctx = ctxOf s w.core → x.poison = true →
      ∃ t, exec (.ld64 w d a imm) s = .next t ∧ (t.core w.core).st = .halted ∧ (t.core w.core).s = (s.core w.core).s ∧
        (t.core w.core).pc = (s.core w.core).pc)

/-- R278 for each instruction that retires into the buffer. -/
def Obligations.StoresEnterTheStoreBuffer : Prop :=
  ∀ (w : Who) (d a b : BitVec 5) (imm : BitVec 12) (sc : BitVec 2) (s : State) (l : Leaf) (va : Word),
    issues s w 4 = true → (s.core w.core).sb.length < 8 → (s.core w.core).cb = [] → noMoves (s.core w.core) = true →
    let c := s.core w.core
    let enters := fun (i : Instr) (k : SbKind) (n v : Nat) (rel : Bool) (scope : BitVec 2) =>
      ∃ e, exec i s = .next (s.modCore w.core fun c => { c.adv 4 with sb := c.sb ++ [e], rsv := none }) ∧
        holdsAccess s w.core k l va n v e ∧ e.rel = rel ∧ e.scope = scope
    (atHand s w.core va .write l →
      (c.rs a + imm.signExtend 64 = va →
        enters (.st8 w d a imm) .store 1 (c.rs d).toNat false 0 ∧
        (va.toNat % 2 = 0 → enters (.st16 w d a imm) .store 2 (c.rs d).toNat false 0) ∧
        (va.toNat % 4 = 0 → enters (.st32 w d a imm) .store 4 (c.rs d).toNat false 0) ∧
        (va.toNat % 8 = 0 → enters (.st64 w d a imm) .store 8 (c.rs d).toNat false 0) ∧
        (va.toNat % 8 = 0 → va.toNat % 64 ≤ 48 → d.getLsbD 0 = false →
          enters (.stPair w d a imm) .store 16 ((c.rs d).toNat + (c.rs (d + 1)).toNat * 2 ^ 64) false 0) ∧
        (va.toNat % 8 = 0 → aDevo (attrOf s l) = true → enters (.stNt w d a imm) .store 8 (c.rs d).toNat false 0)) ∧
      (c.rs a = va →
        (va.toNat % 4 = 0 → enters (.st32Rel w 0 a b sc 2) .store 4 (c.rs b).toNat true sc) ∧
        (va.toNat % 8 = 0 → enters (.st64Rel w 0 a b sc 2) .store 8 (c.rs b).toNat true sc)) ∧
      (c.rs a = va → destOf l = .device →
        (va.toNat % 4 = 0 → enters (.redAddI32 w 0 a b sc 2) (.red .i32) 4 (c.rs b).toNat true sc ∧
          enters (.redAddI32 w 0 a b 0 0) (.red .i32) 4 (c.rs b).toNat false 0 ∧
          enters (.redAddF32 w 0 a b sc 2) (.red .f32) 4 (c.rs b).toNat true sc ∧
          enters (.redAddF32 w 0 a b 0 0) (.red .f32) 4 (c.rs b).toNat false 0) ∧
        (va.toNat % 8 = 0 → enters (.redAddI64 w 0 a b sc 2) (.red .i64) 8 (c.rs b).toNat true sc ∧
          enters (.redAddI64 w 0 a b 0 0) (.red .i64) 8 (c.rs b).toNat false 0) ∧
        (va.toNat % 2 = 0 → enters (.redAddBf16 w 0 a b sc 2) (.red .bf16) 2 (c.rs b).toNat true sc ∧
          enters (.redAddBf16 w 0 a b 0 0) (.red .bf16) 2 (c.rs b).toNat false 0))) ∧
    (atHand s w.core va .read l → c.rs a + imm.signExtend 64 = va → destOf l = .device →
      (∃ e, exec (.clClean w a imm) s = .next (s.modCore w.core fun c => { c.adv 4 with sb := c.sb ++ [e] }) ∧
        e.kind = .clean ∧ e.dest = .device ∧ e.pa = physOf l (va &&& ~~~63#64).toNat ∧ e.sent = false) ∧
      (∃ e, exec (.clCinv w a imm) s = .next (s.modCore w.core fun c => { c.adv 4 with sb := c.sb ++ [e] }) ∧
        e.kind = .cinv ∧ e.dest = .device ∧ e.pa = physOf l (va &&& ~~~63#64).toNat ∧ e.sent = false))

/-- Where a store goes and what it leaves alone: the address is the one the meaning computes, physOf of the effective address. -/
def Obligations.StoreIsSeenByItsOwnCore : Prop :=
  ∀ (w : Who) (d a : BitVec 5) (imm : BitVec 12) (s : State) (l : Leaf),
    let va := (s.core w.core).rs a + imm.signExtend 64
    let pa := physOf l va.toNat
    issues s w 4 = true → va.toNat % 8 = 0 → pa % 8 = 0 → atHand s w.core va .write l → destOf l = .device →
    (s.core w.core).sb.length < 8 → (s.core w.core).cb = [] → noMoves (s.core w.core) = true →
    ∃ t, exec (.st64 w d a imm) s = .next t ∧
      (∀ x, byteSeen t w.core x =
        if pa ≤ x ∧ x < pa + 8 then ((s.core w.core).rs d).extractLsb' (8 * (x - pa)) 8 else byteSeen s w.core x) ∧
      (∀ x, byteAt t x = byteAt s x) ∧ onlyCore s t w.core ∧
      (t.core w.core).s = (s.core w.core).s ∧ (t.core w.core).p = (s.core w.core).p ∧ (t.core w.core).ls = (s.core w.core).ls ∧
      (t.core w.core).rsv = none ∧ (t.core w.core).pc = (s.core w.core).pc + 4

/-- R87 and R280. -/
def Obligations.NonTemporalStoresCombine : Prop :=
  ∀ (w : Who) (d a : BitVec 5) (imm : BitVec 12) (s : State) (l : Leaf),
    let c := s.core w.core
    let va := c.rs a + imm.signExtend 64
    let pa := physOf l va.toNat
    issues s w 4 = true → va.toNat % 8 = 0 → atHand s w.core va .write l → aDevo (attrOf s l) = false →
    c.sb = [] → noMoves c = true → (s.cluster w.core.cl).outw = [] →
    (c.cb.find? (fun x => x.dest == destOf l && x.line == pa / 64) = none → c.cb.length < 4 →
      ∃ x, exec (.stNt w d a imm) s = .next (s.modCore w.core fun c => { c.adv 4 with cb := c.cb ++ [x], rsv := none }) ∧
        x.dest = destOf l ∧ x.line = pa / 64 ∧ x.mask = maskAt (pa % 64) 8 ∧ x.data = lineAt (pa % 64) 8 (c.rs d).toNat ∧
        x.flush = false ∧ x.sent = false ∧ x.pc = c.pc) ∧
    (∀ x, c.cb = [x] → x.dest = destOf l → x.line = pa / 64 → x.sent = false →
      exec (.stNt w d a imm) s = .next (s.modCore w.core fun c => { c.adv 4 with
        rsv := none
        cb := [{ x with
          mask := x.mask ||| maskAt (pa % 64) 8
          data := mergeLine x.data (maskAt (pa % 64) 8) (lineAt (pa % 64) 8 (c.rs d).toNat)
          flush := x.flush || (x.mask ||| maskAt (pa % 64) 8) == Mask.full }] })) ∧
    (∀ x r, c.cb = x :: r → r.length = 3 → c.cb.find? (fun x => x.dest == destOf l && x.line == pa / 64) = none →
      ∃ t, exec (.stNt w d a imm) s = .next t ∧ onlyCore s t w.core ∧ (t.core w.core).pc = c.pc ∧
        ((t.core w.core).cb.head?.map (·.flush)) = some true ∧ (t.core w.core).cb.length = 4)

/-- R91 on an owned line. -/
def Obligations.AtomicsReadAndUpdateOwnedLines : Prop :=
  ∀ (w : Who) (d a b : BitVec 5) (sc ord : BitVec 2) (sz : Bool) (s : State) (l : Leaf) (key : Nat) (way : L2Way),
    let c := s.core w.core
    let va := c.rs a
    let pa := physOf l va.toNat
    let n := if sz then 8 else 4
    issues s w 4 = true → (ord = 0 → sc = 0) → va.toNat % n = 0 → atHand s w.core va .rw l → destOf l = .device →
    aWriteBack (attrOf s l) = true → quiet s w.core = true →
    l2Own s w.core (ctxOf s w.core) (pa / 64) false = .hit key way → way.poison = false → way.line = pa / 64 →
    let old := lineNat way.data (pa % 64) n
    let v := (c.rs b).toNat % 2 ^ (8 * n)
    let gives := fun (i : Instr) (new : Option Nat) => ∃ t, exec i s = .next t ∧
      (t.core w.core).rs d = (if d = 0 then 0 else BitVec.ofNat 64 old) ∧ (t.core w.core).pc = c.pc + 4 ∧
      (t.core w.core).rsv = none ∧
      (∃ x, mgetD none (t.cluster w.core.cl).l2 key = some x ∧ x.line = way.line ∧ x.ctx = way.ctx ∧
        x.data = (match new with
          | some y => mergeLine way.data (maskAt (pa % 64) n) (lineAt (pa % 64) n y)
          | none => way.data) ∧ (new ≠ none → x.st = .M)) ∧
      t.net = s.net ∧ t.mem = s.mem
    gives (.amoAdd w d a b sc ord sz) (some ((old + v) % 2 ^ (8 * n))) ∧
    gives (.amoAnd w d a b sc ord sz) (some (old &&& v)) ∧
    gives (.amoOr w d a b sc ord sz) (some (old ||| v)) ∧
    gives (.amoXor w d a b sc ord sz) (some (old ^^^ v)) ∧
    gives (.amoSwap w d a b sc ord sz) (some v) ∧
    gives (.amoCas w d a b sc ord sz) (if old = (c.rs d).toNat % 2 ^ (8 * n) then some v else none) ∧
    gives (.amoMax w d a b sc ord sz) (some (if (sext64 (8 * n) old).toInt < (sext64 (8 * n) v).toInt then v else old)) ∧
    gives (.amoMin w d a b sc ord sz) (some (if (sext64 (8 * n) old).toInt < (sext64 (8 * n) v).toInt then old else v)) ∧
    gives (.amoMinu w d a b sc ord sz) (some (min old v)) ∧
    gives (.amoMaxu w d a b sc ord sz) (some (max old v))

/-- R94 to R96. -/
def Obligations.ReservedPairs : Prop :=
  ∀ (w : Who) (d a b : BitVec 5) (sc : BitVec 2) (acq rel sz : Bool) (s : State) (l : Leaf),
    let c := s.core w.core
    let va := c.rs a
    let pa := physOf l va.toNat
    let n := if sz then 8 else 4
    issues s w 4 = true → va.toNat % n = 0 → destOf l = .device →
    (∀ key way, ((acq = false → sc = 0) → atHand s w.core va .read l → aCache (attrOf s l) = true → quiet s w.core = true →
        l2Own s w.core (ctxOf s w.core) (pa / 64) false = .hit key way → way.poison = false →
      ∃ t, exec (.ldRsv w d a 0 sc (if acq then 1 else 0) sz) s = .next t ∧
        (t.core w.core).rs d = (if d = 0 then 0 else BitVec.ofNat 64 (lineNat way.data (pa % 64) n)) ∧
        (t.core w.core).rsv = some way.line ∧ (t.core w.core).pc = c.pc + 4 ∧
        (∃ x, mgetD none (t.cluster w.core.cl).l2 key = some x ∧ x.data = way.data ∧ x.hold = some w.core.pos ∧ x.holdTs = s.ts) ∧
        t.net = s.net ∧ t.mem = s.mem)) ∧
    ((rel = false → sc = 0) → atHand s w.core va .rw l → c.rsv ≠ some (pa / 64) →
      exec (.stCnd w d a b sc (if rel then 2 else 0) sz) s =
        .next (s.modCore w.core fun c => ({ c with rsv := none }.setS d 1).adv 4)) ∧
    (∀ key way, ((rel = false → sc = 0) → atHand s w.core va .rw l → c.rsv = some (pa / 64) → aWriteBack (attrOf s l) = true →
        quiet s w.core = true → l2Own s w.core (ctxOf s w.core) (pa / 64) false = .hit key way → way.line = pa / 64 →
      ∃ t x, exec (.stCnd w d a b sc (if rel then 2 else 0) sz) s = .next t ∧ (t.core w.core).rsv = none ∧
        (t.core w.core).pc = c.pc + 4 ∧ mgetD none (t.cluster w.core.cl).l2 key = some x ∧ t.mem = s.mem ∧
        (((t.core w.core).rs d = 0 ∧
            x.data = mergeLine way.data (maskAt (pa % 64) n) (lineAt (pa % 64) n (c.rs b).toNat) ∧ x.st = .M) ∨
          ((t.core w.core).rs d = (if d = 0 then 0 else 1) ∧ x.data = way.data))))

/-- R97 with R271, and R109's pf. -/
def Obligations.FencesAndPrefetch : Prop :=
  ∀ (w : Who) (a : BitVec 5) (imm : BitVec 12) (sc : BitVec 2) (s : State), issues s w 4 = true →
    let c := s.core w.core
    (((List.range 4).all fun i => ((mgetD none c.lmv i).map (·.out)).getD true) = true →
      exec (.fenceAcq w 0 0 0 sc) s = .next (s.modCore w.core fun c =>
        { c.adv 4 with fetched := if sc = 0 then c.fetched else none })) ∧
    (((List.range 4).all fun i => ((mgetD none c.lmv i).map (·.out)).getD true) = false →
      exec (.fenceAcq w 0 0 0 sc) s = .next s) ∧
    exec (.fenceRel w 0 0 0 0) s = .next (s.modCore w.core fun c => c.adv 4) ∧
    (sc ≠ 0 → c.sb.length < 8 → ∃ e, exec (.fenceRel w 0 0 0 sc) s = .next (s.modCore w.core fun c =>
        { c.adv 4 with sb := c.sb ++ [e], cb := c.cb.map fun l => { l with flush := true } }) ∧
      e.kind = .marker ∧ e.scope = sc ∧ e.rel = true ∧ e.sent = false) ∧
    (earlierDone s w.core sc = true → exec (.fenceAr w 0 0 0 sc) s = .next (s.modCore w.core fun c =>
        { c.adv 4 with fetched := if sc = 0 then c.fetched else none })) ∧
    (earlierDone s w.core sc = false → exec (.fenceAr w 0 0 0 sc) s = .next (s.modCore w.core fun c =>
        { c with cb := c.cb.map fun l => { l with flush := true } })) ∧
    (quiet s w.core = true → earlierDone s w.core sc = true) ∧
    (∃ t, exec (.pf w a imm) s = .next t ∧ (t.core w.core).pc = c.pc + 4 ∧ (t.core w.core).s = c.s ∧
      (t.core w.core).p = c.p ∧ (t.core w.core).st = c.st ∧ (t.core w.core).sb = c.sb)

/-- R100 and R101. -/
def Obligations.TokenInstructions : Prop :=
  ∀ (w : Who) (k : BitVec 4) (a b : BitVec 5) (p : BitVec 3) (s : State) (r : RunInfo) (l : Launch) (cl : BitVec 6),
    issues s w 4 = true → (s.cluster w.core.cl).run = some r →
    let c := s.core w.core
    let d : BitVec 5 := k.setWidth 5
    let g := ((c.rs a).extractLsb' 16 16).toNat
    (r.gsize ≤ g → exec (.tokSend w d a b) s = .next (s.modCore w.core fun c => { c.adv 4 with tks := true })) ∧
    (g < r.gsize → (c.rs b).extractLsb' 0 32 = 0 → exec (.tokSend w d a b) s = .next (s.modCore w.core fun c => c.adv 4)) ∧
    (g < r.gsize → (c.rs b).extractLsb' 0 32 ≠ 0 → s.dsp.launches.find? (fun x => x.id == r.id) = some l →
      (clustersOf l.mask)[g]? = some cl → pathUp s (dieOfAgent (.cluster w.core.cl)) (dieOfAgent (.cluster cl)) = true →
      quiet s w.core = true →
      exec (.tokSend w d a b) s = .next ((s.modCluster cl fun x => { x with tokq := x.tokq ++
        [⟨r.ctx, some r.lseq, ((c.rs a).extractLsb' 0 16).toNat, k, ((c.rs b).extractLsb' 0 32).setWidth 64⟩] }).modCore w.core
          fun c => c.adv 4)) ∧
    ((c.rs b).toNat ≤ (c.rk k).toNat →
      exec (.tokWait w d 0 b) s = .next (s.modCore w.core fun c => (c.setK k (c.rk k - c.rs b)).adv 4)) ∧
    ((c.rk k).toNat < (c.rs b).toNat →
      exec (.tokWait w d 0 b) s = .next (s.modCore w.core fun c =>
        { c with st := .gated (.tokWait k (c.rs b)), wake := false, rsv := none })) ∧
    exec (.tokTest w d (p.setWidth 5) b) s =
      .next (s.modCore w.core fun c => (c.setP p (decide ((c.rs b).toNat ≤ (c.rk k).toNat))).adv 4) ∧
    exec (.tokRead w d a 0) s = .next (s.modCore w.core fun c => (c.setS a (c.rk k)).adv 4)

/-- R54 and R103 for one beat in either direction. -/
def Obligations.StreamInstructions : Prop :=
  ∀ (w : Who) (d a : BitVec 5) (dir : Bool) (s : State), issues s w 4 = true →
    let c := s.core w.core
    let n := neighbour s w.core dir
    (c.sb.any fun e => e.kind == .marker) = false → c.strDone = 0 → n ≠ w.core → a.toNat < 16 →
    let puts := fun (i : Instr) (beat : Line) =>
      (0 < (if dir then c.crP else c.crN) → ∃ t, exec i s = .next t ∧ (t.core w.core).pc = c.pc + 4 ∧ (t.core w.core).s = c.s ∧
        (if dir then (t.core w.core).crP + 1 = c.crP ∧ (t.core n).flyN = (s.core n).flyN ++ [beat]
         else (t.core w.core).crN + 1 = c.crN ∧ (t.core n).flyP = (s.core n).flyP ++ [beat]) ∧ t.mem = s.mem) ∧
      ((if dir then c.crP else c.crN) = 0 → exec i s = .next (s.modCore w.core fun c =>
        { c with st := .gated (.strPut dir), wake := false, rsv := none }))
    let gets := fun (i : Instr) (f : Line → CoreSt → CoreSt) =>
      (∀ beat rest, (if dir then c.rxP else c.rxN) = beat :: rest → ∃ t, exec i s = .next t ∧ (t.core w.core).pc = c.pc + 4 ∧
        (t.core w.core).s = (f beat c).s ∧ (t.core w.core).t = (f beat c).t ∧
        (if dir then (t.core w.core).rxP = rest ∧ (t.core n).backN = (s.core n).backN + 1
         else (t.core w.core).rxN = rest ∧ (t.core n).backP = (s.core n).backP + 1) ∧ t.mem = s.mem) ∧
      ((if dir then c.rxP else c.rxN) = [] → exec i s = .next (s.modCore w.core fun c =>
        { c with st := .gated (.strGet dir), wake := false, rsv := none }))
    puts (.strPutN w 0 a 0 dir) ((c.rs a).setWidth 512) ∧
    puts (.strPutNTile w d a 0 dir) ((c.rt d).extractLsb' (512 * a.toNat) 512) ∧
    gets (.strGetP w d 0 0 dir) (fun beat c => c.setS d (beat.extractLsb' 0 64)) ∧
    gets (.strGetPTile w d a 0 dir) (fun beat c => c.setT d (setTileRow (c.rt d) a.toNat beat))

/-- R105, R106 and R108. -/
def Obligations.LineMoves : Prop :=
  ∀ (w : Who) (d a b : BitVec 5) (fn : BitVec 7) (s : State), issues s w 4 = true →
    let c := s.core w.core
    let va := c.rs b
    let ls := c.rs a
    let n := fn.toNat + 1
    let move := fun (out : Bool) (op : BitVec 6) => (⟨out, d.extractLsb' 0 4, ls.toNat, va, n, d.getLsbD 4, ctxOf s w.core, c.pc,
      encR w op d a b fn, launchOf s w.core, 0, 0, false⟩ : LineMove)
    (va.toNat % 64 = 0 → ls.toNat % 64 = 0 → ls.toNat + 64 * n ≤ 65536 →
      (∀ i, freeMove c = some i → moveClash c false va n = false →
        exec (.lmvIn w d a b fn) s = .next (lmvPump (s.modCore w.core fun c =>
          { c.adv 4 with lmv := mset c.lmv i (some (move false 0x1E)) }) w.core i)) ∧
      (∀ i, freeMove c = some i → moveClash c true va n = false → (c.sb.any fun e => e.kind == .marker) = false →
        exec (.lmvOut w d a b fn) s = .next (lmvPump (s.modCore w.core fun c =>
          { c.adv 4 with lmv := mset c.lmv i (some (move true 0x1F)), rsv := none }) w.core i)) ∧
      (freeMove c = none → exec (.lmvIn w d a b fn) s = .next s ∧ exec (.lmvOut w d a b fn) s = .next s)) ∧
    (va.toNat % 64 ≠ 0 → exec (.lmvIn w d a b fn) s = .next (raiseExc s w.core 0x02 va (encR w 0x1E d a b fn)) ∧
      exec (.lmvOut w d a b fn) s = .next (raiseExc s w.core 0x02 va (encR w 0x1F d a b fn))) ∧
    (va.toNat % 64 = 0 → ls.toNat % 64 ≠ 0 →
      exec (.lmvIn w d a b fn) s = .next (raiseExc s w.core 0x02 ls (encR w 0x1E d a b fn)) ∧
      exec (.lmvOut w d a b fn) s = .next (raiseExc s w.core 0x02 ls (encR w 0x1F d a b fn))) ∧
    (va.toNat % 64 = 0 → ls.toNat % 64 = 0 → 65536 < ls.toNat + 64 * n →
      exec (.lmvIn w d a b fn) s = .next (raiseExc s w.core 0x07 ls (encR w 0x1E d a b fn)) ∧
      exec (.lmvOut w d a b fn) s = .next (raiseExc s w.core 0x07 ls (encR w 0x1F d a b fn)))

/-- The events of cores and clusters, each where it has its effect. -/
def Obligations.CoreAndClusterEvents : Prop :=
  ∀ (s : State) (c : CoreId) (from_ : Bool) (cl : BitVec 6), frozen s = false →
    let x := s.core c
    let k := s.cluster cl
    (∀ g, x.st = .gated g → x.wake = true → (s.cluster c.cl).pll = .running → (s.cluster c.cl).isolated = false →
      exec (.coreWake c) s = .next (s.modCore c fun x => { x with st := .running, wake := false, xwait := none })) ∧
    (∀ t rest r p, k.tokq = t :: rest → t.lseq = some r.lseq → k.run = some r → t.ctx = r.ctx → t.lidx < r.nrun →
        posOf s cl t.lidx = some p → ((s.core ⟨cl, p⟩).rk t.k).toNat + t.inc.toNat < 2 ^ 64 - 1 →
      exec (.tokenApply cl) s = .next ((s.modCluster cl fun k => { k with tokq := rest }).modCore ⟨cl, p⟩ fun x =>
        x.setK t.k (x.rk t.k + t.inc))) ∧
    (∀ t v, x.st = .gated (.tokWait t v) → x.wake = false → v.toNat ≤ (x.rk t).toNat →
      exec (.tokWaitSatisfied c) s = .next (s.modCore c fun x => { (x.setK t (x.rk t - v)).adv 4 with wake := true })) ∧
    ((s.cluster c.cl).pll = .running → (s.cluster c.cl).isolated = false →
      (∀ d r, (if from_ then x.flyP else x.flyN) = d :: r →
        exec (.streamBeatArrive c from_) s = .next (s.modCore c fun x =>
          let y := if from_ then { x with flyP := r, rxP := x.rxP ++ [d] } else { x with flyN := r, rxN := x.rxN ++ [d] }
          if x.st = .gated (.strGet from_) then { y with wake := true } else y)) ∧
      (0 < (if from_ then x.backP else x.backN) →
        exec (.streamCreditArrive c from_) s = .next (s.modCore c fun x =>
          let y := if from_ then { x with backP := x.backP - 1, crP := x.crP + 1 } else { x with backN := x.backN - 1, crN := x.crN + 1 }
          if x.st = .gated (.strPut from_) then { y with wake := true } else y))) ∧
    (∀ i m, mgetD none x.lmv i = some m → (∀ j, j < m.count → m.done.getLsbD j = true) → m.lost = false →
      (x.rk m.k).toNat + 1 < 2 ^ 64 - 1 →
      exec (.lmvComplete c i) s = .next (s.modCore c fun x => (endMove i x).setK m.k (x.rk m.k + 1))) ∧
    (s.boot.offDie.contains (dieCd cl) = false → k.pll = .stopped →
      exec (.debugRequest cl) s = .next (s.modCluster cl fun k => { k with pll := .locking, idleTs := none }) ∧
      (pllWanted s cl = true →
        exec (.pllRestart cl) s = .next (s.modCluster cl fun k => { k with pll := .locking, idleTs := none }))) ∧
    (k.pll = .locking → exec (.pllLock cl) s =
      .next (s.modCluster cl fun k => { k with pll := .running, step := lockStep s cl, idleTs := none })) ∧
    (k.pll = .running → pllIdle s cl = true → (s.reg Reg.pwrPllStop).getLsbD 16 = false →
      (∀ t, k.idleTs = some t → t.toNat + max (s.fld Reg.pwrPllStop 0 16) 50 * 80 ≤ s.ts.toNat →
        exec (.pllStop cl) s = .next (s.modCluster cl fun k => { k with pll := .stopped, idleTs := none })))

/-- R120 to R122, lane by lane. -/
def Obligations.VectorArithmetic : Prop :=
  ∀ (w : Who) (f : TvWord) (s : State), issues s w 8 = true → f.sr = false →
    let c := s.core w.core
    let e := tyBytes f.ty
    let x := fun (i : BitVec 5) (r j : Nat) => laneGet (c.rt i) e r j
    let int := fun (i : BitVec 5) (r j : Nat) => laneInt f.ty (x i r j)
    let fp := fun (i : BitVec 5) (r j : Nat) => laneFp f.ty f.fz (x i r j)
    let whole := fun (v : Int) => intResult f.ty f.sat v
    let does := fun (i : Instr) (v : Nat → Nat → Nat × BitVec 8) =>
      ∃ t, exec i s = .next t ∧ lanesAfter s t w f (fun r j => (v r j).1) (fun r j => (v r j).2)
    let flt := fun (y : Fp × Flags) => floatResult f y
    let two : TvUse := { tb := true, rm := true, fz := true, sat := true }
    (tvLegal f (tyArith f.ty) two = true →
      does (.vadd w f) (fun r j => if tyInt f.ty then whole (int f.ta r j + int f.tb r j)
        else flt (addFp (f.rm == 3) (fp f.ta r j) (fp f.tb r j))) ∧
      does (.vsub w f) (fun r j => if tyInt f.ty then whole (int f.ta r j - int f.tb r j)
        else flt (addFp (f.rm == 3) (fp f.ta r j) (negFp (fp f.tb r j)))) ∧
      does (.vmul w f) (fun r j => if tyInt f.ty then whole (int f.ta r j * int f.tb r j)
        else flt (mulFp (fp f.ta r j) (fp f.tb r j)))) ∧
    (tvLegal f (tyArith f.ty) { two with tc := true } = true →
      does (.vfma w f) (fun r j => if tyInt f.ty then whole (int f.ta r j * int f.tb r j + int f.tc r j)
        else flt (fmaFp (f.rm == 3) (fp f.ta r j) (fp f.tb r j) (fp f.tc r j)))) ∧
    (tvLegal f (tyArith f.ty) { tb := true, fz := true } = true →
      does (.vmin w f) (fun r j => if tyInt f.ty then (if int f.tb r j < int f.ta r j then x f.tb r j else x f.ta r j, 0)
        else flt (minFp (fp f.ta r j) (fp f.tb r j))) ∧
      does (.vmax w f) (fun r j => if tyInt f.ty then (if int f.ta r j < int f.tb r j then x f.tb r j else x f.ta r j, 0)
        else flt (maxFp (fp f.ta r j) (fp f.tb r j)))) ∧
    (tvLegal f (tyArith f.ty) { fz := true, sat := true } = true →
      does (.vabs w f) (fun r j => if tyInt f.ty then whole (int f.ta r j).natAbs else flt (absFp (fp f.ta r j), 0)) ∧
      does (.vneg w f) (fun r j => if tyInt f.ty then whole (-(int f.ta r j)) else flt (negFp (fp f.ta r j), 0))) ∧
    (tvLegal f (tyFloat f.ty) { tb := true, rm := true, fz := true } = true →
      does (.vdiv w f) (fun r j => flt (divFp (fp f.ta r j) (fp f.tb r j)))) ∧
    (tvLegal f (tyFloat f.ty) { rm := true, fz := true } = true → does (.vsqrt w f) (fun r j => flt (sqrtFp (fp f.ta r j))))

/-- R120 and R123; vcvt with SR draws one free value an element (log entry 22). -/
def Obligations.VectorBitwiseCompareSelectConvert : Prop :=
  ∀ (w : Who) (f : TvWord) (s : State), issues s w 8 = true →
    let c := s.core w.core
    let e := tyBytes f.ty
    let n := 8 * e
    let x := fun (i : BitVec 5) (r j : Nat) => laneGet (c.rt i) e r j
    let int := fun (i : BitVec 5) (r j : Nat) => laneInt f.ty (x i r j)
    let fp := fun (i : BitVec 5) (r j : Nat) => laneFp f.ty f.fz (x i r j)
    let plain := fun (i : Instr) (v : Nat → Nat → Nat) =>
      ∃ t, exec i s = .next t ∧ lanesAfter s t w f v (fun _ _ => 0)
    let compares := fun (i : Instr) (v : Nat → Nat → Bool) (bad : Nat → Nat → Bool) =>
      ∃ t, exec i s = .next t ∧ lanesAfter s t w f (fun r j => if v r j then 2 ^ n - 1 else 0) (fun r j => if bad r j then 1 else 0)
    let nan := fun (r j : Nat) => !tyInt f.ty && (isNan (fp f.ta r j) || isNan (fp f.tb r j))
    (f.sr = false → tvLegal f (tyInt f.ty) { tb := true } = true →
      plain (.vand w f) (fun r j => x f.ta r j &&& x f.tb r j) ∧
      plain (.vor w f) (fun r j => x f.ta r j ||| x f.tb r j) ∧
      plain (.vxor w f) (fun r j => x f.ta r j ^^^ x f.tb r j) ∧
      plain (.vandn w f) (fun r j => x f.ta r j &&& (2 ^ n - 1 - x f.tb r j)) ∧
      plain (.vsll w f) (fun r j => x f.ta r j * 2 ^ (x f.tb r j % n)) ∧
      plain (.vsrl w f) (fun r j => x f.ta r j / 2 ^ (x f.tb r j % n)) ∧
      plain (.vsra w f) (fun r j =>
        (((if 2 ^ (n - 1) ≤ x f.ta r j then (x f.ta r j : Int) - 2 ^ n else x f.ta r j) / 2 ^ (x f.tb r j % n)) % 2 ^ n).toNat)) ∧
    (f.sr = false → tvLegal f (tyArith f.ty) { tb := true, fz := true } = true →
      compares (.vcmpEq w f) (fun r j => if tyInt f.ty then int f.ta r j == int f.tb r j else eqFp (fp f.ta r j) (fp f.tb r j))
        (fun _ _ => false) ∧
      compares (.vcmpNe w f) (fun r j => if tyInt f.ty then int f.ta r j != int f.tb r j else !eqFp (fp f.ta r j) (fp f.tb r j))
        (fun _ _ => false) ∧
      compares (.vcmpLt w f) (fun r j => if tyInt f.ty then decide (int f.ta r j < int f.tb r j)
        else ltFp (fp f.ta r j) (fp f.tb r j)) nan ∧
      compares (.vcmpLe w f) (fun r j => if tyInt f.ty then decide (int f.ta r j ≤ int f.tb r j)
        else ltFp (fp f.ta r j) (fp f.tb r j) || eqFp (fp f.ta r j) (fp f.tb r j)) nan) ∧
    (f.sr = false → tvLegal f (tyDefined f.ty) { tb := true, tc := true } = true →
      plain (.vsel w f) (fun r j => if x f.tc r j % 2 = 1 then x f.ta r j else x f.tb r j)) ∧
    (f.sr = false → f.imm.toNat ≤ 1 → tvLegal f (tyInt f.ty) { ta := false, imm := true } = true →
      plain (.vidx w f) (fun r j => if f.imm = 0 then j else r)) ∧
    (cvtLegal f = true → c.xcfg = 0 →
      exec (.vcvt w f) s = .next (({ s with free := s.free + (if f.sr then 1024 else 0) }).modCore w.core
        (engineCore (cvtLanes s.free f))))

/-- R124 to R126, and vbcast. -/
def Obligations.VectorPermutations : Prop :=
  ∀ (w : Who) (f : TvWord) (s : State), issues s w 8 = true → f.sr = false →
    let c := s.core w.core
    let e := tyBytes f.ty
    let l := 64 / e
    let vle := min c.vl l
    let x := fun (i : BitVec 5) (r j : Nat) => laneGet (c.rt i) e r j
    let does := fun (i : Instr) (v : Nat → Nat → Nat × BitVec 8) =>
      ∃ t, exec i s = .next t ∧ lanesAfter s t w f (fun r j => (v r j).1) (fun r j => (v r j).2)
    (tvLegal f (tyDefined f.ty) {} = true →
      does (.vmov w f) (fun r j => (x f.ta r j, 0)) ∧
      does (.vtrans w f) (fun r j =>
        let k := if e = 8 then 8 else 16
        if r / k * k + j % k < c.rl ∧ j / k * k + r % k < vle then (x f.ta (r / k * k + j % k) (j / k * k + r % k), 0) else (0, 0)) ∧
      does (.vbcast w f) (fun _ _ => ((c.rs f.ta).toNat, 0))) ∧
    (tvLegal f (tyDefined f.ty) { tb := true } = true →
      does (.vperm w f) (fun r j => if x f.tb r j < vle then (x f.ta r (x f.tb r j), 0) else (0, vswOOR)) ∧
      does (.vpermx w f) (fun r j =>
        if x f.tb r j / l < c.rl ∧ x f.tb r j % l < vle then (x f.ta (x f.tb r j / l) (x f.tb r j % l), 0) else (0, vswOOR))) ∧
    (tvLegal f (tyDefined f.ty) { imm := true } = true →
      (f.imm.toNat < 64 → does (.vrot w f) (fun r j => (x f.ta r ((j + f.imm.toNat) % vle), 0))) ∧
      (f.imm.toNat < 16 → does (.vrotr w f) (fun r j => (x f.ta ((r + f.imm.toNat) % c.rl) j, 0)))) ∧
    (tvLegal f (tyDefined f.ty) { ta := false } = true → does (.vzero w f) (fun _ _ => (0, 0)))

/-- R127 to R131; scanTile, reduceTile and compactTile give the tile, and the last clause says an inclusive sum in plain arithmetic. -/
def Obligations.VectorScansReductionsCompaction : Prop :=
  ∀ (w : Who) (op : BitVec 3) (seg exc : Bool) (f : TvWord) (s : State),
    issues s w 8 = true → (s.core w.core).xcfg = 0 → f.sr = false →
    let c := s.core w.core
    let e := tyBytes f.ty
    (tvLegal f (scanTypes op f.ty) { tc := seg, rm := op == 0, fz := true, me := false } = true →
      exec (.vscanRow w op seg exc false f) s = .next (s.modCore w.core (engineCore (scanTile op f false seg exc))) ∧
      exec (.vscanCol w op seg exc false f) s = .next (s.modCore w.core (engineCore (scanTile op f true seg exc)))) ∧
    (tvLegal f (scanTypes op f.ty) { tc := false, rm := op == 0, fz := true, me := false } = true →
      exec (.vredRow w op false false false f) s = .next (s.modCore w.core (engineCore (reduceTile op f false))) ∧
      exec (.vredCol w op false false false f) s = .next (s.modCore w.core (engineCore (reduceTile op f true)))) ∧
    (tvLegal f (tyDefined f.ty) { tb := true, tc := true, me := false } = true →
      exec (.vcompRow w f) s =
        .next (s.modCore w.core (engineCore (compactTile f fun c => scanLines c (tyBytes f.ty) false))) ∧
      exec (.vcompTile w f) s = .next (s.modCore w.core (engineCore (compactTile f fun c => [activeArea c (tyBytes f.ty)])))) ∧
    (tvLegal f (tyInt f.ty) { tc := false, rm := true, fz := true, me := false } = true →
      ∃ t, exec (.vscanRow w 0 false false false f) s = .next t ∧
        ∀ r j, r < 16 → r < c.rl → j < min c.vl (64 / e) →
          laneGet ((t.core w.core).rt f.td) e r j =
            (((List.range (j + 1)).foldl (fun n i => n + laneInt f.ty (laneGet (c.rt f.ta) e r i)) (0 : Int)) % 2 ^ (8 * e)).toNat)

/-- R132 to R134. -/
def Obligations.VectorLocalStoreAndScalarTransfers : Prop :=
  ∀ (w : Who) (f : TvWord) (s : State), issues s w 8 = true → (s.core w.core).xcfg = 0 → f.sr = false →
    let c := s.core w.core
    let e := tyBytes f.ty
    let lanes := fun (at_ : Nat → Nat → Nat) =>
      ((activeArea c e).filter fun p => unmasked c f e p.1 p.2).map fun p => (p, at_ p.1 p.2)
    let row := fun (r j : Nat) => (c.rs f.ta + (f.imm.signExtend 64 <<< 6)).toNat + r * (c.rs f.tb).toNat + j * e
    let idx := fun (r j : Nat) => (c.rs f.ta).toNat + laneGet (c.rt f.tb) e r j * e
    let load := fun (at_ : Nat → Nat → Nat) (c : CoreSt) =>
      (c.setT f.td ((lanes at_).foldl (fun t p => laneSet t e p.1.1 p.1.2 (rdBytes c.ls p.2 e)) (c.rt f.td))).adv 8
    let store := fun (at_ : Nat → Nat → Nat) (c : CoreSt) =>
      { c.adv 8 with ls := (lanes at_).foldl (fun m p => wrBytes m p.2 e (laneGet (c.rt f.td) e p.1.1 p.1.2)) c.ls }
    let within := fun (at_ : Nat → Nat → Nat) => ∀ p ∈ lanes at_, p.2 + e ≤ 65536
    let put := fun (i : Instr) (g : CoreSt → CoreSt) => exec i s = .next (s.modCore w.core g)
    let r := ((c.rs f.tb).extractLsb' 8 4).toNat
    let j := ((c.rs f.tb).extractLsb' 0 6).toNat
    let inside := decide (r < c.rl) && decide (j < min c.vl (64 / e))
    let clamp := fun (lo hi v : Nat) => max lo (min hi v)
    (tvLegal f (tyDefined f.ty) { tb := true, imm := true } = true →
      (c.rs f.ta + (f.imm.signExtend 64 <<< 6)).toNat % e = 0 → (c.rs f.tb).toNat % e = 0 → within row →
      put (.vld w f) (load row) ∧ put (.vst w f) (store row)) ∧
    (tvLegal f (tyDefined f.ty) { tb := true } = true → (c.rs f.ta).toNat % e = 0 → within idx →
      put (.vgather w f) (load idx) ∧ put (.vscatter w f) (store idx)) ∧
    (tvLegal f true { td := false, ta := false, ty := false, me := false, tb := true, imm := true } = true →
      1 ≤ f.imm.toNat → f.imm.toNat ≤ 64 → 1 ≤ f.tb.toNat → f.tb.toNat ≤ 16 →
      put (.tvShapei w f) (fun c => { c.adv 8 with vl := f.imm.toNat, rl := f.tb.toNat })) ∧
    (tvLegal f true { td := false, ty := false, me := false } = true →
      let vl := ((c.rs f.ta).extractLsb' 0 7).toNat
      let rl := ((c.rs f.ta).extractLsb' 8 5).toNat
      put (.tvShape w f) (fun c => { c.adv 8 with
        vl := clamp 1 64 vl
        rl := clamp 1 16 rl
        vsw := if clamp 1 64 vl ≠ vl ∨ clamp 1 16 rl ≠ rl then c.vsw ||| vswSHC else c.vsw })) ∧
    (tvLegal f true { ta := false, ty := false, me := false } = true →
      put (.tvGetshape w f) (fun c => (c.setS f.td (BitVec.ofNat 64 (c.vl + 256 * c.rl))).adv 8)) ∧
    (tvLegal f (tyDefined f.ty) { tb := true, me := false } = true →
      put (.vext w f) (fun c => if inside then
          (c.setS f.td (if tySigned f.ty then sext64 (8 * e) (laneGet (c.rt f.ta) e r j)
            else BitVec.ofNat 64 (laneGet (c.rt f.ta) e r j))).adv 8
        else { (c.setS f.td 0).adv 8 with vsw := c.vsw ||| vswOOR })) ∧
    (tvLegal f (tyDefined f.ty) { tb := true } = true →
      put (.vins w f) (fun c => if inside then
          (if unmasked c f e r j then c.setT f.td (laneSet (c.rt f.td) e r j (c.rs f.ta).toNat) else c).adv 8
        else { c.adv 8 with vsw := c.vsw ||| vswOOR }))

/-- R147, R160 and R166 to R168. -/
def Obligations.MatrixInstructions : Prop :=
  ∀ (w : Who) (s : State), issues s w 8 = true → (s.core w.core).xcfg = 0 →
    let c := s.core w.core
    let drawn := fun (sr : Bool) => { s with free := s.free + (if sr then 1024 else 0) }
    (∀ f : MmaWord, mmaLegal f = true →
      exec (.mma w f) s = .next (s.modCore w.core (engineCore (mmaTile f))) ∧
      (f.fa = 0xC ∨ f.fa = 0xD → ∃ t, exec (.mma w f) s = .next t ∧ ∀ i j, i < 16 → j < 32 →
        let old := if f.za then 0 else accGet (c.ra (accOf f.x)) 32 i j
        let tb := if j < 16 then c.rt f.z else c.rt (f.z + 1)
        let sum := (List.range (if f.fa = 0xC then 64 else 128)).foldl
          (fun n k => n + elemInt f.fa (c.rt f.y) i k * elemInt f.fb tb (j % 16) k) (0 : Int)
        accGet ((t.core w.core).ra (accOf f.x)) 32 i j = (intResult 0x4 f.sat (laneInt 0x4 old + sum)).1 ∧
        (t.core w.core).t = c.t)) ∧
    (∀ f : AccWord, accPlain f = true → isAcc f.x = true →
      (f.y = 0 → exec (.accZero w f) s = .next (s.modCore w.core fun c => (c.setA (accOf f.x) 0).adv 8)) ∧
      (f.y.getLsbD 0 = false → ∃ a, exec (.accLd w f) s = .next (s.modCore w.core fun c => (c.setA (accOf f.x) a).adv 8) ∧
        ∀ i j, i < 16 → j < 32 → accGet a 32 i j =
          (if j < 16 then laneGet (c.rt f.y) 4 i j else laneGet (c.rt (f.y + 1)) 4 i (j - 16)))) ∧
    (∀ f : AccWord, accStLegal f = true →
      exec (.accSt w f) s = .next ((drawn f.sr).modCore w.core (engineCore (accStore s.free f)))) ∧
    (∀ f : MqWord, mqLegal f = true →
      exec (.mq w f) s = .next ((drawn f.sr).modCore w.core (engineCore (mqTile s.free f))))

/-- R43 to R46. -/
def Obligations.LaunchPhases : Prop :=
  ∀ (s : State) (l : Nat) (x : Launch), dspStopped s = false → findLaunch s l = some x → x.id = l →
    (x.phase = .queued → ((clustersOf x.mask).any fun c => (s.cluster c).isolated) = false →
      (∀ c ∈ clustersOf x.mask, clusterFree s c = true) → firstInLine s x = true →
      ∃ t, exec (.launchPrepare l) s = .next t ∧ t.dsp.nextSeq = s.dsp.nextSeq + 1 ∧
        findLaunch t l = some { x with phase := .prepare, lseq := s.dsp.nextSeq } ∧
        (∀ c, (t.cluster c).prep = if x.mask.getLsbD c.toNat then .clearing l else (s.cluster c).prep) ∧ t.cores = s.cores ∧
        t.mem = s.mem) ∧
    (∀ cl, (s.cluster cl).prep = .clearing l → (s.cluster cl).pll = .running →
      ∃ t, exec (.prepareDone l cl) s = .next t ∧ (t.cluster cl).prep = .ready l ∧
        (∀ p : BitVec 8, enabledPos s cl p.toNat = true →
          let c := t.core ⟨cl, p⟩
          c.st = .idle ∧ c.ls = [] ∧ (∀ i, c.rt i = 0) ∧ (∀ i, i < 4 → c.ra i = 0) ∧ (∀ i, c.rk i = 0) ∧ c.ovf = 0 ∧
          c.crN = 8 ∧ c.crP = 8 ∧ c.rxN = [] ∧ c.rxP = [] ∧ c.l1 = (s.core ⟨cl, p⟩).l1) ∧
        (∀ c : CoreId, c.cl ≠ cl → t.core c = s.core c)) ∧
    (x.phase = .prepare → x.status = stOK → (∀ c ∈ clustersOf x.mask, (s.cluster c).prep = .ready l ∧ (s.cluster c).tokHeld = []) →
      ∃ t, exec (.launchStart l) s = .next t ∧ (∃ y, findLaunch t l = some y ∧ y.phase = .running ∧ y.lseq = x.lseq) ∧
        ∀ (g : Nat) (cl : BitVec 6), (clustersOf x.mask)[g]? = some cl →
          let n := if x.sel = 0 then enabledCount s cl else x.sel
          (t.cluster cl).run = some ⟨l, x.cmd.ctx, x.lseq, g, (clustersOf x.mask).length, n, x.arg⟩ ∧
          (t.cluster cl).prep = .none ∧
          ∀ (i : Nat) (p : BitVec 8), i < n → (enabledList s cl)[i]? = some p →
            let c := t.core ⟨cl, p⟩
            c.st = .running ∧ c.started = true ∧ c.pc = x.entry ∧
            (∀ r : BitVec 5, c.rs r = if r = 1 then x.arg else if r = 2 then BitVec.ofNat 64 g else if r = 3 then BitVec.ofNat 64 i
              else 0) ∧
            (∀ q, c.rp q = true) ∧ c.xcfg = 0 ∧ c.fsr = 0 ∧ c.vsw = 0 ∧ c.fns = false ∧ c.tks = false ∧ c.vl = 64 ∧ c.rl = 16) ∧
    (x.phase = .running ∨ x.phase = .halting → x.recs = [] → x.excWait = [] →
      (∀ c ∈ clustersOf x.mask, clusterDone s (x.phase == .halting) l c = true) →
      ∃ t, exec (.launchComplete l) s = .next t ∧ findLaunch t l = none ∧ t.mem = s.mem ∧
        ∀ c ∈ clustersOf x.mask, ((s.cluster c).run.map (·.id)) = some l → (t.cluster c).run = none)

/-- R64 to R67 and R342. -/
def Obligations.LaunchHaltAndControl : Prop :=
  ∀ (s : State) (l : Nat) (x : Launch), frozen s = false → findLaunch s l = some x →
    (x.phase = .halting → ∃ t, exec (.launchHalt l) s = .next t ∧ t.mem = s.mem ∧ t.dsp = s.dsp ∧
      ∀ c : CoreId, (t.core c).s = (s.core c).s ∧ (t.core c).pc = (s.core c).pc ∧
        (let hit := x.mask.getLsbD c.cl.toNat && (s.cluster c.cl).run.map (·.id) == some l && (s.core c).started &&
            (match (s.core c).st with
              | .running => true
              | .gated _ => true
              | .waiting => true
              | _ => false)
         (t.core c).st = (if hit then .halted else (s.core c).st) ∧ (hit = true → (t.core c).rsv = none))) ∧
    (∀ i r, x.recs[i]? = some r → x.excWait = [] → r.opened.toNat + 16000 ≤ s.ts.toNat →
      ∃ t, exec (.exceptionRecordWrite l i) s = .next t ∧ findLaunch t l = some { x with recs := x.recs.eraseIdx i } ∧
        (t.ev (s.ring x.cmd.ring).ev).recs = (s.ev (s.ring x.cmd.ring).ev).recs ++ [excLine x r] ∧ t.mem = s.mem) ∧
    (∀ ag lseq cl pos, reachable s ag Reg.dspLaunchCmd = true →
      (∀ y, launchOn s lseq cl = some y → (s.core ⟨cl, pos⟩).st = .waiting → enabledPos s cl pos.toNat = true →
          recordPending y ⟨cl, pos⟩ = false →
        ∃ t, exec (.launchResume ag lseq cl pos) s = .next t ∧
          (t.core ⟨cl, pos⟩) = { s.core ⟨cl, pos⟩ with st := .running } ∧
          (t.cluster cl).pll = (if (s.cluster cl).pll = .stopped then .locking else (s.cluster cl).pll)) ∧
      (launchOn s lseq cl = none →
        exec (.launchResume ag lseq cl pos) s = .next (s.setFlag Reg.dspStat 2) ∧
        exec (.launchAbort ag lseq cl) s = .next (s.setFlag Reg.dspStat 2)) ∧
      (launchOn s lseq cl = some x → x.id = l → x.phase = .running → s.dsp.launches = [x] →
        ∃ t, exec (.launchAbort ag lseq cl) s = .next t ∧
          t.dsp.launches = [{ x with phase := .halting, status := stAborted }]))

/-- The buffers of chapter 08, each form where it can move. -/
def Obligations.BuffersDrain : Prop :=
  ∀ (s : State) (c : CoreId), canDrain s c = true →
    let x := s.core c
    (∀ e rest key way, x.sb = e :: rest → x.cb = [] → e.sent = false → e.rel = false → aDevo e.attr = false →
        e.kind = .store → e.dest = .device → aWriteBack e.attr = true →
        l2Own s c e.ctx (e.pa / 64) false = .hit key way → way.line = e.pa / 64 →
      ∃ t y, exec (.storeBufferDrain c) s = .next t ∧ (t.core c).sb = rest ∧
        mgetD none (t.cluster c.cl).l2 key = some y ∧ y.st = .M ∧ y.data = mergeLine way.data e.mask e.data ∧
        t.net = s.net ∧ t.mem = s.mem ∧ (t.core c).s = x.s ∧ (t.core c).pc = x.pc) ∧
    (∀ e rest, x.sb = e :: rest → x.cb = [] → e.sent = false → e.kind = .marker → aDevo e.attr = false → relGo s c e = true →
      ∃ t, exec (.storeBufferDrain c) s = .next t ∧ (t.core c).sb = rest ∧ t.net = s.net ∧ t.mem = s.mem) ∧
    (∀ e rest, x.sb = e :: rest → x.cb = [] → e.sent = false → e.rel = false → aDevo e.attr = false → e.kind = .store →
        e.dest = .device → aWriteBack e.attr = false → aWriteThrough e.attr = false → aEwa e.attr = true →
        inTransit (s.cluster c.cl) (e.pa / 64) = false → outOnLine s c .device (e.pa / 64) = false →
        l2Find (s.cluster c.cl) (e.pa / 64) = none →
      ∃ t m, exec (.storeBufferDrain c) s = .next t ∧ (t.core c).sb = rest ∧ t.net = s.net ++ [m] ∧ m.kind = .wrp ∧
        m.dst = .home (homeOf s.mem (e.pa / 64)) ∧ m.line = e.pa / 64 ∧ m.mask = e.mask ∧ m.data = e.data ∧ m.ctx = e.ctx ∧
        t.mem = s.mem) ∧
    (∀ l i, x.cb[i]? = some l → (∀ j < i, ∀ y, x.cb[j]? = some y → (y.flush && !y.sent) = false) → l.sent = false →
        l.dest = .device → inTransit (s.cluster c.cl) l.line = false → l2Find (s.cluster c.cl) l.line = none →
      ∃ t m, exec (.cbIdleTimeout c i) s = .next t ∧ t.net = s.net ++ [m] ∧ m.kind = .wrp ∧ m.line = l.line ∧
        m.mask = l.mask ∧ m.data = l.data ∧ ((t.core c).cb[i]?.map (·.sent)) = some true ∧ t.mem = s.mem) ∧
    (∀ p line key way, x.pend = some p → p.pa / 64 = line → p.dest = .device → p.ifetch = false → p.pair = false → p.nopf = true →
        p.alloc = true → lookL1 line p.ctx x = none → l2Read s c p.ctx line true false false = .hit key way → way.poison = false →
      ∃ t, exec (.l1Fill c line) s = .next t ∧ (t.core c).pend = none ∧ (t.core c).pc = x.pc + 4 ∧
        (t.core c).rs p.d = (if p.d = 0 then 0 else loadValue way.data (p.pa % 64) p.size p.sext) ∧
        inL1 line p.ctx (t.core c) = true ∧ t.mem = s.mem ∧ t.net = s.net) ∧
    (∀ line key way, l2Find (s.cluster c.cl) line = some (key, way) →
      exec (.rsvHoldExpire c.cl line) s = .next (s.modCluster c.cl fun k => { k with l2 := mset k.l2 key (some { way with hold := none }) }))

/-- R228 to R246 at the home. The premises name the message through takeMsg: the oldest of its class between the two agents. -/
def Obligations.HomesTakeRequestsAndVictims : Prop :=
  ∀ (h : BitVec 8) (c : BitVec 6) (s s1 : State) (m : Msg), frozen s = false → homeHeld s h = false →
    let queues := fun (src : Agent) (k : MsgKind) (i : Instr) =>
      takeMsg s src (.home h) k = some (m, s1) → (∀ d, src = .cluster d → (s.cluster d).isolated = false) →
      (∀ g ∈ (s.home h).granted, g.1 ≠ m.src) → sharedUsed (s.home h) < 64 →
      exec i s = .next (s1.modHome h fun x => { x with queue := x.queue ++ [⟨m, true⟩] })
    let own := (dirGet s.mem m.line).cst = .X ∧ (dirGet s.mem m.line).sharers = clBit c
    let vic := fun (k : MsgKind) => takeMsg s (.cluster c) (.home h) k = some (m, s1) ∧ m.src = .cluster c ∧ m.kind = k ∧
      txnOf s h m.line = none ∧ ((s.home h).vic.any fun x => x.line == m.line) = false
    queues (.cluster c) .rds (.rds h c) ∧ queues (.cluster c) .rdx (.rdx h c) ∧ (∀ a, queues a .rdc (.rdc h a)) ∧
    (∀ a, queues a .wrp (.wrp h a)) ∧ queues (.cluster c) .red (.red h c) ∧ queues .hpt .rdh (.rdh h) ∧
    queues .hpt .wrh (.wrh h) ∧
    (∀ q r, (s.home h).queue = q :: r → q.msg = m → lineBusy s h m.line = false → (s.home h).retry = [] →
      (refuses { s with snooped := s.snooped.filter (·.2 != m.line) } m = true → m.kind ≠ .red →
        ∃ t, exec (.homeAccept h m.line) s = .next t ∧ t.net = s.net ++ [answer h m .ncx] ∧ t.mem.cells = s.mem.cells ∧
          t.mem.bcc = s.mem.bcc ∧ t.mem.dir = s.mem.dir ∧ (t.home h).queue = r) ∧
      (∀ k, refuses { s with snooped := s.snooped.filter (·.2 != m.line) } m = false → m.kind = .rdx → m.src = .cluster c →
          dirFind s.mem m.line = none → entryWay s h m.line = some (k, none) → isPacked m.line = false →
        ∃ t, exec (.homeAccept h m.line) s = .next t ∧ (t.home h).queue = r ∧
          t.net = s.net ++ [{ answer h m .dat with
            data := (memPeek s.mem m.line).1, poison := (memPeek s.mem m.line).2, grant := .E }] ∧
          ∃ e, mgetD none t.mem.dir k = some e ∧ e.cst = .X ∧ e.sharers = clBit c ∧ e.hst = .I ∧ e.line = m.line) ∧
      (refuses { s with snooped := s.snooped.filter (·.2 != m.line) } m = false → m.kind = .wrp → m.k = false →
          dirFind s.mem m.line = none → isPacked m.line = false → (s.home h).txns = [] → (s.home h).vic = [] →
          Memory.wf s.mem.cells = true →
        ∃ t, exec (.homeAccept h m.line) s = .next t ∧ (t.home h).queue = r ∧ (t.home h).txns = [] ∧
          t.net = s.net ++ [answer h m .cmp] ∧
          (memPeek t.mem m.line).1 = mergeLine (memPeek s.mem m.line).1 m.mask m.data)) ∧
    (vic .vcd → own → oneEntry s.mem m.line → Memory.wf s.mem.cells = true → ∃ t, exec (.vcd h c) s = .next t ∧
      (memPeek t.mem m.line).1 = m.data ∧ (dirGet t.mem m.line).sharers = 0 ∧
      t.net = s1.net ++ [{ answer h m .cmp with flag := true, orig := .vcd }]) ∧
    (vic .vcd → (dirGet s.mem m.line).sharers.getLsbD c.toNat = false → exec (.vcd h c) s = .fault .notPossible) ∧
    (vic .vck → own → Memory.wf s.mem.cells = true → ∃ t, exec (.vck h c) s = .next t ∧
      (memPeek t.mem m.line).1 = m.data ∧ t.mem.dir = s.mem.dir ∧
      t.net = s1.net ++ [{ answer h m .cmp with flag := true, orig := .vck }]) ∧
    (vic .vcn → oneEntry s.mem m.line → (dirFind s.mem m.line).isSome = true → ∃ t, exec (.vcn h c) s = .next t ∧ t.mem.cells = s.mem.cells ∧
      (dirGet t.mem m.line).sharers.getLsbD c.toNat = false ∧
      t.net = s1.net ++ [{ answer h m .cmp with flag := true, orig := .vcn }])

/-- R240 to R247 at the cluster. -/
def Obligations.ClustersAnswerForwardsAndGrants : Prop :=
  ∀ (cl : BitVec 6) (h : BitVec 8) (s s1 : State) (m : Msg), frozen s = false → (s.cluster cl).isolated = false →
    let got := fun (k : MsgKind) => takeMsg s (.home h) (.cluster cl) k = some (m, s1) ∧ m.kind = k ∧ m.src = .home h
    let back := fun (k : MsgKind) (fl : Bool) => { msg k (.cluster cl) m.src m.line m.ctx with flag := fl }
    let data := fun (w : L2Way) (g : Grant) =>
      { msg .dat (.cluster cl) m.req m.line m.ctx with data := w.data, poison := w.poison, grant := g, tag := m.tag }
    let fwds := [(MsgKind.fsh, Instr.fsh cl h), (.fex, .fex cl h), (.frc, .frc cl h), (.inv, .inv cl h)]
    (∀ p ∈ fwds, got p.1 → ((s.cluster cl).wb.any fun x => x.line == m.line) = true →
      exec p.2 s = .next { s1 with net := s1.net ++ [back .vpd false] }) ∧
    (∀ p ∈ fwds, got p.1 → ((s.cluster cl).wb.any fun x => x.line == m.line) = false → l2Find (s.cluster cl) m.line = none →
      exec p.2 s = .next { s1 with net := s1.net ++ [back (if p.1 = .inv then .iak else .npr) false] }) ∧
    (∀ k w, ((s.cluster cl).wb.any fun x => x.line == m.line) = false → l2Find (s.cluster cl) m.line = some (k, w) →
        holder s cl w = none → m.orig ≠ .rdh →
      (got .fsh → w.st = .E → ∃ t, exec (.fsh cl h) s = .next t ∧ t.net = s1.net ++ [data w .S, back .fak false] ∧
        mgetD none (t.cluster cl).l2 k = some { w with st := .S } ∧ t.mem = s.mem) ∧
      (got .fsh → w.st = .M → ∃ t, exec (.fsh cl h) s = .next t ∧
        t.net = s1.net ++ [data w .S, { back .fdt false with data := w.data, poison := w.poison }, back .fak true] ∧
        mgetD none (t.cluster cl).l2 k = some { w with st := .S } ∧ t.mem = s.mem) ∧
      (got .fex → w.st = .E → ∃ t, exec (.fex cl h) s = .next t ∧ t.net = s1.net ++ [data w .E, back .fak false] ∧
        mgetD none (t.cluster cl).l2 k = none ∧ t.mem = s.mem) ∧
      (got .frc → w.st = .E ∨ w.st = .M → exec (.frc cl h) s = .next { s1 with net := s1.net ++ [data w .none, back .fak false] }) ∧
      (got .inv → w.st = .S ∨ w.st = .E → ∃ t, exec (.inv cl h) s = .next t ∧ t.net = s1.net ++ [back .iak false] ∧
        mgetD none (t.cluster cl).l2 k = none ∧ t.mem = s.mem ∧ ∀ p : BitVec 8, (t.core ⟨cl, p⟩).rsv ≠ some m.line) ∧
      (got .fex → w.st = .S ∨ w.st = .UP → exec (.fex cl h) s = .fault .notPossible) ∧
      (got .frc → w.st = .S ∨ w.st = .UP → exec (.frc cl h) s = .fault .notPossible)) ∧
    (∀ x k, got .dat → (s.cluster cl).miss.find? (fun y => y.line == m.line) = some x → x.kind = .rdx → x.l1pf = false →
        l2Find (s.cluster cl) m.line = none → fillWay s cl m.line = some k → mgetD none (s.cluster cl).l2 k = none →
      ∃ t w, exec (.dat (.cluster cl) (.home h)) s = .next t ∧ mgetD none (t.cluster cl).l2 k = some w ∧ w.line = m.line ∧
        w.ctx = x.ctx ∧ w.data = m.data ∧ w.poison = m.poison ∧ w.st = (if m.grant = .S then .S else if m.grant = .M then .M else .E) ∧
        t.net = s1.net ++ [toHome s .ack cl m.line 0] ∧ ((t.cluster cl).miss.any fun y => y.line == m.line) = false) ∧
    (∀ k w, got .gnt → l2Find (s.cluster cl) m.line = some (k, w) → w.st = .UP →
      ∃ t, exec (.gnt cl h) s = .next t ∧ mgetD none (t.cluster cl).l2 k = some { w with st := .E } ∧
        t.net = s1.net ++ [toHome s .ack cl m.line 0]) ∧
    (∀ w r, got .cmp → m.flag = true → m.orig = .vcd → m.tag = .vic → (s.cluster cl).wb = w :: r → w.line = m.line →
      ∃ t, exec (.cmp (.cluster cl) h) s = .next t ∧ (t.cluster cl).wb = r ∧
        mgetD 0 (t.cluster cl).vicUsed h.toNat = mgetD 0 (s.cluster cl).vicUsed h.toNat - 1) ∧
    (∀ o r, got .cmp → m.flag = false → m.tag = .write o.tag → (s.cluster cl).outw = o :: r → o.keep = false →
        (∀ x ∈ r, x.tag ≠ o.tag) →
      ∃ t, exec (.cmp (.cluster cl) h) s = .next t ∧ (t.cluster cl).outw = r) ∧
    (∀ x p i, got .ncx → m.tag = .miss → (s.cluster cl).miss.find? (fun y => y.line == m.line) = some x → x.pf = false → x.l1pf = false →
        l2Find (s.cluster cl) m.line = none → (s.core ⟨cl, x.core⟩).pend = some p → p.dest = .device → p.pa / 64 = m.line →
        x.line = m.line → (s.cluster cl).run = some i →
      ∃ t, exec (.ncx (.cluster cl) h) s = .next t ∧ (t.core ⟨cl, x.core⟩).st = .halted ∧ (t.core ⟨cl, x.core⟩).pend = none ∧
        (t.core ⟨cl, x.core⟩).s = (s.core ⟨cl, x.core⟩).s ∧ t.mem = s.mem) ∧
    (got .rty → exec (.rty (.cluster cl) h) s =
      .next { s1 with retried := s1.retried ++ [{ m with kind := m.orig, src := .cluster cl, dst := .home h }] }) ∧
    (∀ x r, got .crg → s.retried = x :: r → x.src = .cluster cl → x.dst = .home h →
      exec (.crg (.cluster cl) h) s = .next { s1 with retried := r, net := s1.net ++ [x] })

/-- R240 to R260: the home's side of responses, and its scans. -/
def Obligations.HomesTakeResponsesAndScan : Prop :=
  ∀ (h : BitVec 8) (c d : BitVec 6) (s s1 : State) (m : Msg) (t : Txn), frozen s = false → c ≠ d →
    let got := fun (k : MsgKind) => takeMsg s (.cluster c) (.home h) k = some (m, s1)
    let waits := txnOf s h m.line = some t ∧ t.wait = [c, d]
    (waits →
      (got .fak → m.flag = false →
        exec (.fak h c) s = .next (putTxn s1 h { t with wait := [d], sent := true, fdtGot := t.fdtGot.filter (· != c) })) ∧
      (got .iak → exec (.iak h c) s = .next (putTxn s1 h { t with wait := [d], vcd := t.vcd.filter (· != c), npr := c :: t.npr })) ∧
      (got .npr → exec (.npr h c) s = .next (putTxn s1 h { t with wait := [d], vcd := t.vcd.filter (· != c), npr := c :: t.npr })) ∧
      (got .npd → (dirGet s.mem m.line).cst ≠ .X →
        exec (.npd h c) s = .next (putTxn s1 h { t with wait := [d], vcd := t.vcd.filter (· != c), npr := c :: t.npr })) ∧
      (got .vpd → (s.home h).vic = [] → exec (.vpd h c) s = .next (putTxn s1 h { t with wait := [d], vcd := c :: t.vcd })) ∧
      (got .fdt → Memory.wf s.mem.cells = true →
        ∃ u, exec (.fdt h c) s = .next u ∧ (memPeek u.mem m.line).1 = m.data ∧ u.net = s1.net)) ∧
    (takeMsg s (.cluster c) (.home h) .ack = some (m, s1) → (s.home h).txns = [t] → t.line = m.line → t.phase = .ack →
        t.req.src = .cluster c → t.old = none → (s.home h).vic = [] → (s.home h).retry = [] →
      ∃ u, exec (.ack h (.cluster c)) s = .next u ∧ (u.home h).txns = [] ∧ u.net = s1.net) ∧
    (takeMsg s (.home h) .hpt .bis = some (m, s1) → s.hpt.dead = false → s.hpt.link = .l0 → s.hpt.bis.length < 512 →
      exec (.bisnp h) s = .next (s1.modHpt fun p => { p with
        out := p.out ++ [.bisnp (hpaOfLine s m.line) m.bis]
        bis := p.bis ++ [{ line := m.line, hpa := hpaOfLine s m.line, kind := m.bis, ts := s.ts, hdt := false }] })) ∧
    (∀ b line, s.hpt.bis = [b] → b.line = line → b.hdt = true → (s.net.any fun x => x.kind == .hdt && x.line == line) = false →
        homeOf s.mem line = h → txnOf s h line = some t → t.bis = some .inv → t.wait = [d] → oneEntry s.mem line →
      ∃ u, exec (.bir line .I) s = .next u ∧ u.hpt.bis = [] ∧ u.net = s.net ∧
        (txnOf u h line).map (·.bis) = some none ∧ (dirGet u.mem line).hst = .I) ∧
    (takeMsg s .hpt (.home h) .hdt = some (m, s1) → m.tag = .none → Memory.wf s.mem.cells = true →
      ∃ u, exec (.hdt h) s = .next u ∧ (memPeek u.mem m.line).1 = mergeLine (memPeek s.mem m.line).1 m.mask m.data ∧ u.net = s1.net) ∧
    (∀ line, txnOf s h line = some t → t.wait.contains c = true → t.fwdTs.toNat + max (s.fld (homeReg h Reg.homeFwdTmo) 0 16) 50 * 80 ≤ s.ts.toNat →
        pathUp s (dieOfAgent (.home h)) (dieOfAgent (.cluster c)) = true → (s.cluster c).isolated = false →
      exec (.homeFwdTimeout h line c) s =
        .next (raiseAt (s.setFlag (homeReg h Reg.homeStat) 0) (dieCd c) c.toNat 0x10 0 (BitVec.ofNat 64 (line * 64)))) ∧
    (∀ p, (s.home h).reclaim = [(c, p)] → (s.home h).queue = [] → (s.home h).vic = [] → s.net = [] → s.mem.dir = [] →
      ∃ u, exec (.clusterReclaimScan h c) s = .next u ∧ (u.home h).reclaim = [] ∧ u.mem.cells = s.mem.cells) ∧
    ((s.home h).hostReclaim = true → s.mem.dir = [] →
      ∃ u, exec (.hostReclaimScan h) s = .next u ∧ (u.home h).hostReclaim = false ∧ u.mem.cells = s.mem.cells) ∧
    (∀ page done, s.mem.flipping = [(page, done)] → done.contains h = false → done.length < 255 → s.mem.dir = [] →
        (s.home h).txns = [] →
      exec (.biasFlipScan h page) s = .next (s.modMem fun m => { m with flipping := [(page, h :: done)] }))

/-- R203 to R223. A decompressor serves the reads of its far stack (R203); t is the transaction that waits for it. -/
def Obligations.PackedReadsAddsAndMaintenance : Prop :=
  ∀ (s : State), frozen s = false → Memory.wf s.mem.cells = true →
    (∀ (dcx : BitVec 3) (h : BitVec 8) (line : Nat) (t : Txn), homeOf s.mem line = h → (s.home h).txns = [t] → t.line = line →
        t.phase = .expand → t.req.kind = .rdc → t.sent = false → t.old = none → (s.home h).vic = [] → (s.home h).retry = [] →
        dcxOfLine s.mem line = dcx →
      (∀ ls, (dcxOf s dcx).exp.find? (fun e => e.1 == (granuleOf s.mem line).1) = some ((granuleOf s.mem line).1, ls) →
        ∃ u, exec (.dcxExpand dcx line) s = .next u ∧ (u.home h).txns = [] ∧
          u.net = s.net ++ [{ answer h t.req .dat with data := (ls[(granuleOf s.mem line).2]?).getD 0 }]) ∧
      ((dcxOf s dcx).exp = [] → (s.reg (Reg.mbd (dcxDie dcx) Reg.dcxPptLo)).getLsbD 0 = false →
        ∃ u d, exec (.dcxExpand dcx line) s = .next u ∧ (u.home h).txns = [] ∧
          u.net = s.net ++ [{ answer h t.req .dat with data := d, poison := true }] ∧
          u.flag (Reg.mbd (dcxDie dcx) Reg.dcxStat) 0 = true ∧ u.mem.bcc = s.mem.bcc)) ∧
    (∀ ag die, reachable s ag (Reg.mbd die Reg.dcxCtrl) = true →
      ∃ t, exec (.dcxInv ag die) s = .next t ∧ mgetD false t.mem.dcxBusy (if die then 1 else 0) = true ∧ t.mem.cells = s.mem.cells ∧
        ∀ n, dcxOf t n = if dcxDie n = die then default else dcxOf s n) ∧
    (∀ die, ∃ t, exec (.dcxInvDone die) s = .next t ∧ mgetD false t.mem.dcxBusy (if die then 1 else 0) = false ∧ t.mem.dcx = s.mem.dcx) ∧
    (∀ (h : BitVec 8) (t : Txn), homeOf s.mem t.line = h → (s.home h).txns = [t] → t.phase = .nmu → t.old = none →
        (s.home h).vic = [] → (s.home h).retry = [] →
      let n := redBytes t.req.red
      let d := (memPeek s.mem t.line).1
      ∃ u, exec (.nmuAdd h) s = .next u ∧ (u.home h).txns = [] ∧ u.net = s.net ++ [answer h t.req .cmp] ∧
        memPeek u.mem t.line = if (memPeek s.mem t.line).2 then memPeek s.mem t.line else
          (mergeLine d (maskAt t.req.off n)
            (lineAt t.req.off n (redSum t.req.red (lineNat d t.req.off n) (lineNat t.req.data t.req.off n))), false)) ∧
    (∀ ag die (n : BitVec 6), n.toNat ≤ 32 → reachable s ag (rmReg die n.toNat 0x10) = true →
      let cmds := [(Instr.rmClean ag die n, RmOp.clean), (.rmInvalidate ag die n, .invalidate), (.rmCleanInvalidate ag die n, .cleanInvalidate)]
      let addr := regPair s (rmReg die n.toNat 0x00)
      let len := regPair s (rmReg die n.toNat 0x08)
      ∀ c ∈ cmds,
        (∀ r, mgetD none s.mem.rm (rmKeyOf die n.toNat) = some r →
          exec c.1 s = .next (s.setFlag (rmReg die n.toNat 0x14) 1)) ∧
        (mgetD none s.mem.rm (rmKeyOf die n.toNat) = none →
          (len = 0 ∨ addr % 64 ≠ 0 ∨ len % 64 ≠ 0 → exec c.1 s = .next (s.setFlag (rmReg die n.toNat 0x14) 2)) ∧
          (len ≠ 0 → addr % 64 = 0 → len % 64 = 0 → addr + len ≤ 0x080000000000 →
            ∃ t, exec c.1 s = .next t ∧ mgetD none t.mem.rm (rmKeyOf die n.toNat) = some ⟨c.2, addr, len, none, []⟩ ∧
              t.mem.cells = s.mem.cells ∧ t.mem.bcc = s.mem.bcc ∧ t.clus = s.clus))) ∧
    (∀ die (r : RmRun) k (w : BccWay), mgetD none s.mem.rm (rmKeyOf die 32) = some r → s.mem.bcc = [(k, some w)] →
        dieOfHome (BitVec.ofNat 8 (k / 65536)) = die → inRange r w.line = true → w.dirty = true →
      ∃ t, exec (.rmDone die 32) s = .next t ∧ mgetD none t.mem.rm (rmKeyOf die 32) = none ∧
        t.flag (rmReg die 32 0x14) 0 = true ∧ regPair t (rmReg die 32 0x18) = s.ts.toNat ∧
        mgetD none t.mem.bcc k = (if r.op = .clean then some { w with dirty := false } else none) ∧
        rdLine t.mem.cells w.line = if r.op = .invalidate then rdLine s.mem.cells w.line else w.data) ∧
    (∀ die (n : BitVec 6) (cl : BitVec 6) (r : RmRun) k (w : L2Way), n.toNat < 32 → cl.toNat = n.toNat + (if die then 32 else 0) →
        mgetD none s.mem.rm (rmKeyOf die n.toNat) = some r → r.op = .invalidate → r.todo = none → r.wrote = [] →
        (s.cluster cl).pll = .running → (s.cluster cl).isolated = false → (s.cluster cl).l2 = [(k, some w)] →
        l2Find (s.cluster cl) w.line = some (k, w) → inRange r w.line = true → w.st = .E → holder s cl w = none →
        inTransit (s.cluster cl) w.line = false → vicSlot s cl w.line = true →
      ∃ t m, exec (.rmDone die n) s = .next t ∧ mgetD none (t.cluster cl).l2 k = none ∧ t.net = s.net ++ [m] ∧ m.kind = .vcn ∧
        m.line = w.line ∧ m.src = .cluster cl ∧ m.dst = .home (homeOf s.mem w.line) ∧ t.mem.cells = s.mem.cells ∧
        t.flag (rmReg die n.toNat 0x14) 0 = true ∧ mgetD none t.mem.rm (rmKeyOf die n.toNat) = none) ∧
    (∀ die line found p, scrubPlace s.mem line = some p → dieOfHome (homeOf s.mem line) = die →
        (s.reg (Reg.mbd die Reg.scrCtl)).getLsbD 0 = true → lineBusy s (homeOf s.mem line) line = false →
      ∃ t, exec (.scrubRead die line found) s = .next t ∧ t.mem.cells = s.mem.cells ∧ t.mem.bcc = s.mem.bcc ∧
        (found = .clean → t.mem.poison = s.mem.poison ∧ t.regs = s.regs) ∧
        (found = .corrected → t.mem.poison = s.mem.poison ∧ t.flag (Reg.mbd die Reg.scrStat) 0 = true) ∧
        (found = .uncorrectable → line ∈ t.mem.poison ∧ t.flag (Reg.mbd die Reg.scrStat) 1 = true)) ∧
    (∀ die stack, ∃ t, exec (.scrubOverrun die stack) s = .next t ∧ t.flag (Reg.mbd die Reg.scrStat) 2 = true ∧ t.mem.cells = s.mem.cells)

/-- R297 to R318, R325: the translation block. -/
def Obligations.WalksOpenRecordsAndBatchesAreWritten : Prop :=
  (∀ (s : State) (wt : Waiter) (q : XltReq) r, frozen s = false → s.xlt.stalled = [] →
      takeFirst (fun q : XltReq => q.wt == wt) s.xlt.reqs = some (q, r) → pageHeld s q.ctx q.va = false →
    (openRec s q.ctx q.va = none →
      exec (.xltRequest wt) s = .next (s.modXlt fun x => { x with reqs := r, walks := x.walks ++ [q] })) ∧
    (∀ f, s.xlt.recs = [f] → openRec s q.ctx q.va = some f → f.delivered = false → q.pf = false →
      ∃ t g, exec (.xltRequest wt) s = .next t ∧ t.xlt.reqs = r ∧ t.xlt.walks = s.xlt.walks ∧ t.xlt.recs = [g] ∧
        g.count = satAdd f.count 1 ∧ g.last = s.ts ∧ g.first = f.first ∧ g.entry = f.entry ∧ q.wt ∈ g.waiters ∧
        g.access = f.access ||| accessBits q.acc)) ∧
  (∀ (s : State) (wt : Waiter) (q : XltReq) r, frozen s = false → takeFirst (fun q : XltReq => q.wt == wt) s.xlt.stalled = some (q, r) →
      (ovtRecs s).length < 256 → openRec s q.ctx q.va = none →
    exec (.xltRequest wt) s = .next (s.modXlt fun x => { x with stalled := r, walks := x.walks ++ [q] })) ∧
  (∀ (s : State) (q : XltReq) (vpn : BitVec 27), frozen s = false → s.xlt.walks = [q] → vpnOf q.va.toNat = vpn.toNat →
      pageHeld s q.ctx q.va = false →
    (∀ c l seen s1, walk s q.ctx q.va q.acc = .ok l seen s1 → q.wt = .core c → (s.core c).st = .gated .xlt →
      ∃ t k e, exec (.walkDone q.ctx vpn) s = .next t ∧ t.xlt.walks = [] ∧ (t.core c).wake = true ∧ t.xlt.recs = s.xlt.recs ∧
        mgetD none (t.cluster c.cl).tlb k = some e ∧ e.ctx = q.ctx ∧ e.vpn = vpn.toNat ∧ e.leaf.tgt = l.tgt ∧ e.leaf.rank = l.rank) ∧
    (q.va.extractLsb' 52 12 ≠ 0 → s.xlt.recs = [] → s.xlt.batch = none → 0 < fqRoom s → q.pf = false →
      ∃ t r, exec (.walkDone q.ctx vpn) s = .next t ∧ t.xlt.walks = [] ∧ t.xlt.recs = [r] ∧ t.xlt.batch = some (s.ts, false) ∧
        r.ctx = q.ctx ∧ r.vpn = vpn.toNat ∧ r.cause = 0x100 ∧ r.va = q.va ∧ r.first = s.ts ∧ r.last = s.ts ∧ r.count = 1 ∧
        r.waiters = [q.wt] ∧ r.inBatch = true ∧ r.delivered = false ∧ r.resolved = false) ∧
    (q.va.extractLsb' 52 12 ≠ 0 → q.pf = true →
      exec (.walkDone q.ctx vpn) s = .next (s.modXlt fun x => { x with walks := [] }))) ∧
  (∀ (s : State) (t0 : Stamp) (r : FaultRec) s1, frozen s = false → s.xlt.batch = some (t0, false) → s.xlt.recs = [r] → s.xlt.writing = 0 →
      r.inBatch = true → r.delivered = false → r.resolved = false → t0.toNat + 16000 ≤ s.ts.toNat →
      writeRecs s (s.reg Reg.xltFqWr).toNat [r] = .ok s1 →
    ∃ t, exec .fqBatchClose s = .next t ∧ t.mem = s1.mem ∧ t.xlt.batch = none ∧ t.xlt.writing = 1 ∧
      t.xlt.recs = [{ r with delivered := true, inBatch := false }] ∧ t.reg Reg.xltFqWr = s.reg Reg.xltFqWr) ∧
  (∀ s : State, frozen s = false → s.xlt.writing ≠ 0 →
    ∃ t, exec .fqBatchWritten s = .next t ∧ t.reg Reg.xltFqWr = s.reg Reg.xltFqWr + BitVec.ofNat 32 s.xlt.writing ∧
      t.xlt.writing = 0 ∧ t.flag Reg.xltFqStat 0 = true ∧ t.mem = s.mem) ∧
  (∀ (s : State) (r : FaultRec), frozen s = false → s.xlt.recs = [r] → r.ovt = true → r.inBatch = false → r.delivered = false →
      s.xlt.batch = none → 0 < fqRoom s →
    exec .ovfBatchForm s = .next (s.modXlt fun x => { x with batch := some (s.ts, true), recs := [{ r with inBatch := true }] })) ∧
  (∀ (s : State) ag v, reachable s ag Reg.xltFqRd = true →
    exec (.xltFqRdWrite ag v) s = .next (if (v - s.reg Reg.xltFqRd).toNat ≤ (s.reg Reg.xltFqWr - s.reg Reg.xltFqRd).toNat
      then s.setReg Reg.xltFqRd v else s)) ∧
  ∀ (s : State) ag v, reachable s ag Reg.xltOwnTag = true →
    let page := s.fld Reg.xltOwnPage 0 18
    ((locate s.mem (page * 2 ^ 25)).isSome = true →
      ∃ t, exec (.xltOwnTagWrite ag v) s = .next t ∧ ownerAt t.mem false page = v.extractLsb' 0 20 ∧
        ownerAt t.mem true page = v.extractLsb' 0 20 ∧ t.mem.cells = s.mem.cells ∧
        ∀ die p, p < 2 ^ 20 → p ≠ page → ownerAt t.mem die p = ownerAt s.mem die p) ∧
    ((locate s.mem (page * 2 ^ 25)).isNone = true → exec (.xltOwnTagWrite ag v) s = .next s)

/-- R308 to R310, R320, R325. rsvKey names CTX and page of XLT_RSV_CTX and XLT_RSV_VA; invCover the pages of the invalidation registers. -/
def Obligations.ResolvesReleaseWaitersAndInvalidationsDrop : Prop :=
  (∀ (s : State) ag, frozen s = false → reachable s ag Reg.xltRsvCmd = true →
    (∀ r c, s.xlt.recs = [r] → rsvKey s = (r.ctx, r.vpn) → r.resolved = false → r.delivered = true → r.waiters = [.core c] →
        (s.core c).st = .gated .xlt →
      (∃ t, exec (.xltResolveRetry ag) s = .next t ∧ t.xlt.recs = [] ∧ (t.core c).wake = true ∧ (t.core c).st = .gated .xlt ∧
        t.flag Reg.xltRsvStat 0 = true ∧ t.mem = s.mem) ∧
      (∀ e i, (s.core c).xwait = some e → (s.cluster c.cl).run = some i →
        ∃ t, exec (.xltResolveFatal ag) s = .next t ∧ t.xlt.recs = [] ∧ (t.core c).st = .halted ∧ (t.core c).pc = (s.core c).pc ∧
          (t.core c).s = (s.core c).s ∧ t.flag Reg.xltRsvStat 0 = true ∧ t.mem = s.mem)) ∧
    ((∀ r ∈ s.xlt.recs, r.resolved = false → (r.ctx, r.vpn) ≠ rsvKey s) →
      exec (.xltResolveRetry ag) s = .next (s.setFlag Reg.xltRsvStat 1) ∧
      exec (.xltResolveFatal ag) s = .next (s.setFlag Reg.xltRsvStat 1))) ∧
  (∀ (s : State) ag, frozen s = false → reachable s ag Reg.xltInvCmd = true →
    let cmds := [(Instr.xltInvContext ag, true), (.xltInvRange ag, false)]
    ∀ p ∈ cmds,
      (s.xlt.inv.isSome = true → exec p.1 s = .next (s.setFlag Reg.xltInvStat 1)) ∧
      (s.xlt.inv = none → invCover s p.2 = none → exec p.1 s = .next (s.setFlag Reg.xltInvStat 2)) ∧
      (∀ v, s.xlt.inv = none → invCover s p.2 = some v →
        ∃ t, exec p.1 s = .next t ∧ t.xlt.inv = some (v.all, v.first, v.count, v.ctx) ∧ t.mem = s.mem ∧ t.cores = s.cores ∧
          (∀ cl k e, mgetD none (t.cluster cl).tlb k = some e → coversEnt v e = false) ∧
          (∀ k e, mgetD none t.xlt.tlb2 k = some e → coversEnt v e = false) ∧
          (∀ k e, mgetD none t.xlt.engTlb k = some e → coversEnt v e = false) ∧
          ∀ k e, mgetD none s.xlt.engTlb k = some e → coversEnt v e = false → mgetD none t.xlt.engTlb k = some e)) ∧
  (∀ (s : State) all first count ctx, frozen s = false → s.xlt.inv = some (all, first, count, ctx) →
      invQuiet s ⟨ctx, all, first, count⟩ = true →
    (∀ s1, genAdvance s ctx = .ok s1 →
      ∃ t, exec .xltInvDone s = .next t ∧ t.xlt.inv = none ∧ t.flag Reg.xltInvStat 0 = true ∧
        regPair t Reg.xltInvStamp = s.ts.toNat ∧ t.mem = s1.mem) ∧
    ((s.reg Reg.xltCtxtLo).getLsbD 0 = false → ∃ t, exec .xltInvDone s = .next t ∧ t.xlt.inv = none ∧ t.mem = s.mem)) ∧
  ∀ (s : State) (q : BitVec 5) (x : Dma) g s1, frozen s = false → dmaHead s q = some x → x.paused = true → x.waiting = false →
      readGen s x.cmd.ctx = .ok (g, s1) → g = x.gen → ((dmaPages x).all fun p => x.pages.any (·.1 == p)) = true →
    ∃ t, exec (.descRetranslate q) s = .next t ∧ dmaHead t q = some { x with paused := false } ∧ t.mem = s1.mem

/-- R326 to R335. agentWord, agentRead, agentPut and agentReadAny are the dispatcher's own accesses (R226). -/
def Obligations.RingsTakeAndStartCommands : Prop :=
  ∀ (s : State) (r : BitVec 10),
    (∀ ag v, reachable s ag Reg.dspDb = true →
      exec (.doorbell ag r v) s = .next (if (s.ring r).on = true ∧ slotsOf (s.ring r).log2 < (v - (s.ring r).rd).toNat
        then s.setFlag Reg.dspStat 1 else s.setReg (Reg.dspDb + 4 * r.toNat) v)) ∧
    (∀ ag v p s1, reachable s ag Reg.dspRingCtl = true → dspStopped s = false → (s.ring r).on = false →
        agentWord s .dsp 0 (ringEntry s r) 64 = .ok (v, p, s1) → s.ctxSlot (BitVec.ofNat 20 (bitsN v 64 20)) = none →
      (p = false → ringEntryOk v = true → slotsUsed s < 256 → (s.ev (BitVec.ofNat 8 (bitsN v 112 8))).bound = true →
        ∃ t, exec (.ringEnable ag r) s = .next t ∧ (t.ring r).on = true ∧ (t.ring r).base = bitsN v 12 32 * 4096 ∧
          (t.ring r).log2 = bitsN v 0 6 ∧ (t.ring r).ctx = BitVec.ofNat 20 (bitsN v 64 20) ∧ (t.ring r).prio = bitsN v 96 2 ∧
          (t.ring r).ev = BitVec.ofNat 8 (bitsN v 112 8) ∧ (t.ring r).rd = BitVec.ofNat 32 (bitsN v 128 32) ∧
          (t.ring r).held = none ∧ (t.ring r).active = [] ∧ t.mem = s1.mem ∧
          t.ctxSlot (BitVec.ofNat 20 (bitsN v 64 20)) = some ⟨0, false, [r], r, none, []⟩ ∧
          dbOf t r = BitVec.ofNat 32 (bitsN v 128 32)) ∧
      (p = true ∨ ringEntryOk v = false ∨ 256 ≤ slotsUsed s →
        exec (.ringEnable ag r) s = .next (s1.setFlag Reg.dspStat 0))) ∧
    (∀ ag, reachable s ag Reg.dspRingCtl = true → frozen s = false → (s.ring r).on = true →
      ((s.ring r).held = none → (s.ring r).active = [] → (s.ring r).step = none →
        ∃ t, exec (.ringDisable ag r) s = .next t ∧ (t.ring r).on = false ∧ t.mem = s.mem) ∧
      ((s.ring r).active ≠ [] →
        exec (.ringDisable ag r) s = .next (s.modRing r fun x => { x with closing := true }))) ∧
    (∀ d s1 s2, dspStopped s = false → pickRing s = some r → (s.ring r).on = true → (s.ring r).closing = false →
        agentRead s .dsp 0 0 (((s.ring r).base + 64 * ((s.ring r).rd.toNat % slotsOf (s.ring r).log2)) / 64) false = .ok (d, false, s1) →
        agentPut s1 .dsp 0 (ringEntry s1 r + 0x10) 4 ((s.ring r).rd + 1).toNat = .ok s2 →
      let c := cmdOf r (s.ring r).ctx (s.ring r).rd (if lineByte d 0 = 9 then none else (s.ring r).step) d
      (headerOk c d = true → bodyOk c = true → c.opc = 0 → c.wait = false →
        ∃ t h, exec .commandTake s = .next t ∧ (t.ring r).rd = (s.ring r).rd + 1 ∧ (t.ring r).held = some h ∧ h.cmd = c ∧
          h.gateMet = true ∧ h.started = false ∧ t.mem = s2.mem) ∧
      (headerOk c d = false →
        ∃ t, exec .commandTake s = .next t ∧ (t.ring r).rd = (s.ring r).rd + 1 ∧ (t.ring r).held = none ∧
          recorded s t r (doneRec s c stBadcmd s.ts.toNat 0 0 0 0) ∧ t.mem = s2.mem)) ∧
    (∀ h l d p s1, dspStopped s = false → (s.ring r).held = some h → (s.ring r).closing = false → h.cmd.ring = r →
        h.cmd.wait = true → h.gateMet = false → h.gateWait = false →
        h.gateTs = 0 ∨ h.gateTs.toNat + 4000 ≤ s.ts.toNat →
        ((cmdPages s h.cmd).all fun q => h.pages.any (·.1 == q)) = true → leafFor h.pages h.cmd.waitAddr.toNat .read = some l →
        destOf l = .device → agentReadAny s .dsp 0 h.cmd.ctx (physOf l h.cmd.waitAddr.toNat / 64) false = .ok (d, p, s1) →
      (p = false → ∃ t g, exec (.waitGatePoll r) s = .next t ∧ (t.ring r).held = some g ∧ g.cmd = h.cmd ∧ g.gateTs = s.ts ∧
        g.gateMet = decide (h.cmd.waitVal.toNat ≤ (lineWord d (physOf l h.cmd.waitAddr.toNat % 64) 8).toNat) ∧ t.mem = s1.mem) ∧
      (p = true → ∃ t, exec (.waitGatePoll r) s = .next t ∧ (t.ring r).held = none ∧
        recorded s t r (doneRec s h.cmd stPoison s.ts.toNat 0 0 0 0))) ∧
    ∀ h, dspStopped s = false → (s.ring r).held = some h → h.started = false → h.gateMet = true → kindReady s h = true →
        (h.cmd.opc = 2 → dmaOverlaps h = false) →
      (cmdPages s h.cmd = [] →
        exec (.commandStart r) s = .next (s.modRing r fun x => { x with held := some { h with started := true } })) ∧
      ∀ g s1, ((cmdPages s h.cmd).all fun q => h.pages.any (·.1 == q)) = true → readGen s h.cmd.ctx = .ok (g, s1) → h.gen = g →
        ∃ t, exec (.commandStart r) s = .next t ∧ (t.ring r).held = some { h with started := true } ∧ t.dsp.launches = s.dsp.launches

/-- R324, R334 to R349. -/
def Obligations.CommandsRunAndComplete : Prop :=
  ∀ (s : State) (r : BitVec 10) (h : HeldCmd), dspStopped s = false →
    let c := h.cmd
    let f := bodyNat c
    let ts := s.ts.toNat
    (startedCmd s r 0 = some h → (s.ring r).closing = false → exec (.nopCommand r) s = .next (sendToken (s.modRing r fun x => { x with held := none }) c)) ∧
    (runsCmd s r 8 h → ∃ t, exec (.energyMark r) s = .next t ∧ (t.ring r).held = none ∧
      recorded s t r (doneRec s c stOK ts 0 0 (energyOf s c.ctx).toNat 0)) ∧
    (startedCmd s r 8 = some h → c.ring = r → (s.ring r).closing = false → c.norec = true → ∃ t, exec (.energyMark r) s = .next t ∧
      (t.ring r).held = none ∧ t.dsp.evs = s.dsp.evs) ∧
    (startedCmd s r 1 = some h → c.ring = r → ∃ t l, exec (.launch r) s = .next t ∧ nowActive s t r c ∧ t.dsp.launches = s.dsp.launches ++ [l] ∧
      l.cmd = c ∧ l.mask = BitVec.ofNat 64 (f 0x10 8) ∧ l.entry = BitVec.ofNat 64 (f 0x18 8) ∧ l.arg = BitVec.ofNat 64 (f 0x20 8) ∧
      l.sel = f 0x28 2 ∧ l.phase = .queued ∧ l.recs = [] ∧ t.cores = s.cores) ∧
    (startedCmd s r 2 = some h → c.ring = r → ∃ t x, exec (.dma r) s = .next t ∧ nowActive s t r c ∧
      mget t.dsp.dma (f 0x2C 1) = mget s.dsp.dma (f 0x2C 1) ++ [x] ∧ x.cmd = c ∧ x.src = BitVec.ofNat 64 (f 0x10 8) ∧
      x.dst = BitVec.ofNat 64 (f 0x18 8) ∧ x.lines = f 0x20 8 / 64 ∧ x.next = 0 ∧ x.pages = h.pages ∧ t.mem = s.mem) ∧
    (∀ (q : BitVec 5) (x : Dma) (d : Line) l s1, dmaHead s q = some x → 0 < x.next → x.lines = x.next + 1 → x.waiting = false →
        x.paused = false → x.buf = some (d, false) → x.status = stOK → leafFor x.pages (x.dst.toNat + 64 * x.next) .write = some l →
        destOf l = .device → (s.ring x.cmd.ring).closing = false → x.cmd.norec = false →
        agentWrite s .dsp 0 x.cmd.ctx (physOf l (x.dst.toNat + 64 * x.next) / 64) Mask.full d false x.stream = .ok s1 →
      ∃ t, exec (.dmaComplete q) s = .next t ∧ t.mem = s1.mem ∧ mget t.dsp.dma q.toNat = (mget s.dsp.dma q.toNat).tail ∧
        recorded s t x.cmd.ring (doneRec s x.cmd stOK ts x.path.toNat 0 (64 * x.lines) 0)) ∧
    (startedCmd s r 4 = some h → c.ring = r → ∃ t m, exec (.fence r) s = .next t ∧ nowActive s t r c ∧ t.dsp.markers = s.dsp.markers ++ [m] ∧ m.cmd = c ∧
      m.drain = decide (f 0x10 1 = 1) ∧ m.stamp = (s.ring r).maxStamp ∧ m.path = (s.ring r).pathMask) ∧
    (∀ m k, findMarker s r k 4 = some m → m.drain = false → m.cmd.norec = false → m.cmd.ring = r → (s.ring r).closing = false →
      ∃ t, exec (.fenceComplete r k) s = .next t ∧
        recorded s t r (doneRec s m.cmd stOK (if (s.ring r).wrote then m.stamp.toNat else ts) 0 0 0 0) ∧
        (t.ring r).active = (s.ring r).active.filter (·.1 != k) ∧ findMarker t r m.cmd.idx 4 = none) ∧
    (runsCmd s r 5 h → s.dsp.jobs = [] → s.mem.flipping = [] → f 0x1A 1 % 2 = 1 →
      ∃ t, exec (.bias r) s = .next t ∧ t.dsp.jobs = [] ∧ t.mem.cells = s.mem.cells ∧
        (∀ p ∈ biasPages c, biasSkips s c.ctx p = false → ∀ die, sharedAt t.mem die p = true) ∧
        recorded s t r (doneRec s c stOK ts 0 0 ((biasPages c).filter (biasSkips s c.ctx)).length 0)) ∧
    (∀ j, s.dsp.jobs = [j] → j.pages = [] → j.cmd.ring = r → j.cmd.norec = false → (s.ring r).closing = false →
        (s.ring r).held = none →
      (j.cmd.opc = 6 → ∃ t, exec (.prefetch r) s = .next t ∧ t.dsp.jobs = [] ∧ t.mem = s.mem ∧
        recorded s t r (doneRec s j.cmd stOK ts 0 0 j.skipped.length 0)) ∧
      (j.cmd.opc = 7 → j.skipped = [] → ∃ t, exec (.adviseMigrate r) s = .next t ∧ t.dsp.jobs = [] ∧ t.mem = s.mem ∧
        recorded s t r (doneRec s j.cmd stOK ts 0 0 0 0))) ∧
    (∀ x, (s.ring r).held = some h → c.opc = 9 → c.ring = r → c.step = none → (s.ring r).step = none → s.ctxSlot c.ctx = some x →
        x.nextStep = none → x.steps = [] →
      let n := BitVec.ofNat 16 (f 0x10 2)
      ∃ t y, exec (.stepBegin r) s = .next t ∧ (t.ring r).step = some n ∧ t.ctxSlot c.ctx = some y ∧ y.nextStep = some (n + 1) ∧
        y.steps = [⟨n, r, BitVec.ofNat 64 (f 0x18 8), BitVec.ofNat 64 (f 0x20 8), false, 0⟩]) ∧
    (∀ x u n, (s.ring r).held = some h → c.opc = 9 → c.ring = r → c.wait = false → h.gateMet = true → c.step = some n →
        s.ctxSlot c.ctx = some x → (s.ring r).closing = false → c.norec = false →
        x.steps.find? (fun t => t.num == n && t.ring == r && !t.started) = some u →
        (∀ v ∈ x.steps, earlier v.num n = true → traysMeet u v = false) →
      ∃ t, exec (.stepStart r) s = .next t ∧ (t.ring r).held = none ∧
        recorded s t r (doneRec s c stOK ts 0 n.toNat (energyOf s c.ctx).toNat 0)) ∧
    (runsCmd s r 10 h →
      let n := BitVec.ofNat 16 (f 0x10 2)
      ((s.ring r).step = some n → ∃ t m, exec (.stepEnd r) s = .next t ∧ nowActive s t r c ∧ t.dsp.markers = s.dsp.markers ++ [m] ∧
        m.cmd = c ∧ m.after = ((s.ring r).active.filter fun e => e.2 == some n).map (·.1) ∧
        (t.ring r).step = if f 0x12 1 = 1 then none else some n) ∧
      ((s.ring r).step ≠ some n → ∃ t, exec (.stepEnd r) s = .next t ∧ (t.ring r).held = none ∧
        recorded s t r (doneRec s c stSteperr ts 0 n.toNat (energyOf s c.ctx).toNat 0))) ∧
    (∀ m k, findMarker s r k 10 = some m → (m.after.any fun i => (s.ring r).active.any (·.1 == i)) = false → bodyNat m.cmd 0x12 1 = 1 →
        m.cmd.ring = r → (s.ring r).closing = false → m.cmd.norec = false →
      let n := BitVec.ofNat 16 (bodyNat m.cmd 0x10 2)
      let bad := stepBad s m.cmd.ctx n r
      ∃ t, exec (.stepEndEffect r k) s = .next t ∧
        recorded s t r (doneRec s m.cmd (if bad = 0 then stOK else stStepfail) ts 0 n.toNat (energyOf s m.cmd.ctx).toNat bad) ∧
        ∀ y u, t.ctxSlot m.cmd.ctx = some y → u ∈ y.steps → u.num = n → u.ring ≠ r) ∧
    (∀ (m : BitVec 8) d rest s1 s2, (s.ev m).recs = d :: rest → (s.ev m).bound = true →
        ((s.ev m).wr - s.reg (Reg.dspEvRd + 4 * m.toNat)).toNat ≠ slotsOf (s.ev m).log2 →
        agentWrite s .dsp 0 0 (((s.ev m).base + 64 * ((s.ev m).wr.toNat % slotsOf (s.ev m).log2)) / 64) Mask.full d false false = .ok s1 →
        agentPut s1 .dsp 0 (evEntry s1 m + 8) 4 ((s.ev m).wr + 1).toNat = .ok s2 →
      ∃ t, exec (.eventRecordWrite m) s = .next t ∧ t.mem = s2.mem ∧ (t.ev m).recs = rest ∧ (t.ev m).wr = (s.ev m).wr + 1 ∧
        t.reg (Reg.dspEvWr + 4 * m.toNat) = (s.ev m).wr + 1) ∧
    (∀ ag (m : BitVec 8) v, reachable s ag Reg.dspEvRd = true →
      let off := Reg.dspEvRd + 4 * m.toNat
      exec (.evrdWrite ag m v) s = .next (if (v - s.reg off).toNat ≤ (s.reg (Reg.dspEvWr + 4 * m.toNat) - s.reg off).toNat
        then s.setReg off v else s)) ∧
    ∀ ctx x, s.ctxSlot ctx = some x → x.rings = [] → ∃ t, exec (.contextClosed ctx) s = .next t ∧ t.ctxSlot ctx = none ∧
      recorded s t x.last (recordLine 3 0 0 ctx.toNat x.last.toNat 0 (s.ring x.last).rd.toNat 0 ts ts 0 x.energy.toNat 0)

/-- R352 to R355, R361, R364, R374, R376, R377, R397. -/
def Obligations.FabricFramesPortsAndTime : Prop :=
  ∀ (s : State) (n : BitVec 4), frozen s = false →
    let x := s.port n
    (∀ f : Frame, x.st = .up → f.corrected = 0 →
      (f.good = false → exec (.fabricFrameRx n f) s = .next (s.modPort n fun x => { x with await := true, nak := true })) ∧
      (f.good = true → f.null = false → f.fsn ≠ x.rxFsn + 1 → x.await = false →
        exec (.fabricFrameRx n f) s = .next (s.modPort n fun x => { x with await := true, nak := true })) ∧
      (f.good = true → f.null = true → f.nak = false →
        exec (.fabricFrameRx n f) s = .next (s.modPort n fun x => { x with
          unacked := ackFrames x.unacked f.asn
          crRsp := x.crRsp + f.crRsp.toNat
          crCtl := x.crCtl + f.crCtl.toNat
          crReq := x.crReq + f.crReq.toNat })) ∧
      (∀ p rest, f.good = true → f.null = false → f.nak = false → f.fsn = x.rxFsn + 1 →
          cutPackets (x.part ++ f.words).length (x.part ++ f.words) = ([p], rest) →
        ∃ t, exec (.fabricFrameRx n f) s = .next t ∧ (t.port n).rxFsn = f.fsn ∧ (t.port n).await = false ∧ (t.port n).part = rest ∧
          (t.port n).unacked = ackFrames x.unacked f.asn ∧
          (typeClass p.ty = some p.cls ∧ p.dst = (s.reg Reg.fabMyaddr).extractLsb' 0 16 → (t.port n).rx = x.rx ++ [p] ∧ t.regs = s.regs) ∧
          (typeClass p.ty ≠ some p.cls ∨ p.dst ≠ (s.reg Reg.fabMyaddr).extractLsb' 0 16 →
            (t.port n).rx = x.rx ∧ (t.cnt Reg.fabDiscard).toNat = min (2 ^ 64 - 1) ((s.cnt Reg.fabDiscard).toNat + 1)))) ∧
    (∀ a k rest, x.st = .up → x.unacked = (a, k) :: rest → 8 ≤ k →
      exec (.fabPortRetrain n .replays) s = .next (s.modPort n fun x => { x with st := .training, fresh := false })) ∧
    (x.st = .up → exec (.fabPortRetrain n .lostLock) s = .next (s.modPort n fun x => { x with st := .training, fresh := false })) ∧
    (x.st = .training → x.fresh = false →
      (∃ t, exec (.fabRetrainDone n true) s = .next t ∧ (t.port n).st = .up ∧ (t.port n).fails = 0 ∧
        (t.port n).unacked = x.unacked.map (fun f => (f.1, 1)) ∧ t.flag (Reg.fabPort n.toNat 0x08) 0 = true) ∧
      (x.fails < 2 → exec (.fabRetrainDone n false) s = .next (s.modPort n fun x => { x with fails := x.fails + 1 })) ∧
      (2 ≤ x.fails → ∃ t, exec (.fabRetrainDone n false) s = .next t ∧ (t.port n).st = .failed ∧ (t.port n).unacked = [] ∧
        t.flag (Reg.fabPort n.toNat 0x08) 1 = true)) ∧
    (∀ ag, reachable s ag (Reg.fabPort n.toNat 0) = true →
      (x.st = .up ∨ x.st = .failed → exec (.fabPortRetrainCmd ag n) s =
        .next (s.modPort n fun x => { x with st := .training, fresh := false, fails := 0 })) ∧
      (x.st = .off ∨ x.st = .training → exec (.fabPortRetrainCmd ag n) s = .next s)) ∧
    (x.st = .training → x.fresh = true → exec (.fabPortTrained n) s =
      .next (s.modPort n fun x => { x with st := .up, fresh := false, crRsp := 512, crCtl := 128, crReq := 1536 })) ∧
    (tsRole s = 1 → portReady (s.port (BitVec.ofNat 4 (s.fld Reg.fabTsCtl 0 4))) (tsyPacket 0 0 s.ts 0 0 false) = true →
      ∃ t q, exec .tsySend s = .next t ∧ t.fab.tx = s.fab.tx ++ [(BitVec.ofNat 4 (s.fld Reg.fabTsCtl 0 4), q)] ∧ q.ty = 0x30 ∧
        q.body.extractLsb' 0 64 = s.ts ∧ q.body.getLsbD 192 = false) ∧
    (∀ p s1, rxTake s n 0x30 = some (p, s1) →
      let ofs := offsetOf (p.body.extractLsb' 0 64) (p.body.extractLsb' 64 64) (p.body.extractLsb' 128 64) s.ts p.arg
      (p.body.getLsbD 192 = false → tsRole s ≠ 0 → portReady (s1.port n) (tsyPacket p.src p.arg 0 0 0 true) = true →
        ∃ t q, exec (.tsy n) s = .next t ∧ t.fab.tx = s.fab.tx ++ [(n, q)] ∧ q.ty = 0x30 ∧ q.dst = p.src ∧
          q.body.extractLsb' 0 64 = p.body.extractLsb' 0 64 ∧ q.body.extractLsb' 64 64 = s.ts ∧ q.body.extractLsb' 128 64 = s.ts ∧
          q.body.getLsbD 192 = true) ∧
      (p.body.getLsbD 192 = true → tsRole s = 1 →
        ∃ t, exec (.tsy n) s = .next t ∧ t.fab.ofs = ofs ∧ t.fab.tsyTs = t.ts ∧
          (ofs ≤ 10000000 → t.ts = s.ts) ∧ (10000000 < ofs → t.ts = s.ts + BitVec.ofNat 64 (ofs.toNat / 250)) ∧
          (ofs < -10000000 → t.tsRate = .half) ∧ (10000 < ofs.natAbs → t.fab.lock = false) ∧
          (ofs.natAbs ≤ 2000 → 2 ≤ s.fab.good → t.fab.lock = true) ∧ (2000 < ofs.natAbs → t.fab.good = 0))) ∧
    (s.fab.tsyTs.toNat + 20000000 ≤ s.ts.toNat → exec .tsLockTimeout s = .next (s.modFab fun b => { b with lock := false, good := 0 })) ∧
    (∀ ag, reachable s ag Reg.fabTabCtl = true → ∃ t, exec (.fabTabInv ag) s = .next t ∧ t.fab.rankTab = [] ∧ t.fab.routeTab = [] ∧
      (∀ d ∈ t.fab.dead, d ∈ s.fab.dead) ∧ (s.fab.rankTab = [] → t.fab.dead = s.fab.dead) ∧ t.mem = s.mem) ∧
    ∀ ag all a, reachable s ag Reg.fabDeadClr = true →
      exec (.fabDeadClr ag all a) s = .next (s.modFab fun b => { b with dead := if all then [] else b.dead.filter (· != a) })

/-- R288 to R292, R365 to R375. takesLine and routed say that the access and the answer can be made at once. -/
def Obligations.FabricPacketsArePerformedAnsweredAndResent : Prop :=
  ∀ (s : State) (port : BitVec 4), frozen s = false → Memory.wf s.mem.cells = true → s.prz.out = [] →
    (∀ ty p s1, rxTake s port ty = some (p, s1) → s.fab.flows = [] → p.fseq = p.base →
      (∀ d n, (s.reg Reg.fabMyrank).getLsbD 31 = true → (s.reg Reg.fabMyrank).extractLsb' 0 16 = p.drank →
          takesLine s .fab p.ctx (pktLine p) = true → routed s p.src 0 0 n →
        (ty = 0x01 → p.pay = [d] → ∃ t f q, exec (.fabWr port) s = .next t ∧ memPeek t.mem (pktLine p) = (d, p.poison) ∧
          t.fab.flows = [f] ∧ f.src = p.src ∧ f.flow = p.flow ∧ f.next = p.fseq + 1 ∧ f.waiting = [] ∧
          t.fab.tx = s.fab.tx ++ [(n, q)] ∧ q.ty = 0x10 ∧ q.dst = p.src ∧ q.flow = p.flow ∧ q.fseq = p.fseq) ∧
        (∀ m : Line, ty = 0x02 → p.pay = [d, m] → (dirGet s.mem (pktLine p)).sharers = 0 → ∃ t f q, exec (.fabWrm port) s = .next t ∧
          (memPeek t.mem (pktLine p)).1 = mergeLine (memPeek s.mem (pktLine p)).1 (m.extractLsb' 0 64) d ∧
          t.fab.flows = [f] ∧ f.next = p.fseq + 1 ∧ t.fab.tx = s.fab.tx ++ [(n, q)] ∧ q.ty = 0x10 ∧ q.fseq = p.fseq)) ∧
      (∀ n, ty = 0x03 → (s.reg Reg.fabMyrank).getLsbD 31 = true → (s.reg Reg.fabMyrank).extractLsb' 0 16 = p.drank →
          takesLine s .fab p.ctx (pktLine p) = true → (dirGet s.mem (pktLine p)).cst ≠ .X → p.arg.extractLsb' 48 6 = 0 →
          routed s p.src 0 1 n → ∃ t q, exec (.fabRd port) s = .next t ∧ t.fab.tx = s.fab.tx ++ [(n, q)] ∧ q.ty = 0x11 ∧
        q.dst = p.src ∧ q.flow = p.flow ∧ q.fseq = p.fseq ∧ q.pay = [(memPeek s.mem (pktLine p)).1] ∧
        q.arg = if (memPeek s.mem (pktLine p)).2 then 1 else 0) ∧
      (∀ n, (s.reg Reg.fabMyrank).extractLsb' 0 16 ≠ p.drank → routed s p.src 0 0 n →
        ∀ c ∈ [((0x01 : BitVec 8), Instr.fabWr port), (0x02, .fabWrm port), (0x03, .fabRd port), (0x08, .pzd port)], ty = c.1 →
          ∃ t q, exec c.2 s = .next t ∧ t.fab.tx = s.fab.tx ++ [(n, q)] ∧ q.ty = 0x12 ∧ q.fseq = p.fseq ∧ q.arg = 2 ∧
            t.flag Reg.fabStat 1 = true ∧ t.mem = s.mem)) ∧
    (∀ e p s1, s.fab.sent = [e] → e.pkt.dst = p.src → e.pkt.flow = p.flow →
      (∀ c tag o, rxTake s port 0x10 = some (p, s1) → e.pkt.ty = 0x01 → seqBefore p.fseq e.pkt.fseq = false → e.srcs = [.store c tag] →
          (s.cluster c.cl).outw = [o] → o.tag = tag →
        ∃ t, exec (.fabAck port) s = .next t ∧ t.fab.sent = [] ∧ (t.cluster c.cl).outw = [] ∧ (t.core c).fns = (s.core c).fns ∧
          t.mem = s.mem) ∧
      (∀ c q, rxTake s port 0x11 = some (p, s1) → e.pkt.ty = 0x03 → e.pkt.fseq = p.fseq → e.srcs = [.load c] → (s.core c).pend = some q →
          q.dest = .fabric e.pkt.drank → q.pa / 64 = (e.pkt.arg.extractLsb' 0 44).toNat / 64 → q.ifetch = false →
          p.arg.getLsbD 0 = false →
        ∃ t, exec (.rdd port) s = .next t ∧ t.fab.sent = [] ∧
          t.core c = loadInto q ((p.pay[0]?).getD 0) { s.core c with pend := none } ∧ t.mem = s.mem) ∧
      (∀ c q i, rxTake s port 0x12 = some (p, s1) → e.pkt.fseq = p.fseq → p.arg.extractLsb' 0 8 = 1 → e.srcs = [.load c] →
          (s.core c).pend = some q → q.dest = .fabric e.pkt.drank → q.pa / 64 = (e.pkt.arg.extractLsb' 0 44).toNat / 64 →
          (s.cluster c.cl).run = some i →
        ∃ t, exec (.fabNak port) s = .next t ∧ t.fab.sent = [] ∧ (t.core c).st = .halted ∧ (t.core c).pend = none ∧
          (t.core c).s = (s.core c).s) ∧
      (rxTake s port 0x12 = some (p, s1) → e.pkt.fseq = p.fseq → p.arg.extractLsb' 0 8 = 2 ∨ p.arg.extractLsb' 0 8 = 3 →
        ∃ t, exec (.fabNak port) s = .next t ∧ t.fab.sent = [{ e with nakTs := some s.ts }] ∧ t.mem = s.mem)) ∧
    (∀ e mask n, s.fab.sent = [e] → mgetD none s.fab.routeTab (routeIndex ((s.reg Reg.fabMyaddr).extractLsb' 0 16) e.pkt.dst) = some mask →
        nextPort s mask e.pkt e.port = some n →
      ∀ i ∈ [Instr.fabAckTimeout 0, .fabNakResend 0],
        (i = .fabAckTimeout 0 → e.last.toNat + ackTmo s ≤ s.ts.toNat) →
        (i = .fabNakResend 0 → ∃ t0, e.nakTs = some t0 ∧ t0.toNat + 4000 ≤ s.ts.toNat) →
        ∃ t, exec i s = .next t ∧ t.fab.tx = s.fab.tx ++ [(n, e.pkt)] ∧ t.fab.sent = [{ e with port := n, last := s.ts, nakTs := none }] ∧
          (t.cnt Reg.fabResend).toNat = min (2 ^ 64 - 1) ((s.cnt Reg.fabResend).toNat + 1)) ∧
    (∀ e c tag, s.fab.sent = [e] → e.first.toNat + 9 * ackTmo s ≤ s.ts.toNat → e.pkt.ty = 0x01 → e.srcs = [.store c tag] →
      ∃ t, exec (.fabDestDead e.pkt.dst) s = .next t ∧ t.fab.sent = [] ∧ e.pkt.dst ∈ t.fab.dead ∧ (t.core c).fns = true ∧
        t.flag Reg.fabDrainStat 0 = true ∧ t.flag Reg.fabStat 0 = true) ∧
    (∀ c e n, s.fab.comb = [c] → s.fab.sent = [] → c.ts.toNat + 2000 ≤ s.ts.toNat → (s.reg Reg.fabRetx).getLsbD 0 = true → c.pkt.cls = 2 →
        mgetD none s.fab.rankTab c.pkt.drank.toNat = some e → e.getLsbD 31 = true → c.pkt.pay.length ≤ 64 → c.pkt.ty = 0x01 →
        routed s (e.extractLsb' 0 16) 2 c.pkt.pay.length n →
      ∃ t q x, exec (.fabCombineTimeout 0) s = .next t ∧ t.fab.comb = [] ∧ t.fab.tx = s.fab.tx ++ [(n, q)] ∧
        q.dst = e.extractLsb' 0 16 ∧ q.pay = c.pkt.pay ∧ q.arg = c.pkt.arg ∧ t.fab.sent = [x] ∧ x.pkt = q ∧ x.srcs = c.srcs ∧ x.entry = c.ts) ∧
    (∀ f, s.fab.flows = [f] → f.waiting = [] → f.unacked = 0 → f.last.toNat + 2000000 ≤ s.ts.toNat →
      exec (.flowEntryFree f.src f.flow) s = .next (s.modFab fun b => { b with flows := [] })) ∧
    ∀ ag, reachable s ag Reg.fabDrained = true → s.fab.comb = [] →
      ∃ t d, exec (.fabDrainedRead ag) s = .next t ∧ t.regs.reads = (ag, Reg.fabDrained, d.extractLsb' 0 32) :: s.regs.reads ∧
        t.fab.drained = d ∧ (s.fab.sent = [] → s.fab.drained.toNat ≤ s.ts.toNat → d = s.ts) ∧ s.fab.drained.toNat ≤ d.toNat

/-- R379 to R392. In the clauses about a barrier nothing else of the collective waits, so that the packet's own effect shows. -/
def Obligations.PrismMembersFollowTheirTree : Prop :=
  ∀ (s : State), frozen s = false → s.prz.out = [] →
    (∀ ag t, reachable s ag Reg.przTreeCtl = true →
      (∀ v s1 x, collOf s t = none → agentWord s .dsp 0 (baseOf s Reg.przTtabLo 12 + 64 * t.toNat) 64 = .ok (v, false, s1) →
        treeOfEntry v = some x → ∃ u, exec (.treeLoad ag t) s = .next u ∧ treeOf u t = some x ∧ x.seq = 0 ∧ u.mem = s1.mem) ∧
      ((collOf s t).isSome = true → exec (.treeLoad ag t) s = .next (s.setFlag Reg.przStat 0)) ∧
      (∀ x, treeOf s t = some x → x.coll = none → ∃ u, exec (.treeUnload ag t) s = .next u ∧ treeOf u t = none ∧ u.dsp = s.dsp) ∧
      (∀ x c cmd, treeOf s t = some x → x.coll = some c → collCmd s t cmd → x.root = true → c.wrote = [] →
        ∃ u lo, exec (.treeUnload ag t) s = .next u ∧ treeOf u t = none ∧ mgetD none u.dsp.colls t.toNat = none ∧
          recorded s u cmd.ring (doneRec s cmd stAborted s.ts.toNat 0 0 lo (c.seq.toNat + 9 * 2 ^ 32)))) ∧
    (∀ r h x s1, dspStopped s = false → startedCmd s r 3 = some h → h.cmd.ring = r → treeOf s (BitVec.ofNat 6 (collTree h.cmd)) = some x →
        x.ctx = h.cmd.ctx → x.coll = none → x.root = false → readGen s h.cmd.ctx = .ok (h.gen, s1) →
        bodyNat h.cmd 0x25 1 = 0 ∨ bodyNat h.cmd 0x25 1 = 3 →
      ∃ u c, exec (.collective r) s = .next u ∧ nowActive s u r h.cmd ∧ collOf u (BitVec.ofNat 6 (collTree h.cmd)) = some c ∧
        c.seq = x.seq + 1 ∧ c.op = bodyNat h.cmd 0x25 1 ∧ c.len = bodyNat h.cmd 0x20 4 ∧ c.dst = BitVec.ofNat 64 (bodyNat h.cmd 0x18 8) ∧
        mgetD none u.dsp.colls (BitVec.ofNat 6 (collTree h.cmd)).toNat = some h.cmd) ∧
    (∀ port ty p x c r, przFrom s port ty p x c r →
      let t := p.arg.extractLsb' 26 6
      (∀ d l, ty = 0x08 → c.op = 0 → c.summary = none → c.inq = [] → c.paused = false → x.root = false → c.parentRank = r → c.len = 1 →
          c.wrote = [] → p.arg.extractLsb' 0 20 = 0 → p.pay = [d] → leafFor c.pages c.dst.toNat .write = some l → destOf l = .device →
          takesLine s .dsp x.ctx (physOf l c.dst.toNat / 64) = true → Memory.wf s.mem.cells = true →
        ∃ u k, exec (.pzd port) s = .next u ∧ memPeek u.mem (physOf l c.dst.toNat / 64) = (d, p.poison) ∧ collOf u t = some k ∧
          k.wrote = [0] ∧ k.inq = []) ∧
      (barrierOpen c →
        (ty = 0x20 → notSettling x c → ∃ u k, exec (.przReady port) s = .next u ∧ collOf u t = some k ∧ (c.parentRank = r → k.parentReady = true) ∧
          ∀ i ∈ k.kids, i.rank = r → i.ready = true) ∧
        (∀ i, ty = 0x22 → p.arg.getLsbD 25 = false → c.kids = [i] → i.live = true → i.rank = r →
          ∃ u, exec (.przDone port) s = .next u ∧ (x.root = false → (collOf u t).isSome = true) ∧
            ∀ k, collOf u t = some k → ∃ j, k.kids = [j] ∧ j.rank = r ∧ j.done = true) ∧
        (∀ cmd, ty = 0x23 → p.arg.extractLsb' 0 18 = 0 → collCmd s t cmd → x.root = false → c.wrote = [] →
          ∃ u, exec (.przSummary port) s = .next u ∧ collOf u t = none ∧ mgetD none u.dsp.colls t.toNat = none ∧
            recorded s u cmd.ring (doneRec s cmd stOK s.ts.toNat 0 0 0 c.seq.toNat)) ∧
        (ty = 0x24 → notSettling x c → ∃ u k i, exec (.join port) s = .next u ∧ collOf u t = some k ∧ i ∈ k.kids ∧ i.live = true ∧ i.adopted = true ∧
          i.idx = p.body.extractLsb' 0 16 ∧ i.hi = p.body.extractLsb' 16 16 ∧ i.rank = memberRank s x (p.body.extractLsb' 0 16).toNat) ∧
        (∀ ts, ty = 0x25 → c.joining = some ts → x.root = false → ∃ u k, exec (.joinok port) s = .next u ∧ collOf u t = some k ∧
          k.parentRank = x.alt ∧ k.joining = none ∧ k.joined = true ∧ k.parentLost = false) ∧
        (ty = 0x26 → x.root = true → notSettling x c →
          ∃ u k, exec (.adopt port) s = .next u ∧ collOf u t = some k ∧ k.eventTs = s.ts) ∧
        (∀ cmd, ty = 0x27 → collCmd s t cmd → x.root = false → c.wrote = [] →
          ∃ u lo, exec (.przAbort port) s = .next u ∧ collOf u t = none ∧ u.flag Reg.przStat 3 = true ∧
            recorded s u cmd.ring (doneRec s cmd stPartial s.ts.toNat 0 0 lo (c.seq.toNat + 4 * 2 ^ 32))) ∧
        (∀ i, ty = 0x28 → x.root = false → c.parentRank ≠ r → c.kids = [i] → i.live = true → i.done = false → i.rank = r →
          ∃ u k j, exec (.leave port) s = .next u ∧ collOf u t = some k ∧ k.kids = [j] ∧ j.live = false ∧ (i.idx, i.hi) ∈ k.lost))) ∧
    (∀ port p s1 x c r, rxTake s port 0x21 = some (p, s1) → treeOf s (p.arg.extractLsb' 26 6) = some x → x.coll = some c →
        x.ctx = p.ctx → c.seq = p.arg.extractLsb' 32 32 → neighbourOf s x p.src = some r →
      exec (.przHb port) s = .next (noteRx s1 (p.arg.extractLsb' 26 6) r)) ∧
    ∀ t x c, treeOf s t = some x → x.coll = some c →
      (∀ nb rx tx e n, neighbourTs x c nb = some (rx, tx) → tx.toNat + 40000 ≤ s.ts.toNat → mgetD none s.fab.rankTab nb.toNat = some e →
          e.getLsbD 31 = true → routed s (e.extractLsb' 0 16) 1 0 n →
        ∃ u q, exec (.przHbTimer t nb) s = .next u ∧ u.fab.tx = s.fab.tx ++ [(n, q)] ∧ q.ty = 0x21 ∧ q.dst = e.extractLsb' 0 16 ∧
          q.arg.extractLsb' 32 32 = c.seq ∧ q.arg.extractLsb' 26 6 = t ∧ q.body.extractLsb' 0 16 = x.own ∧ u.fab.sent = s.fab.sent) ∧
      (∀ i, barrierOpen c → x.root = false → c.parentRank ≠ i.rank → c.kids = [i] → i.live = true → i.done = false →
          i.lastRx.toNat + 200000 ≤ s.ts.toNat →
        ∃ u k j, exec (.przNeighbourLost t i.rank) s = .next u ∧ collOf u t = some k ∧ k.kids = [j] ∧ j.live = false ∧
          (i.idx, i.hi) ∈ k.lost ∧ u.flag Reg.przStat 1 = true) ∧
      (∀ ts cmd, c.joining = some ts → ts.toNat + 200000 ≤ s.ts.toNat → collCmd s t cmd → x.root = false → c.wrote = [] →
        ∃ u lo, exec (.joinTimeout t) s = .next u ∧ collOf u t = none ∧ u.flag Reg.przStat 2 = true ∧
          recorded s u cmd.ring (doneRec s cmd stPartial s.ts.toNat 0 0 lo (c.seq.toNat + 2 * 2 ^ 32))) ∧
      (∀ ts i, c.adopts = some ts → ts.toNat + 8000 ≤ s.ts.toNat → x.root = true → c.reissuing = false → c.summary = none → c.op = 0 →
          c.paused = false → c.inq = [] → c.kids = [i] → i.live = true → i.ready = false → i.done = false → c.sentDone = false →
        ∃ u k, exec (.przReissue t) s = .next u ∧ collOf u t = some k ∧ k.adopts = none ∧ k.kids = [{ i with next := 0 }]) ∧
      (∀ cmd, barrierOpen c → x.root = true → c.eventTs.toNat + 400000 ≤ s.ts.toNat → c.kids = [] → unreached x c = [] →
          collCmd s t cmd → c.wrote = [] →
        ∃ u, exec (.rootSettleTimeout t) s = .next u ∧ collOf u t = none ∧
          recorded s u cmd.ring (doneRec s cmd stOK s.ts.toNat 0 0 0 (c.seq.toNat + 2 ^ 32))) ∧
      ∀ cmd, c.op = 3 → c.inq = [] → c.paused = false → c.summary = some 0 → collCmd s t cmd → x.root = false → c.wrote = [] →
        ∃ u, exec (.collectiveComplete t) s = .next u ∧ collOf u t = none ∧
          recorded s u cmd.ring (doneRec s cmd stOK s.ts.toNat 0 0 0 c.seq.toNat)

/-- R401 to R415, R431, R432, R510. The places of the configuration words other than the discovery DVSEC's are the model's (log
entry 30), the answer to an address that no decoder covers too (log entry 36). -/
def Obligations.HostRequestsGoHomeAndAreAnswered : Prop :=
  ∀ (s : State), s.boot.inReset = false → linkUp s = true →
    let w := wakeLink s
    let tell := fun m : HostMsg => w.modHpt fun h => { h with out := h.out ++ [m] }
    (∀ (hpa : BitVec 64) (mv : HostState), ∀ c ∈ [(Instr.memrd hpa mv, mv), (.memrddata hpa, .S)],
      (paOfHpa s hpa = none → exec c.1 s = .next (tell (.drs hpa (Config.poisonData (hpa.toNat / 64)) true .I))) ∧
      ∀ pa, paOfHpa s hpa = some pa →
        (s.fcl.safe = true → ∃ d, exec c.1 s = .next (tell (.drs hpa d true .I))) ∧
        (s.fcl.safe = false → 256 ≤ openReads s → exec c.1 s = .next w) ∧
        (s.fcl.safe = false → openReads s < 256 → ∃ m,
          exec c.1 s = .next { w.modHpt fun h => { h with
            nextReq := h.nextReq + 1, reqs := h.reqs ++ [⟨h.nextReq, hpa, pa / 64, true, false⟩] } with net := s.net ++ [m] } ∧
          m.kind = .rdh ∧ m.src = .hpt ∧ m.dst = .home (homeOf s.mem (pa / 64)) ∧ m.line = pa / 64 ∧ m.hst = c.2 ∧
          m.tag = .host s.hpt.nextReq)) ∧
    (∀ (hpa : BitVec 64) (mask : BitVec 64) (d : BitVec 512) (poison : Bool),
      ∀ c ∈ [(Instr.memwr hpa d poison, Mask.full), (.memwrptl hpa mask d poison, mask)],
        (paOfHpa s hpa = none → ∃ t, exec c.1 s = .next t ∧ t.hpt.out = s.hpt.out ++ [.cmp hpa .I] ∧ t.mem = s.mem ∧ t.net = s.net) ∧
        ∀ pa, paOfHpa s hpa = some pa →
          (s.fcl.safe = true → ∃ t, exec c.1 s = .next t ∧ t.hpt.out = s.hpt.out ++ [.cmp hpa .I] ∧ t.mem = s.mem ∧ t.net = s.net) ∧
          (s.fcl.safe = false → openWrites s < 128 → ∃ t m, exec c.1 s = .next t ∧ t.net = s.net ++ [m] ∧
            (m.kind = if s.hpt.bis.any (fun b => b.line == pa / 64) then .hdt else .wrh) ∧ m.src = .hpt ∧
            m.dst = .home (homeOf s.mem (pa / 64)) ∧ m.line = pa / 64 ∧ m.mask = c.2 ∧ m.data = d ∧ m.poison = poison ∧
            t.hpt.reqs = s.hpt.reqs ++ [⟨s.hpt.nextReq, hpa, pa / 64, false, false⟩] ∧ t.mem = s.mem ∧
            (poison = true → t.flag Reg.hptStat 3 = true) ∧ (poison = false → t.regs = s.regs))) ∧
    (∀ hpa, exec (.memspecrd hpa) s = .next w ∧ exec (.meminv hpa) s = .next (tell (.cmp hpa .I)) ∧
      exec (.h2dSnoop hpa) s = .next (tell (.rspIHitI hpa)) ∧
      (s.hpt.conflicts = [] →
        ((∀ r ∈ s.hpt.reqs, some r.line ≠ (paOfHpa s hpa).map (· / 64)) → exec (.biconflict hpa) s = .next (tell (.biConflictAck hpa))) ∧
        ((∃ r ∈ s.hpt.reqs, some r.line = (paOfHpa s hpa).map (· / 64)) → ∃ t ids, exec (.biconflict hpa) s = .next t ∧
          t.hpt.conflicts = [(hpa, ids)] ∧ t.hpt.out = s.hpt.out ∧ t.hpt.reqs = s.hpt.reqs))) ∧
    (∀ (reg : BitVec 10) (v : BitVec 32), ∃ r : BitVec 32, exec (.configRequest false reg v) s = .next (tell (.cpl .sc (wordBytes r) false)) ∧
      (reg = 0x00 → r.extractLsb' 16 16 = 0x5A40) ∧ (reg = 0x01 → r.extractLsb' 0 16 = s.hpt.command ∧ r.getLsbD 19 = intPending s) ∧
      (reg = 0x02 → r.extractLsb' 8 24 = 0x120000 ∧ r.extractLsb' 0 8 = s.fuse.stepping.extractLsb' 0 8) ∧
      (reg = 0x60 → r.extractLsb' 0 20 = 0x10023) ∧ (reg = 0x62 → r = 1) ∧ (reg = 0x63 → r = 0) ∧ (reg = 0x64 → r = 0) ∧
      (reg = 0x65 → r = 0x10000)) ∧
    (∀ v : BitVec 32, ∃ t u x, exec (.configRequest true 0x01 v) s = .next t ∧ t.hpt.command = v.extractLsb' 0 16 &&& 0x0406 ∧
      t.hpt.out = s.hpt.out ++ [.cpl .sc [] false] ∧
      exec (.configRequest true 0x41 v) s = .next u ∧ u.hpt.aer = s.hpt.aer &&& ~~~v ∧
      exec (.configRequest true 0x52 v) s = .next x ∧
      x.hpt.bar2 = if memEnabled s ∨ bitsN v.toNat 8 6 < 10 ∨ 18 < bitsN v.toNat 8 6 then s.hpt.bar2 else bitsN v.toNat 8 6 - 10) ∧
    (∀ n : BitVec 2,
      let d := hdmAt s n.toNat
      let p := hdmAt s (n.toNat - 1)
      let good := d.ways = 0 ∧ d.base % 2 ^ 28 = 0 ∧ d.size % 2 ^ 28 = 0 ∧ d.size ≠ 0 ∧ p.committed = true ∧
        p.dpa + p.size + d.skip + d.size ≤ tierLimit s.mem .near + tierLimit s.mem .far ∧
        ∀ k < 4, k ≠ n.toNat → (hdmAt s k).committed = true →
          d.base + d.size ≤ (hdmAt s k).base ∨ (hdmAt s k).base + (hdmAt s k).size ≤ d.base
      (n = 0 ∨ d.committed = true → exec (.hdmCommit n) s = .next w) ∧
      (n ≠ 0 → d.committed = false →
        (good → ∃ t, exec (.hdmCommit n) s = .next t ∧
          hdmAt t n.toNat = { d with committed := true, err := false, dpa := p.dpa + p.size + d.skip }) ∧
        (¬ good → ∃ t, exec (.hdmCommit n) s = .next t ∧
          hdmAt t n.toNat = { d with err := true }))) ∧
    (∀ (off : BitVec 40) (len : BitVec 10) (data : List (BitVec 8)) (poison : Bool),
      let n := off.toNat / (bar2Size s / 4)
      let r := off.toNat % (bar2Size s / 4)
      let pa := winBase s n + r
      let here := n < 4 ∧ winOn s n = true ∧ r < winSize s n
      let served := s.hpt.dstate = .d0 ∧ s.fcl.safe = false ∧ memEnabled s = true ∧ here
      (¬ served → (s.cnt Reg.hptUr).toNat + 1 < 2 ^ 64 - 1 →
        (∃ t, exec (.bar2Access false off len data poison) s = .next t ∧ t.hpt.out = s.hpt.out ++ [.cpl .ur [] false] ∧
          t.flag Reg.hptStat 2 = true ∧ (t.cnt Reg.hptUr).toNat = (s.cnt Reg.hptUr).toNat + 1 ∧ t.hpt.aer.getLsbD 20 = true ∧
          t.mem = s.mem) ∧
        ∃ t, exec (.bar2Access true off len data poison) s = .next t ∧ t.hpt.out = s.hpt.out ∧ t.flag Reg.hptStat 2 = true ∧
          t.hpt.aer.getLsbD 20 = true ∧ t.mem = s.mem) ∧
      (served → takesLine s .hpt 0 (pa / 64) = true →
        (0 < len.toNat → pa % 64 + len.toNat ≤ 64 → (dirGet s.mem (pa / 64)).cst ≠ .X →
          ∃ t, exec (.bar2Access false off len data poison) s = .next t ∧ t.hpt.out = s.hpt.out ++
            [.cpl .sc (bytesOf (memPeek s.mem (pa / 64)).1 (pa % 64) len.toNat) (memPeek s.mem (pa / 64)).2]) ∧
        (winWr s n = true → Memory.wf s.mem.cells = true → data ≠ [] → pa % 64 + data.length ≤ 64 → (dirGet s.mem (pa / 64)).sharers = 0 →
          ∃ t, exec (.bar2Access true off len data poison) s = .next t ∧ t.hpt.out = s.hpt.out ∧
            (memPeek t.mem (pa / 64)).1 = mergeLine (memPeek s.mem (pa / 64)).1 (maskAt (pa % 64) data.length)
              (lineAt (pa % 64) data.length (bytesNat data)) ∧
            (poison = true → (memPeek t.mem (pa / 64)).2 = true ∧ t.flag Reg.hptStat 3 = true))) ∧
      (served → winWr s n = false ∨ isPacked (pa / 64) = true → ∃ t, exec (.bar2Access true off len data poison) s = .next t ∧
        t.mem = s.mem ∧ t.flag Reg.apwStat 1 = true ∧ t.hpt.aer.getLsbD 20 = true)) ∧
    (∀ ag (count : BitVec 9), reachable s ag Reg.hptBiasCmd = true → s.fcl.safe = false →
      let p0 := s.fld Reg.hptBiasPage 0 17
      let bad := s.hpt.biasJob.isSome = true ∨ count = 0 ∨ 256 < count.toNat ∨
        (tierLimit s.mem .near + tierLimit s.mem .far) / 2 ^ 25 < p0 + count.toNat
      let page := fun i => paOfDpa s.mem ((p0 + i) * 2 ^ 25) / 2 ^ 25
      (bad → exec (.hptBiasToShared ag count) s = .next (s.setFlag Reg.hptBiasStat 1)) ∧
      (bad ∨ p0 < 2048 → exec (.hptBiasToDevice ag count) s = .next (s.setFlag Reg.hptBiasStat 1)) ∧
      (¬ bad → (∀ i < count.toNat, isFlipping s.mem (page i) = false) →
        ∃ t, exec (.hptBiasToShared ag count) s = .next t ∧ (∀ i < count.toNat, sharedBias t.mem (page i) = true) ∧
          t.hpt.biasJob = none ∧ t.flag Reg.hptBiasStat 0 = true) ∧
      (¬ bad → 2048 ≤ p0 → ∃ t, exec (.hptBiasToDevice ag count) s = .next t ∧
        (∀ i < count.toNat, sharedBias s.mem (page i) = true → isFlipping t.mem (page i) = true) ∧
        ((∃ i < count.toNat, sharedBias s.mem (page i) = true) → t.hpt.biasJob = some ((List.range count.toNat).map page)) ∧
        ((∀ i < count.toNat, sharedBias s.mem (page i) = false ∧ isFlipping s.mem (page i) = false) →
          t.hpt.biasJob = none ∧ t.flag Reg.hptBiasStat 0 = true))) ∧
    (∀ ag coh, reachable s ag Reg.hptHwinCmd = true → s.hpt.hwin = none →
      let len := s.fld Reg.hptHwinLen 0 13
      let hpa := s.fld Reg.hptHwinHpa 0 32 + s.fld (Reg.hptHwinHpa + 4) 0 32 * 2 ^ 32
      let dpa := s.fld Reg.hptHwinDpa 0 32 + s.fld (Reg.hptHwinDpa + 4) 0 32 * 2 ^ 32
      let bad := len % 64 ≠ 0 ∨ len = 0 ∨ 4096 < len ∨ hpa % 64 ≠ 0 ∨ dpa % 64 ≠ 0
      (bad → exec (.hwinHostToDevice ag coh) s = .next (s.setFlag Reg.hptHwinStat 1) ∧
        exec (.hwinDeviceToHost ag coh) s = .next (s.setFlag Reg.hptHwinStat 1)) ∧
      (¬ bad → (∀ i < len / 64, isReserved s.mem (dpa / 64 + i) = false ∧ isPacked (dpa / 64 + i) = false) →
        (∃ t x, exec (.hwinHostToDevice ag coh) s = .next t ∧ t.hpt.hwin = some x ∧ x.hpa = hpa ∧ x.dpa = dpa ∧ x.lines = len / 64 ∧
          x.coh = coh ∧ x.toDev = true ∧ x.got = [] ∧ x.ts = s.ts ∧ t.mem = s.mem ∧
          (coh = true → t.hpt.out = s.hpt.out ++ (List.range (len / 64)).map fun i => .rdCurr (BitVec.ofNat 64 (hpa + 64 * i)))) ∧
        (len = 64 → takesLine s .hpt 0 (dpa / 64) = true → (dirGet s.mem (dpa / 64)).cst ≠ .X → s.fcl.safe = false →
          ∃ t, exec (.hwinDeviceToHost ag coh) s = .next t ∧
            let l := memPeek s.mem (dpa / 64)
            t.hpt.out = s.hpt.out ++ [if coh then .wrCur (BitVec.ofNat 64 hpa) l.1 l.2 else .memWr (BitVec.ofNat 64 hpa) l.1 l.2] ∧
            (coh = false → t.hpt.hwin = none ∧ t.flag Reg.hptHwinStat 0 = true) ∧ (coh = true → ∃ x, t.hpt.hwin = some x)))) ∧
    ∀ x, s.hpt.hwin = some x → s.fcl.safe = false →
      (∀ id st d poison, id < x.lines → st ≠ .sc → ∃ t, exec (.hwinCompletion id st d poison) s = .next t ∧ t.hpt.hwin = none ∧
        t.flag Reg.hptHwinStat 1 = true ∧ t.mem = s.mem) ∧
      (∀ id d poison, id < x.lines → x.toDev = true → x.got.all (fun g => g.1 != id) = true → x.got.length + 1 < x.lines →
        ∃ t, exec (.hwinCompletion id .sc d poison) s = .next t ∧ t.mem = s.mem ∧
          t.hpt.hwin = some { x with got := x.got ++ [(id, d, poison)] }) ∧
      (∀ d poison, x.lines = 1 → x.toDev = true → x.got = [] → Memory.wf s.mem.cells = true → takesLine s .hpt 0 (x.dpa / 64) = true →
          (dirGet s.mem (x.dpa / 64)).sharers = 0 →
        ∃ t, exec (.hwinCompletion 0 .sc d poison) s = .next t ∧ t.hpt.hwin = none ∧ t.flag Reg.hptHwinStat 0 = true ∧
          (memPeek t.mem (x.dpa / 64)).1 = d) ∧
      (x.ts.toNat + 50 * Config.msTicks ≤ s.ts.toNat → ∃ t, exec .hwinCompletionTimeout s = .next t ∧ t.hpt.hwin = none ∧
        t.flag Reg.hptHwinStat 2 = true ∧ t.mem = s.mem)

/-- R400, R409, R416 to R422, R258. -/
def Obligations.HostLinkAndDeviceStates : Prop :=
  ∀ (s : State), s.boot.inReset = false →
    let w := wakeLink s
    (linkUp s = true → s.hpt.dstate = .d0 → ∃ t, exec .d3hotEntry s = .next t ∧ t.hpt.dstate = .d3hot ∧ t.mem = s.mem ∧
      (mgetD 0 t.hpt.cfg 0x11).extractLsb' 0 2 = 3 ∧ (dspIdle s = false → t.clus = s.clus) ∧
      (dspIdle s = true → s.fcl.safe = false → ∀ (cl : BitVec 6) c, (cl.toNat, c) ∈ s.clus → pllIdle s cl = true →
        (t.cluster cl).pll = .stopped)) ∧
    (s.hpt.dstate = .d3hot → dspIdle s = true → diesQuiet s = true → s.fcl.safe = false →
      ∃ t, exec .d3coldEntry s = .next t ∧ t.hpt.dstate = .d3cold ∧ t.clus = [] ∧ t.cores = [] ∧
        (∀ d ∈ [3, 4, 5, 6], d ∈ t.boot.offDie) ∧ (∀ line, (dirGet t.mem line).cst = .N) ∧ (∀ n, (t.port n).st = .off) ∧
        ∀ (cl : BitVec 6) (c : ClusterSt) k x, s.clus = [(cl.toNat, c)] → c.l2 = [(k, some x)] → x.st = .M →
          Memory.wf s.mem.cells = true → memPeek t.mem x.line = (x.data, x.poison)) ∧
    (∃ t, exec .d0Return s = .next t ∧ t.hpt.dstate = .d0 ∧ t.mem = s.mem ∧ (s.hpt.dstate = .d0 → t = s) ∧
      (s.hpt.dstate = .d3hot → t.clus = s.clus ∧ t.cores = s.cores) ∧
      (s.hpt.dstate = .d3cold → t.clus = [] ∧ t.cores = [] ∧ (∀ d ∈ t.boot.offDie, d < 3) ∧
        ∀ n : BitVec 4, n.toNat < 12 → (s.reg (Reg.fabPort n.toNat 0)).getLsbD 0 = true → (s.port n).st = .off →
          (t.port n).st = .training ∧ (t.port n).fresh = true)) ∧
    (s.hpt.link = .l0 → aspmBit s 0 = true → exec .l0sEntry s =
      .next (s.modHpt fun h => { h with link := .l0s, retrainTs := some (h.retrainTs.getD s.ts) })) ∧
    (s.hpt.link = .l0 ∨ s.hpt.link = .l0s → aspmBit s 1 = true → exec .l1Entry s =
      .next (s.modHpt fun h => { h with link := .l1, retrainTs := some (h.retrainTs.getD s.ts) })) ∧
    (aspmBit s 0 = false → exec .l0sEntry s = .next s) ∧ (aspmBit s 1 = false → exec .l1Entry s = .next s) ∧
    (∀ t0, s.hpt.link = .l0s ∨ s.hpt.link = .l1 → s.hpt.retrainTs = some t0 → exec .aspmExit s =
      .next (s.modHpt fun h => { h with link := .l0, retrainTs := none, bis := h.bis.map fun b => { b with ts := b.ts + (s.ts - t0) } })) ∧
    (s.hpt.link ≠ .l0s → s.hpt.link ≠ .l1 → exec .aspmExit s = .next s) ∧
    (linkUp s = true →
      (intLine s = true → s.hpt.inta = false →
          (∀ t0, s.hpt.deassertTs = some t0 → t0.toNat + s.fld Reg.hptHoldoff 0 16 * Config.slowTicks ≤ s.ts.toNat) →
        exec .assertInta s = .next (w.modHpt fun h => { h with out := h.out ++ [.assertInta], inta := true })) ∧
      (intLine s = false ∨ s.hpt.inta = true → exec .assertInta s = .next s) ∧
      (intLine s = false → s.hpt.inta = true → exec .deassertInta s =
        .next (w.modHpt fun h => { h with out := h.out ++ [.deassertInta], inta := false, deassertTs := some s.ts })) ∧
      (intLine s = true ∨ s.hpt.inta = false → exec .deassertInta s = .next s)) ∧
    (intLine s = true ↔ s.hpt.command.getLsbD 10 = false ∧ ∃ k < 6, (s.reg Reg.hptInten).getLsbD k = true ∧ (intCause s).getLsbD k = true) ∧
    (linkUp s = true → ∀ long, ∃ t, exec (.hostLinkRetrain long) s = .next t ∧ t.flag Reg.hptStat 1 = true ∧
      ((s.cnt Reg.hptRetrain).toNat + 1 < 2 ^ 64 - 1 → (t.cnt Reg.hptRetrain).toNat = (s.cnt Reg.hptRetrain).toNat + 1) ∧
      (long = false → t.hpt.link = .l0 ∧ t.hpt.reqs = s.hpt.reqs ∧ t.hpt.hwin = s.hpt.hwin ∧ t.hpt.lossTs = s.hpt.lossTs) ∧
      (long = true → t.hpt.link = .down ∧ t.hpt.lossTs = some (s.hpt.lossTs.getD s.ts) ∧
        t.hpt.reqs = s.hpt.reqs.map fun r => { r with lost := true })) ∧
    (linkUp s = true → ∀ why, ∃ t, exec (.hostLinkDown why) s = .next t ∧ t.hpt.link = .down ∧ t.hpt.width = 0 ∧
      t.hpt.lossTs = some (s.hpt.lossTs.getD s.ts) ∧ t.hpt.reqs = s.hpt.reqs.map (fun r => { r with lost := true }) ∧
      t.hpt.bis = s.hpt.bis ∧ t.hpt.hwin = none ∧ (s.hpt.hwin.isSome = true → t.flag Reg.hptHwinStat 4 = true) ∧
      t.mem = s.mem ∧ t.dsp = s.dsp ∧ t.fab = s.fab ∧ t.cores = s.cores ∧ t.clus = s.clus) ∧
    (∀ t0, s.hpt.lossTs = some t0 → s.hpt.dead = false →
      (s.ts.toNat < t0.toNat + biTmo s → bisLate s = false → exec .hostLossTimeout s = .next s) ∧
      (t0.toNat + biTmo s ≤ s.ts.toNat → ∃ t, exec .hostLossTimeout s = .next t ∧ t.hpt.dead = true ∧ t.hpt.link = .held ∧
        t.hpt.lossTs = none ∧ t.hpt.bis = [] ∧ t.flag Reg.hptStat 0 = true ∧ ∀ h : BitVec 8, (t.home h).hostReclaim = true)) ∧
    (s.hpt.dead = true →
      ((∃ h ∈ s.mem.homes, h.2.hostReclaim = true) → exec .hostLinkReinit s = .next s) ∧
      ((∀ h ∈ s.mem.homes, h.2.hostReclaim = false) → ∃ t, exec .hostLinkReinit s = .next t ∧ t.hpt.dead = false ∧
        t.hpt.link = .training ∧ t.hpt.command = 0 ∧ t.hpt.cfg = [] ∧ (∀ n, 1 ≤ n → hdmAt t n = default) ∧
        hdmAt t 0 = { base := s.fld Reg.hptEarlyBase 0 20 * 2 ^ 36, size := 2 ^ 36, skip := 0, dpa := 0, ways := 0,
                      committed := true, err := false, locked := true } ∧
        (∀ page < 2048, sharedBias t.mem page = true) ∧ t.mem.cells = s.mem.cells ∧ t.regs = s.regs ∧ t.dsp = s.dsp)) ∧
    (s.hpt.link = .training → ∀ good : BitVec 8,
      let n := ((List.range 8).filter fun m => good.getLsbD m).length
      ∃ t, exec (.hostLinkUp good) s = .next t ∧ t.hpt.good = good ∧
        (n < 2 → t.hpt.link = .down) ∧
        (2 ≤ n → t.hpt.link = .l0 ∧ t.hpt.width = if n = 8 then 8 else if 4 ≤ n then 4 else 2))

/-- R288 to R292, R424 to R432, R524. -/
def Obligations.ServicePortSlotAndDevices : Prop :=
  ∀ (s : State), s.boot.inReset = false →
    let us := 200 * Config.usTicks
    (∀ ag (a : BitVec 28), reachable s ag Reg.svpCfgAddr = true →
      let at_ := a.setWidth 32 &&& 0x0FFFFFFC#32
      (s.svp.cfg.isSome = true → exec (.svpCfgRead ag a) s = .next s ∧ exec (.svpCfgWrite ag a) s = .next s) ∧
      (s.svp.cfg = none →
        (∃ t, exec (.svpCfgRead ag a) s = .next t ∧ t.svp.cfg = some false ∧ t.svp.out = s.svp.out ++ [.cfgRd at_] ∧
          t.reg Reg.svpCfgAddr = at_) ∧
        ∃ t, exec (.svpCfgWrite ag a) s = .next t ∧ t.svp.cfg = some true ∧
          t.svp.out = s.svp.out ++ [.cfgWr at_ (s.reg Reg.svpCfgData)])) ∧
    (∀ wr ok v, s.svp.cfg = some wr → ∃ t, exec (.svpCfgComplete ok v) s = .next t ∧ t.svp.cfg = none ∧
      t.reg Reg.svpCfgData = (if wr then s.reg Reg.svpCfgData else if ok then v else 0xFFFFFFFF) ∧
      t.flag Reg.svpStat (if ok then 6 else 7) = true) ∧
    (s.svp.present = false → exec (.svpPresenceChange false) s = .next s ∧
      ∃ t, exec (.svpPresenceChange true) s = .next t ∧ t.svp.present = true ∧ t.svp.inserted = true ∧ t.flag Reg.svpStat 0 = true ∧
        t.svp.reqs = s.svp.reqs ∧ t.mem = s.mem) ∧
    (slotClosed s = false → s.svp.removed = false →
      ∀ c ∈ [(Instr.svpPresenceChange false, true), (.surpriseRemoval false, true), (.surpriseRemoval true, false)],
        (c.2 = true → s.svp.present = true) → ∃ t, exec c.1 s = .next t ∧ t.svp.removed = true ∧ t.svp.reqs = [] ∧ t.svp.intx = 0 ∧
          t.svp.cfg = none ∧ t.flag Reg.svpStat 4 = true ∧ (t.reg Reg.svpSlotCtl).getLsbD 1 = true ∧
          t.flag Reg.svpDrainStat 0 = true ∧ (s.svp.cfg.isSome = true → t.flag Reg.svpStat 7 = true) ∧
          ((∀ r ∈ s.svp.reqs, r.read = false ∧ ∃ k tag, r.src = some (.store k tag)) →
            (t.cnt Reg.svpDrop).toNat = min (2 ^ 64 - 1) ((s.cnt Reg.svpDrop).toNat + s.svp.reqs.length) ∧
            ∀ r ∈ s.svp.reqs, ∀ k tag, r.src = some (.store k tag) → (t.core k).fns = true)) ∧
    (∀ ag v, reachable s ag Reg.svpSlotCtl = true → ∀ c ∈ [Instr.slotPowerOn ag v, .slotPowerOff ag v, .svpDeadClear ag v],
      ∃ t, exec c s = .next t ∧ t.reg Reg.svpSlotCtl = v &&& 0x3F ∧ t.svp.dead = (s.svp.dead && !v.getLsbD 6) ∧
        (slotBit s 1 = true → v.getLsbD 1 = false → t.svp.pwrTs = some s.ts) ∧
        (slotBit s 1 = false → v.getLsbD 1 = true → t.svp.pwrGood = false ∧ t.svp.perst = true) ∧ t.svp.reqs = s.svp.reqs) ∧
    (slotBit s 1 = false → exec .slotPowerGood s =
      .next (s.modSvp fun v => { v with pwrGood := true, pwrTs := none, goodTs := some (v.goodTs.getD s.ts) })) ∧
    (∀ t0, s.svp.pwrTs = some t0 → s.svp.pwrGood = false → t0.toNat + 100 * Config.msTicks ≤ s.ts.toNat →
      ∃ t, exec .slotPowerFault s = .next t ∧ t.flag Reg.svpStat 3 = true ∧ (t.reg Reg.svpSlotCtl).getLsbD 1 = true) ∧
    (∀ t0, s.svp.goodTs = some t0 → s.svp.pwrGood = true → t0.toNat + 100 * Config.msTicks ≤ s.ts.toNat →
      exec .slotResetRelease s = .next (s.modSvp fun v => { v with perst := false })) ∧
    (∀ width speed, slotClosed s = false → s.svp.present = true → s.svp.pwrGood = true → s.svp.perst = false → s.svp.up = false →
      ∃ t, exec (.svpLinkUp width speed) s = .next t ∧ t.svp.up = true ∧ t.svp.width = width ∧ t.svp.speed = speed ∧
        t.svp.removed = false ∧ t.svp.downTs = none ∧ t.svp.dead = (s.svp.dead && !s.svp.inserted) ∧ t.flag Reg.svpStat 2 = true) ∧
    (s.svp.up = true → ∃ t, exec .svpLinkDown s = .next t ∧ t.svp.up = false ∧ t.flag Reg.svpStat 2 = true ∧
      t.svp.downTs = (if slotClosed s then none else some s.ts) ∧ t.svp.reqs = s.svp.reqs) ∧
    exec .attnButton s = .next (s.setFlag Reg.svpStat 1) ∧
    (s.svp.up = true → ∀ i : BitVec 2,
      exec (.assertIntx i) s = .next (s.modSvp fun v => { v with intx := v.intx ||| (1#4 <<< i.toNat) }) ∧
      exec (.deassertIntx i) s = .next (s.modSvp fun v => { v with intx := v.intx &&& ~~~(1#4 <<< i.toNat) }) ∧
      ∀ sev, ∃ t, exec (.svpErrMessage sev) s = .next t ∧ t.flag Reg.svpStat 5 = true) ∧
    (s.fcl.safe = false → s.svp.dead = false → s.svp.removed = false → ∀ why,
      (why = .readTimeout → ∃ r ∈ s.svp.reqs, r.read = true ∧ r.ts.toNat + us ≤ s.ts.toNat) →
      (why = .readAborted → ∃ r ∈ s.svp.reqs, r.read = true) →
      (why = .linkLost → slotClosed s = false ∧ ∃ d, s.svp.downTs = some d ∧ d.toNat + us ≤ s.ts.toNat) →
      ∃ t, exec (.svpDestDead why) s = .next t ∧ t.svp.dead = true ∧ t.svp.reqs = [] ∧ t.flag Reg.svpStat 8 = true ∧
        t.flag Reg.svpDrainStat 0 = true) ∧
    (s.svp.up = true → ∀ (bus : BitVec 64) (len : BitVec 10) (data : List (BitVec 8)) (poison : Bool),
      let ur := s.modSvp fun v => { v with out := v.out ++ [.cpl .ur [] false] }
      (∀ bad, bad = true ∨ s.fcl.safe = true → exec (.apertureRequest false bus len data poison bad) s = .next ur ∧
        exec (.apertureRequest true bus len data poison bad) s = .next s) ∧
      (s.fcl.safe = false → winOf s bus.toNat = none → exec (.apertureRequest true bus len data poison false) s =
          .next (s.setFlag Reg.apwStat 0) ∧
        ∃ t, exec (.apertureRequest false bus len data poison false) s = .next t ∧ t.svp.out = s.svp.out ++ [.cpl .ur [] false] ∧
          t.flag Reg.apwStat 0 = true ∧ t.mem = s.mem) ∧
      ∀ n, s.fcl.safe = false → winOf s bus.toNat = some n →
        let pa := winBase s n + (bus.toNat - winBus s n)
        let l := pa / 64
        (0 < len.toNat → pa % 64 + len.toNat ≤ 64 → bus.toNat + len.toNat ≤ winBus s n + winSize s n →
          (takesLine s .svp (winCtx s n) l = true → (dirGet s.mem l).cst ≠ .X →
            ∃ t, exec (.apertureRequest false bus len data poison false) s = .next t ∧
              t.svp.out = s.svp.out ++ [.cpl .sc (bytesOf (memPeek s.mem l).1 (pa % 64) len.toNat) (memPeek s.mem l).2]) ∧
          (ctxPasses s.mem (winCtx s n) l = false → ∃ t, exec (.apertureRequest false bus len data poison false) s = .next t ∧
            t.svp.out = s.svp.out ++ [.cpl .ca [] false] ∧ t.flag Reg.apwStat 1 = true ∧ t.mem = s.mem)) ∧
        (bus.toNat + data.length ≤ winBus s n + winSize s n →
          (winWr s n = true → Memory.wf s.mem.cells = true → data ≠ [] → pa % 64 + data.length ≤ 64 →
              takesLine s .svp (winCtx s n) l = true → (dirGet s.mem l).sharers = 0 →
            ∃ t, exec (.apertureRequest true bus len data poison false) s = .next t ∧ (memPeek t.mem l).1 =
              mergeLine (memPeek s.mem l).1 (maskAt (pa % 64) data.length) (lineAt (pa % 64) data.length (bytesNat data))) ∧
          (winWr s n = false ∨ isPacked l = true → ∃ t, exec (.apertureRequest true bus len data poison false) s = .next t ∧
            t.mem = s.mem ∧ t.svp = s.svp ∧ t.flag Reg.apwStat 1 = true))) ∧
    (∀ id r, s.fcl.safe = false → s.svp.reqs.find? (fun r => r.id == id && r.read) = some r →
      (∀ k q d, r.flush = false → r.src = some (.load k) → (s.core k).pend = some q → q.dest = .bus → q.pa / 64 = r.bus / 64 →
          q.ifetch = false →
        ∃ t, exec (.svpCompletion id .sc d false) s = .next t ∧ t.core k = loadInto q d { s.core k with pend := none } ∧
          t.svp.reqs = s.svp.reqs.filter (·.id != id)) ∧
      (∀ k tag x o d p, r.flush = true → s.svp.reqs = [x, r] → x.read = false → x.id < id → x.src = some (.store k tag) →
          (s.cluster k.cl).outw = [o] → o.tag = tag → s.svp.drained.toNat ≤ s.ts.toNat →
        ∃ t, exec (.svpCompletion id .sc d p) s = .next t ∧ t.svp.reqs = [] ∧ t.svp.drained = s.ts ∧ (t.cluster k.cl).outw = [] ∧
          (t.core k).fns = (s.core k).fns) ∧
      (∀ d p, s.svp.dead = false → s.svp.removed = false → ∃ t, exec (.svpCompletion id .ca d p) s = .next t ∧ t.svp.dead = true ∧
        t.svp.reqs = [] ∧ t.flag Reg.svpStat 8 = true)) ∧
    (∀ x rest, s.fcl.safe = false → svpWrites s = x :: rest → s.svp.up = true → s.svp.reqs.all (fun r => !r.flush) = true →
        x.ts.toNat + Config.usTicks ≤ s.ts.toNat →
      exec .svpFlushTimer s = .next (s.modSvp fun v => { v with
        out := v.out ++ [.flushRd v.nextReq], reqs := v.reqs ++ [⟨v.nextReq, true, true, 0, 0, s.ts, none⟩], nextReq := v.nextReq + 1 })) ∧
    (svpWrites s = [] → exec .svpFlushTimer s = .next s) ∧
    ∀ ag, reachable s ag Reg.svpDrained = true → s.svp.drained.toNat ≤ s.ts.toNat →
      ∃ t d, exec (.svpDrainedRead ag) s = .next t ∧ t.svp.drained = d ∧ t.regs.reads.head? = some (ag, Reg.svpDrained, d.extractLsb' 0 32) ∧
        s.svp.drained.toNat ≤ d.toNat ∧ (svpWrites s = [] → d = s.ts) ∧
        (∀ x, svpWrites s = [x] → s.svp.drained.toNat < x.ts.toNat → d = x.ts - 1 ∧
          (s.svp.up = true → s.fcl.safe = false → s.svp.reqs = [x] → t.svp.out = s.svp.out ++ [.flushRd s.svp.nextReq]))

/-- R433, R441 to R451. A register that is itself a command has its own statement: cmdWrite is none. -/
def Obligations.RegistersPendGuardClearAndShadow : Prop :=
  ∀ (s : State) (ag : RegAgent),
    (∀ (off : BitVec 26) v,
      (s.boot.inReset = true ∨ (ag = .host ∧ linkUp s = false) → exec (.registerWrite ag off v) s = .next s) ∧
      (s.boot.inReset = false → linkUp s = true → ag = .host → s.hpt.dstate ≠ .d0 ∨ memEnabled s = false →
        exec (.registerWrite ag off v) s = .next (sendUr s)) ∧
      (s.boot.inReset = false → ag ≠ .host → s.boot.offDie.contains (dieOfOffset off.toNat) = true →
        exec (.registerWrite ag off v) s = .next (s.setFlag Reg.gctlStat 5)) ∧
      (reachable s ag off.toNat = true → off.toNat % 4 = 0 → ∀ i, regInfo off.toNat = some i →
        let o := off.toNat
        (i.sqc = true → ∀ c ∈ [Instr.registerWrite ag off v, .sqcClearWrite ag off v],
          (v.extractLsb' 16 16 = (s.reg o).extractLsb' 16 16 → exec c s = .next (s.setReg o (s.reg o &&& 0xFFFF0000))) ∧
          (v.extractLsb' 16 16 ≠ (s.reg o).extractLsb' 16 16 → (s.cnt Reg.gctlStaleClr).toNat + 1 < 2 ^ 64 - 1 →
            ∃ t, exec c s = .next t ∧ (t.cnt Reg.gctlStaleClr).toNat = (s.cnt Reg.gctlStaleClr).toNat + 1 ∧
              t.reg Reg.gctlStaleAddr = BitVec.ofNat 32 o ∧ (o = Reg.gctlStat → t.reg o = s.reg o) ∧
              (o ≠ Reg.gctlStat → t.reg o = s.reg o ∧ t.flag Reg.gctlStat 2 = true))) ∧
        (i.sqc = false → i.g1 = false → g1Second o = false → i.g2 = false → cmdWrite s ag o v = none →
          (i.rwp = 0 → exec (.registerWrite ag off v) s =
            .next (if i.rw = 0 then s else s.setReg o ((s.reg o &&& ~~~i.rw) ||| (v &&& i.rw)))) ∧
          (i.rw = 0 → i.rwp ≠ 0 → strobeWaits s i.strobe = false →
            exec (.registerWrite ag off v) s = .next (s.modRegs fun r => { r with pend := mset r.pend o (some (v &&& i.rwp)) })) ∧
          (i.rw = 0 → i.rwp ≠ 0 → strobeWaits s i.strobe = true →
            exec (.registerWrite ag off v) s = .next (s.modRegs fun r => { r with late := mset r.late o (some (v &&& i.rwp)) }))) ∧
        (i.sqc = false → i.g1 = true → ∀ c ∈ [Instr.registerWrite ag off v, .g1FirstWrite ag off v],
          ((guardOf s ag).g1 = none → exec c s = .next (setGuard s ag { guardOf s ag with g1 := some (o, v, s.ts) })) ∧
          ((guardOf s ag).g1.isSome = true → ∃ t, exec c s = .next t ∧ t.flag Reg.gctlStat 0 = true ∧
            (guardOf t ag).g1 = some (o, v, s.ts))) ∧
        (i.sqc = false → i.g1 = false → g1Second o = true → ∀ c ∈ [Instr.registerWrite ag off v, .g1ComplementWrite ag off v],
          (∀ a w t0, (guardOf s ag).g1 = some (a, w, t0) → o = a + 4 → v = ~~~w → s.ts.toNat ≤ t0.toNat + 64 * Config.slowTicks →
            a = Reg.fclSafeEn → ∃ t, exec c s = .next t ∧ t.regs.safeEn = tri ((w &&& 0x1F) ||| 0x10) ∧ (guardOf t ag).g1 = none) ∧
          ((∀ a w t0, (guardOf s ag).g1 = some (a, w, t0) → o ≠ a + 4 ∨ v ≠ ~~~w ∨ t0.toNat + 64 * Config.slowTicks < s.ts.toNat) →
            ∃ t, exec c s = .next t ∧ t.flag Reg.gctlStat 0 = true ∧ (guardOf t ag).g1 = none ∧ t.regs.safeEn = s.regs.safeEn)) ∧
        (i.sqc = false → i.g1 = false → g1Second o = false → i.g2 = true → ∃ t, exec (.registerWrite ag off v) s = .next t ∧
          (lockOpen s ag = false → (guardOf t ag).open_ = none ∧ t.flag Reg.gctlStat 1 = true ∧ t.regs.pend = s.regs.pend) ∧
          (lockOpen s ag = true → i.rw = 0 → i.rwp ≠ 0 → strobeWaits s i.strobe = false → o ≠ Reg.gctlColdRst → o ≠ Reg.calCmd →
            (guardOf t ag).open_ = none ∧ mgetD none t.regs.pend o = some (v &&& i.rwp))))) ∧
    (∀ (n : BitVec 4) go set,
      (reachable s ag (Reg.gctlStrobe + 4 * n.toNat) = true →
        (go = false ∨ n = 15 → exec (.strobeWrite ag n go) s = .next s) ∧
        (go = true → n ≠ 15 → ∃ t, exec (.strobeWrite ag n go) s = .next t ∧
          ∀ k, k < 15 → strobeWaits t k = (decide (k = n.toNat) || strobeWaits s k))) ∧
      (reachable s ag Reg.gctlStrobeSet = true → ∃ t, exec (.strobeSet ag set) s = .next t ∧ t.regs.pend = s.regs.pend ∧
        (∀ k, k < 15 → strobeWaits t k = (set.getLsbD k || strobeWaits s k)) ∧
        (set &&& 0x7FFF ≠ 0 → ∃ g ∈ t.regs.strobes, set &&& 0x7FFF &&& ~~~g = 0))) ∧
    (s.boot.inReset = false → ∀ n : BitVec 4, n ≠ 15 →
      (s.regs.strobes = [] → exec (.strobeApply n) s = .next s) ∧
      (s.regs.strobes = [1#16 <<< n.toNat] → s.regs.late = [] →
        (∀ off v i, n ≠ 8 → n ≠ 12 → s.regs.pend = [(off, some v)] → regInfo off = some i → i.rwp ≠ 0 → i.strobe = n.toNat →
            off ∉ [Reg.pwrLimSust, Reg.pwrLimPeak, Reg.apwWinEn, Reg.pwrPrio] → ¬ (barRow off = some 11 ∧ off % 0x10000 < 0xC000) →
          exec (.strobeApply n) s = .next (s.modRegs fun r => { r with
            val := mset r.val off (some ((s.reg off &&& ~~~i.rwp) ||| (v &&& i.rwp))), pend := [], strobes := [] })) ∧
        (∀ v, n = 4 → s.regs.pend = [(Reg.pwrLimSust, some v)] → exec (.strobeApply n) s =
          .next (s.modRegs fun r => { r with limSust := tri v, pend := [], strobes := [] })) ∧
        (n = 8 → (∃ r ∈ s.dsp.rings, r.2.on = true) → ∃ t, exec (.strobeApply n) s = .next t ∧ t.regs.pend = s.regs.pend ∧
          t.flag Reg.dspStat 0 = true ∧ t.regs.strobes = []) ∧
        (n = 12 → s.regs.pend = [(Reg.apwWinEn, some 0)] → ∃ t, exec (.strobeApply n) s = .next t ∧ t.regs.winEn = tri 0 ∧
          t.regs.pend = [] ∧ ∀ k, k < 4 → mgetD 0 t.svp.gen k = mgetD 0 s.svp.gen k + if winOn s k then 1 else 0) ∧
        (n = 12 → pendingOf s 12 ≠ [] → winsOk (applyAll s 12) = false → ∃ t, exec (.strobeApply n) s = .next t ∧
          t.regs.pend = s.regs.pend ∧ t.regs.winEn = s.regs.winEn ∧ t.svp = s.svp ∧ t.flag Reg.apwStat 2 = true))) ∧
    (∀ a w t0, (guardOf s ag).g1 = some (a, w, t0) →
      (t0.toNat + 64 * Config.slowTicks ≤ s.ts.toNat → ∃ t, exec (.g1Timeout ag) s = .next t ∧ (guardOf t ag).g1 = none ∧
        t.flag Reg.gctlStat 0 = true) ∧
      (s.ts.toNat < t0.toNat + 64 * Config.slowTicks → exec (.g1Timeout ag) s = .next s)) ∧
    (∀ row : BitVec 5, reachable s ag Reg.gctlCntReset = true → (guardOf s ag).g1 = none →
      ∃ t, exec (.gctlCntReset ag row) s = .next t ∧ (guardOf t ag).g1 = none ∧ t.reg Reg.gctlCntReset = row.setWidth 32 ∧
        ∀ off, t.cnt off = if barRow off = some row.toNat then 0 else s.cnt off) ∧
    (∀ key, reachable s ag Reg.gctlUnlock = true →
      (key = 0x5A17 → exec (.gctlUnlock ag key) s = .next (setGuard s ag { guardOf s ag with open_ := some s.ts })) ∧
      (key ≠ 0x5A17 → exec (.gctlUnlock ag key) s =
        .next ((setGuard s ag { guardOf s ag with open_ := none }).setFlag Reg.gctlStat 1))) ∧
    (∀ t0, (guardOf s ag).open_ = some t0 →
      (t0.toNat + 1024 * Config.slowTicks ≤ s.ts.toNat →
        exec (.g2LockTimeout ag) s = .next (setGuard s ag { guardOf s ag with open_ := none })) ∧
      (s.ts.toNat < t0.toNat + 1024 * Config.slowTicks → exec (.g2LockTimeout ag) s = .next s)) ∧
    (s.boot.inReset = false →
      let get : TriField → Option (Tri (BitVec 32) × BitVec 32) := fun f => match f with
        | .safeEn => some (s.regs.safeEn, 0x1F)
        | .limSust => some (s.regs.limSust, 2400)
        | .limPeak => some (s.regs.limPeak, 3000)
        | .winEn => some (s.regs.winEn, 0)
        | .guard => none
      let after := fun (t : State) (f : TriField) => match f with
        | .safeEn => t.regs.safeEn
        | .limSust => t.regs.limSust
        | .limPeak => t.regs.limPeak
        | .winEn => t.regs.winEn
        | .guard => tri 0
      (∀ f v safe u0 u1 u2, get f = some (tri v, safe) →
        (u0 = 0 → u1 = 0 → u2 = 0 → exec (.triplicateVote f u0 u1 u2) s = .next s) ∧
        (u0 ≠ u1 → u1 ≠ u2 → u0 ≠ u2 → ∃ t, exec (.triplicateVote f u0 u1 u2) s = .next t ∧ after t f = tri safe ∧
          t.flag Reg.gctlStat 4 = true ∧ (f = .winEn → ∀ k, k < 4 → mgetD 0 t.svp.gen k = mgetD 0 s.svp.gen k + 1)) ∧
        (u0 ≠ 0 → u1 = 0 → u2 = 0 → (s.cnt Reg.gctlVote).toNat + 1 < 2 ^ 64 - 1 → ∃ t, exec (.triplicateVote f u0 u1 u2) s = .next t ∧
          after t f = tri v ∧ t.flag Reg.gctlStat 3 = true ∧ (t.cnt Reg.gctlVote).toNat = (s.cnt Reg.gctlVote).toNat + 1)) ∧
      ∀ g u0, s.regs.guard = tri g → ∃ t, exec (.triplicateVote .guard u0 0 0) s = .next t ∧ t.regs.guard = tri g) ∧
    ∀ (off : BitVec 26) i, reachable s ag off.toNat = true → off.toNat % 4 = 0 → regInfo off.toNat = some i →
      (i.cnt = 1 → ∃ t, exec (.shadowLoRead ag off) s = .next t ∧
        t.regs.reads = (ag, off.toNat, (s.cnt off.toNat).extractLsb' 0 32) :: s.regs.reads ∧
        shadowOf t ag off.toNat = (s.cnt off.toNat).extractLsb' 32 32 ∧ t.regs.cnt = s.regs.cnt) ∧
      (i.cnt = 2 → i.pair = 0 → exec (.shadowLoRead ag off) s =
        .next (s.modRegs fun r => { r with reads := (ag, off.toNat, shadowOf s ag (off.toNat - 4)) :: r.reads }))

/-- R457 to R470. -/
def Obligations.DieLinksTrainHoldAndReplay : Prop :=
  ∀ (s : State) (link : BitVec 2), s.boot.inReset = false → link ≠ 3 →
    let n := link.toNat
    let l := s.link n
    let canTrain := (s.reg (Reg.d2d n 0)).getLsbD 0 = true ∧ l.a.test = 0 ∧ l.b.test = 0 ∧ ∀ d ∈ linkDies n, dieOff s d = false
    let starts := fun (t : State) => (t.link n).st = .training ∧ (t.link n).attempt = 1 ∧ (t.link n).skip = [] ∧
      t.flag (Reg.d2d n 0x08) 0 = true ∧ (t.link n).width = l.width
    let fails := fun (t : State) => t.flag (Reg.d2d n 0x08) 1 = true ∧
      (l.attempt < 3 → (t.link n).st = .training ∧ (t.link n).attempt = l.attempt + 1) ∧
      (3 ≤ l.attempt → (t.link n).st = .held ∧ t.flag (Reg.d2d n 0x08) 3 = true ∧ ∀ d ∈ linkDies n, dieOff t d = true)
    (∀ up (f : Flit), l.st = .up →
      let e := endAt l up
      let good := f.crcOk = true ∧ f.ch.toNat ≤ 8 ∧ f.count = e.rxCount + 1
      ∃ t, exec (.dieLinkFlit link up f) s = .next t ∧
        (good → f.ch ≠ 0 → (endAt (t.link n) up).rxCount = f.count ∧ (endAt (t.link n) up).await = false ∧
          mgetD 0 (endAt (t.link n) up).credits f.crch.toNat = min 0 (mgetD 0 e.credits f.crch.toNat + f.crn.toNat) ∧
          endAt (t.link n) (!up) = endAt l (!up) ∧
          (e.sinceAck + 1 < 32 → (endAt (t.link n) up).out = e.out ∧ (endAt (t.link n) up).sinceAck = e.sinceAck + 1) ∧
          (32 ≤ e.sinceAck + 1 → (endAt (t.link n) up).out = e.out ++ [(false, f.count)] ∧ (endAt (t.link n) up).sinceAck = 0)) ∧
        (¬ good → (endAt (t.link n) up).rxCount = e.rxCount ∧ (endAt (t.link n) up).await = true ∧
          (endAt (t.link n) up).out = e.out ++ (if e.await then [] else [(true, e.rxCount)])) ∧
        (good → f.ch = 0 → f.mapCheck = l.near → f.nak = false → e.sinceAck + 1 < 32 →
          (endAt (t.link n) up).replay = e.replay.filter (fun c => !countLe c f.acked) ∧ (t.link n).st = .up) ∧
        (good → f.ch = 0 → f.mapCheck ≠ l.near → canTrain → starts t ∧ t.flag (Reg.d2d n 0x08) 4 = true)) ∧
    (l.st ≠ .up → ∀ up f, exec (.dieLinkFlit link up f) s = .next s) ∧
    (l.st = .down → canTrain → ∃ t, exec (.linkHandshake link) s = .next t ∧ starts t) ∧
    (l.st ≠ .down → exec (.linkHandshake link) s = .next s) ∧
    (∀ ag, reachable s ag (Reg.d2d n 0) = true →
      (l.st = .up ∨ l.st = .down → canTrain → ∃ t, exec (.d2dRetrain ag link) s = .next t ∧ starts t) ∧
      (l.st = .training ∨ l.st = .held → exec (.d2dRetrain ag link) s = .next s)) ∧
    (∀ ag far, reachable s ag (linkReg n far 0) = true → ∀ c ∈ [Instr.d2dReset ag link far, .sbsDrop link], ∃ t, exec c s = .next t ∧
      (l.st = .up → canTrain → starts t) ∧ (l.st = .training → fails t) ∧ (l.st = .down ∨ l.st = .held → t = s)) ∧
    (l.st = .training → ∀ m : LaneReport,
      let use := (List.range (linkBundles n)).filter fun i => decide (16 ≤ lanesOf m.down i) && decide (16 ≤ lanesOf m.up i) &&
        !l.skip.contains i && !boff s n i
      (∀ x, m.answered = true → 16 ≤ use.length → m.nearCheck = some x → m.farCheck = some x → m.testOk = true → m.testBad = [] →
        ∃ t, exec (.handshakeAttempt link m) s = .next t ∧ (t.link n).st = .up ∧ (t.link n).width = use.length ∧
          (t.link n).down = m.down ∧ (t.link n).up = m.up ∧ (t.link n).near = x ∧ (t.link n).far = x ∧ (t.link n).attempt = 0 ∧
          (use.length < l.width → t.flag (Reg.d2d n 0x08) 2 = true)) ∧
      (m.answered = false ∨ use.length < 16 ∨ m.nearCheck = none ∨ m.farCheck = none →
        ∃ t, exec (.handshakeAttempt link m) s = .next t ∧ fails t) ∧
      (∀ x y, m.answered = true → 16 ≤ use.length → m.nearCheck = some x → m.farCheck = some y →
        (x ≠ y → ∃ t, exec (.handshakeAttempt link m) s = .next t ∧ fails t ∧ t.flag (Reg.d2d n 0x08) 4 = true) ∧
        (x = y → m.testOk = false ∨ m.testBad ≠ [] → ∃ t, exec (.handshakeAttempt link m) s = .next t ∧ fails t ∧
          (l.attempt < 3 → ∀ i, i ∈ (t.link n).skip ↔ i ∈ l.skip ∨ i ∈ m.testBad))) ∧
      ∀ st : BitVec 4, st ≠ 0 → st.toNat ≤ 6 → ∃ t, exec (.handshakeStepTimeout link st) s = .next t ∧ fails t) ∧
    (l.st ≠ .training → (∀ m, exec (.handshakeAttempt link m) s = .next s) ∧ ∀ st, exec (.handshakeStepTimeout link st) s = .next s) ∧
    (∀ ag, reachable s ag (Reg.d2d n 0x0C) = true →
      (l.st = .held → exec (.linkHoldCmd ag link) s = .next s) ∧
      (l.st ≠ .held → exec (.linkHoldRelease ag link) s = .next s ∧
        ∃ t, exec (.linkHoldCmd ag link) s = .next t ∧ (t.link n).st = .held ∧ t.flag (Reg.d2d n 0x08) 3 = true ∧
          (∀ d ∈ linkDies n, dieOff t d = true) ∧
          ∀ (cl : BitVec 6), dieOfCluster cl ∈ linkDies n → dieOff s (dieOfCluster cl) = false → (t.cluster cl).isolated = true) ∧
      (l.st = .held → (∀ d ∈ linkDies n, heldBy s n d = false) → (s.reg (Reg.d2d n 0)).getLsbD 0 = true → l.a.test = 0 → l.b.test = 0 →
        ∃ t, exec (.linkHoldRelease ag link) s = .next t ∧ (t.link n).st = .training ∧ (t.link n).attempt = 1 ∧
          (∀ d ∈ linkDies n, dieOff t d = false) ∧
          (∀ a, dieOfHome (homeOf s.mem (a / 64)) ∈ linkDies n → Memory.wf s.mem.cells = true → rdByte t.mem.cells a = 0) ∧
          ∀ (cl : BitVec 6), dieOfCluster cl ∈ linkDies n → (t.cluster cl).isolated = true ∧ (t.cluster cl).l2 = [])) ∧
    (∀ ag far (mode : BitVec 2), reachable s ag (linkReg n far 0x60) = true →
      (mode ≠ 0 → mode ≠ 3 → l.st = .up ∨ l.st = .training →
        exec (.d2dTestMode ag link far mode) s = .next (s.setFlag (linkReg n far 0x08) 5)) ∧
      (mode = 0 ∨ mode = 3 ∨ l.st = .down ∨ l.st = .held → ∃ t, exec (.d2dTestMode ag link far mode) s = .next t ∧
        (if far then (t.link n).b.test else (t.link n).a.test) = (if mode = 3 then 0 else mode) ∧ t.regs = s.regs)) ∧
    (∀ cl : BitVec 6,
      (∃ t, exec (.bondParityError cl true) s = .next t ∧ t.mem.cells = s.mem.cells) ∧
      ∃ t, exec (.bondParityError cl false) s = .next t ∧ t.mem.cells = s.mem.cells ∧
        (s.fcl.broken = [] → classOf s 0x12 = 3 → (s.reg Reg.fclReact).getLsbD 11 = true → s.fcl.safe = false → s.fcl.safeSrc = none →
          (t.cluster cl).isolated = true)) ∧
    (s.aonUp = true → ∀ die : Bool, exec (.timeMark die) s =
      .next (s.modBoot fun b => { b with marks := mset b.marks (if die then 1 else 0) s.ts }))

/-- R475 to R497. Inputs of the activity model and the sensors are the commands' operands; the caps that a grant covers and the
rails' numbers are the model's (log entries 43 and 45). -/
def Obligations.PowerIsSharedLimitedAndProtected : Prop :=
  ∀ (s : State), frozen s = false →
    (∀ i : PassInput,
      let g := shareOut i.demand (prioOrder s) (passBudget s i)
      ∃ t, exec (.powerPass i) s = .next t ∧ t.reg Reg.pwrPower = i.avg1s ++ i.avg2ms ∧
        (s.pwr.forced = true → t.pwr.portCap = s.pwr.portCap ∧ t.pwr.stackCap = s.pwr.stackCap ∧
          ∀ cl, (t.cluster cl).step = (s.cluster cl).step) ∧
        (s.pwr.forced = false → (∀ n, n < 12 → mgetD 0 t.pwr.portCap n = capFor i.linkNeed 8 (grantOf g 0)) ∧
          (∀ n, n < 16 → mgetD 0 t.pwr.stackCap n =
            if dieHot s (n % 8 / 4) then min (capFor i.memNeed 16 (grantOf g 1)) 8 else capFor i.memNeed 16 (grantOf g 1)) ∧
          ∀ cl : BitVec 6,
            let cur := (s.cluster cl).step
            let goal := min (dieStepFor i (grantOf g 2) (cdOf cl)) (ceilingOf t cl)
            (pllRuns s cl = false ∨ (proofing s (cdOf cl) = true ∧ ∀ c, cdOf c = cdOf cl → (s.cluster c).throttled = false) →
              (t.cluster cl).step = cur) ∧
            (pllRuns s cl = true → proofing s (cdOf cl) = false →
              (goal < cur → (t.cluster cl).step = goal) ∧
              (cur ≤ goal → (t.cluster cl).step = cur ∨ ((t.cluster cl).step = cur + 1 ∧ cur < goal))))) ∧
    (∀ (cd : BitVec 2) goal ts0, mgetD none s.pwr.railTo cd.toNat = some (goal, ts0) →
      (s.ts.toNat < ts0.toNat + slewTicks s cd.toNat (railOf s cd.toNat) goal → exec (.railSettled cd) s = .next s) ∧
      (ts0.toNat + slewTicks s cd.toNat (railOf s cd.toNat) goal ≤ s.ts.toNat → ∃ t, exec (.railSettled cd) s = .next t ∧
        railOf t cd.toNat = goal ∧ mgetD none t.pwr.railTo cd.toNat = none ∧
        ∀ (cl : BitVec 6) k, cdOf cl = cd.toNat → mgetD none s.pwr.want cl.toNat = some k → k ≤ goal → pllRuns s cl = true →
          (t.cluster cl).step = if droopHolds s cl then (s.cluster cl).step else k)) ∧
    (∀ i, ∃ t, exec (.activityModelTick i) s = .next t ∧ ∀ d, d < 4 → mgetD (0, 0, 0) t.pwr.cur d =
      ((i.current[d]?).getD 0, (i.mean10[d]?).getD 0, (i.fallRate[d]?).getD 0)) ∧
    (∀ (rail : BitVec 5) crcOk (rep mod rated : Int), rail.toNat < 11 →
      let bad := crcOk = false ∨ rep < 0 ∨ 3 * rated < 2 * rep ∨ 2 * mod < rep ∨ 2 * rep < mod
      (bad → (s.cnt Reg.pwrTeldrop).toNat + 1 < 2 ^ 64 - 1 → ∃ t, exec (.telemetryFrame rail crcOk rep mod rated) s = .next t ∧
        t.pwr = s.pwr ∧ t.flag Reg.pwrStat 6 = true ∧ (t.cnt Reg.pwrTeldrop).toNat = (s.cnt Reg.pwrTeldrop).toNat + 1) ∧
      (¬ bad → mod ≠ 0 → ∃ t, exec (.telemetryFrame rail crcOk rep mod rated) s = .next t ∧ t.regs = s.regs ∧
        mgetD none t.pwr.telTs rail.toNat = some s.ts ∧
        8 * (mgetD 0 t.pwr.gain rail.toNat - mgetD 0 s.pwr.gain rail.toNat) =
          max (4 / 5) (min (5 / 4) ((rep : Rat) / (mod : Rat))) - (1 + mgetD 0 s.pwr.gain rail.toNat))) ∧
    (s.pwr.calibrated = true → ∀ r < 11,
      (mgetD none s.pwr.telTs r = none ∨ ∃ t0, mgetD none s.pwr.telTs r = some t0 ∧ t0.toNat + 10 * Config.msTicks ≤ s.ts.toNat) →
      ∃ t, exec .modelUncalibrated s = .next t ∧ t.pwr.calibrated = false ∧ t.flag Reg.pwrStat 7 = true ∧
        sustTarget t = (if s.pwr.flowLow then min (sustLimit s) 1600 else sustLimit s) * 9 / 10) ∧
    (s.pwr.calibrated = false → exec .modelUncalibrated s = .next s) ∧
    (∀ cd : BitVec 2,
      let n := idleOfDie s cd.toNat
      let c := mgetD (0, 0, 0) s.pwr.cur cd.toNat
      (proofing s cd.toNat = false → s.pwr.forced = false → (s.reg Reg.pwrProof).getLsbD 16 = true → n.2 < 4 * n.1 → 5000 < c.2.2 →
        ∃ t, exec (.proofEngage cd) s = .next t ∧ mgetD none t.pwr.proof cd.toNat = some ⟨c.2.1, s.ts⟩ ∧
          mgetD none t.pwr.railTo cd.toNat = none ∧ t.flag Reg.pwrStat 1 = true ∧
          (∀ cl : BitVec 6, cdOf cl = cd.toNat → mgetD none t.pwr.want cl.toNat = none) ∧ t.clus = s.clus ∧ t.cores = s.cores) ∧
      ((s.reg Reg.pwrProof).getLsbD 16 = false ∨ 4 * n.1 ≤ n.2 ∨ c.2.2 ≤ 5000 → exec (.proofEngage cd) s = .next s) ∧
      (∀ p, mgetD none s.pwr.proof cd.toNat = some p →
        (p.ts.toNat + fadeTicks s ≤ s.ts.toNat ∨ 4 * n.1 ≤ n.2 → ∃ t, exec (.proofRelease cd) s = .next t ∧
          mgetD none t.pwr.proof cd.toNat = none ∧ t.clus = s.clus ∧ t.regs = s.regs) ∧
        (s.ts.toNat < p.ts.toNat + fadeTicks s → n.2 < 4 * n.1 → exec (.proofRelease cd) s = .next s)) ∧
      ∀ ag, reachable s ag Reg.pwrProof = true → ∃ t, exec (.proofReleaseCmd ag) s = .next t ∧ mgetD none t.pwr.proof cd.toNat = none) ∧
    (∀ cl : BitVec 6,
      (pllRuns s cl = true → (s.cnt Reg.pwrDroop).toNat + 1 < 2 ^ 64 - 1 → ∃ t, exec (.droopDetect cl) s = .next t ∧
        (t.cluster cl).droop = true ∧ (t.cluster cl).droopTs = some s.ts ∧ t.flag Reg.pwrStat 2 = true ∧
        (t.cnt Reg.pwrDroop).toNat = (s.cnt Reg.pwrDroop).toNat + 1) ∧
      (pllRuns s cl = false → exec (.droopDetect cl) s = .next s) ∧
      (∀ t0, (s.cluster cl).droop = true → (s.cluster cl).droopTs = some t0 →
        (t0.toNat + 200 ≤ s.ts.toNat → exec (.droopClear cl) s =
          .next (s.modCluster cl fun c => { c with droop := false, droopTs := some s.ts })) ∧
        (s.ts.toNat < t0.toNat + 200 → exec (.droopClear cl) s = .next s)) ∧
      (∀ base (reading : Int), reading ≤ thermThreshold s base → exec (.thermalThrottle cl base reading) s = .next s) ∧
      (∀ reading : Int, thermThreshold s false < reading → ∃ t, exec (.thermalThrottle cl false reading) s = .next t ∧
        (t.cluster cl).throttled = true ∧ ((s.cluster cl).throttled = false → t.flag Reg.pwrStat 3 = true ∧
          mgetD none t.pwr.proof (cdOf cl) = none)) ∧
      (∀ reading : Int, thermThreshold s true < reading → ∃ t, exec (.thermalThrottle cl true reading) s = .next t ∧
        (t.cluster cl).throttled = true ∧ (t.cluster (cl ^^^ 1)).throttled = true ∧
        ∀ n, n < 16 → n % 8 / 4 = cl.toNat / 32 → mgetD 16 t.pwr.stackCap n ≤ 8) ∧
      (∀ own base : Int, own ≤ thermThreshold s false - 300 → base ≤ thermThreshold s true - 300 →
        ∃ t, exec (.thermalCeilingRaise cl own base) s = .next t ∧ (t.cluster cl).throttled = false ∧
          mgetD false t.pwr.baseHot (cl.toNat / 2) = false ∧
          ((s.cluster cl).thermTs = none ∨ (∃ t0, (s.cluster cl).thermTs = some t0 ∧ t0.toNat + 100 * Config.usTicks ≤ s.ts.toNat) →
            (t.cluster cl).thermDown = (s.cluster cl).thermDown - 1) ∧
          (∀ t0, (s.cluster cl).thermTs = some t0 → s.ts.toNat < t0.toNat + 100 * Config.usTicks →
            (t.cluster cl).thermDown = (s.cluster cl).thermDown)) ∧
      (∀ own base : Int, thermThreshold s false - 300 < own ∨ thermThreshold s true - 300 < base →
        exec (.thermalCeilingRaise cl own base) s = .next s) ∧
      (∀ base (reading : Int),
        (reading < (if base then 10500 else 10000) → exec (.thermalTrip base cl reading) s = .next s) ∧
        ((if base then 10500 else 10000) ≤ reading → (base = true → cl.toNat < 32) → ∃ t, exec (.thermalTrip base cl reading) s = .next t ∧
          t.boot.trip = true ∧ (s.fcl.broken = [] → t.fcl.safeSrc.isSome = true)))) ∧
    (∃ t, exec .coolantFlowLoss s = .next t ∧ t.pwr = { s.pwr with coolant := false } ∧
      (s.pwr.service = false → t.fcl = s.fcl) ∧ (s.pwr.service = true → s.fcl.broken = [] → t.fcl.safeSrc.isSome = true)) ∧
    exec .coolantFlowOkRise s = .next (s.modPwr fun p => { p with coolant := true }) ∧
    (∀ hz : BitVec 16, hz.toNat ≤ 2000 →
      (s.pwr.flowLow = false → hz.toNat < s.fld Reg.pwrFlow 16 16 → ∃ t, exec (.coolantFlowLow hz) s = .next t ∧ t.pwr.flowLow = true ∧
        t.flag Reg.pwrStat 5 = true ∧ sustTarget t ≤ 1600) ∧
      (s.fld Reg.pwrFlow 16 16 ≤ hz.toNat → ∃ t, exec (.coolantFlowRestored hz) s = .next t ∧ t.pwr.flowLow = false ∧
        t.fld Reg.pwrFlow 0 16 = hz.toNat)) ∧
    (s.pwr.alert = true → exec .regulatorAlert s = .next s) ∧
    (s.pwr.alert = false → ∃ t, exec .regulatorAlert s = .next t ∧ t.pwr.alert = true ∧
      (fwctl s = true → t.flag Reg.pwrStat 4 = true ∧ t.pwr.forced = s.pwr.forced ∧ ∀ cl, (t.cluster cl).step = (s.cluster cl).step) ∧
      (fwctl s = false → t.pwr.forced = true ∧ (∀ cl, (t.cluster cl).step = 0) ∧ (∀ n < 12, mgetD 0 t.pwr.portCap n = 1) ∧
        (∀ n < 16, mgetD 0 t.pwr.stackCap n = 1) ∧ ∀ cd < 4, mgetD none t.pwr.proof cd = none)) ∧
    exec .regulatorAlertEnd s = .next (s.modPwr fun p => { p with alert := false, forced := false }) ∧
    (∀ aon bad, s.pwr.sagIn = false → ∃ t, exec (.supplySag true aon bad) s = .next t ∧ t.pwr.sagIn = true ∧
      t.flag Reg.pwrStat 8 = true ∧ (s.cal.busy = some true ∨ s.cal.waiting = true → t.cal.busy = none ∧ t.cal.waiting = false ∧
        t.flag Reg.calStat 3 = true) ∧ t.cal.slot = s.cal.slot ∧ (bad = true → t.flag Reg.pwrStat 6 = true)) ∧
    ∀ input aon, exec (.supplySagEnd input aon) s =
      .next (s.modPwr fun p => { p with sagIn := p.sagIn && !input, sagAon := p.sagAon && !aon })

/-- R497, R503 to R520, R538, R539. A crumb's place in the queue is its CSEQ mod 32. -/
def Obligations.FaultsAreClassedAndCalibrationKept : Prop :=
  ∀ (s : State), s.boot.inReset = false →
    (∀ r : Report,
      let ty := srcTy r.src
      let c := classOf s ty
      let react := s.fld Reg.fclReact (3 * c) 3
      let inSafe := s.fcl.safe || s.fcl.safeSrc.isSome
      let crumb := fun (t : State) => mgetD none t.fcl.crumbs ((nextCseq s).toNat % 32)
      (s.fcl.broken.contains r.src = true → exec (.faultReport r) s = .next (s.modFcl fun f => { f with behind := f.behind ++ [r] })) ∧
      (s.fcl.broken.contains r.src = false → ty = 0 ∨ 0x34 ≤ ty → exec (.faultReport r) s = .next s) ∧
      (s.fcl.broken.contains r.src = false → ty ≠ 0 → ty < 0x34 → (s.cnt (Reg.fclCnt ty)).toNat + 1 < 2 ^ 64 - 1 →
          (s.cnt Reg.fclCrumbLost).toNat + 2 < 2 ^ 64 - 1 →
          (s.cnt (Reg.clg (BitVec.ofNat 6 (srcInst r.src)) 0x10)).toNat + 1 < 2 ^ 64 - 1 →
        (3 ≤ c → ∃ t, exec (.faultReport r) s = .next t ∧
          (react.testBit 0 = true → (t.cnt (Reg.fclCnt ty)).toNat = (s.cnt (Reg.fclCnt ty)).toNat + 1 ∧
            crumb t = some { cseq := nextCseq s, src := r.src, kind := 1, cls := BitVec.ofNat 3 c, ctx := r.ctx, count := 0,
                             addr := r.addr, ts := r.ts }) ∧
          (react.testBit 1 = true → t.flag Reg.fclStat c = true) ∧
          (react.testBit 2 = true → clusterType ty (srcInst r.src) = true → inSafe = false →
            (t.cluster (BitVec.ofNat 6 (srcInst r.src))).isolated = true) ∧
          (react.testBit 2 = false ∨ inSafe = true → ∀ cl, (t.cluster cl).isolated = (s.cluster cl).isolated) ∧
          (s.flag Reg.fclFirstStat 0 = false → t.flag Reg.fclFirstStat 0 = true ∧ t.fcl.firstSrc = r.src ∧
            t.fcl.firstCls = BitVec.ofNat 3 c ∧ t.fcl.firstCtx = r.ctx ∧ t.fcl.firstAddr = r.addr ∧ t.fcl.firstTs = r.ts) ∧
          (s.flag Reg.fclFirstStat 0 = true → t.flag Reg.fclFirstStat 1 = true ∧ t.fcl.firstSrc = s.fcl.firstSrc) ∧
          (inSafe = false → t.fcl.safeSrc = if (safeEnables s).getLsbD c || ty = 0x29 || ty = 0x2A then
            some (r.src, BitVec.ofNat 3 c) else none)) ∧
        (c ≤ 2 → s.fcl.promoted.contains r.src = false →
          let n := s.fld (Reg.fclType ty) 8 8
          (s.fcl.windows = [] → n ≠ 1 → ∃ t, exec (.faultReport r) s = .next t ∧ t.fcl.promoted = s.fcl.promoted ∧
            t.fcl.windows = [{ src := r.src, ts := s.ts, count := 1 }]) ∧
          (∀ t0 k, s.fcl.windows = [{ src := r.src, ts := t0, count := k }] → s.ts.toNat < t0.toNat + windowTicks s r.src →
            (n = 0 ∨ k + 1 < n → ∃ t, exec (.faultReport r) s = .next t ∧ t.fcl.promoted = s.fcl.promoted ∧
              t.fcl.windows = [{ src := r.src, ts := t0, count := k + 1 }]) ∧
            (n ≠ 0 → n ≤ k + 1 → ∃ t x, exec (.faultReport r) s = .next t ∧ r.src ∈ t.fcl.promoted ∧
              crumb t = some x ∧ x.kind = 0x08 ∧ x.cls = 3 ∧ x.src = r.src ∧
              ((s.fld Reg.fclReact 9 3).testBit 1 = true → t.flag Reg.fclStat 3 = true)))))) ∧
    (∀ src : BitVec 16,
      (s.fcl.broken.contains src = true → exec (.mirrorPairFault src) s = .next s) ∧
      (s.fcl.broken.contains src = false → ∃ t, exec (.mirrorPairFault src) s = .next t ∧ t.fcl.broken = s.fcl.broken ++ [src]) ∧
      (∀ r, s.fcl.behind = [r] → r.src = src → exec (.gathererPoll src) s =
        .next (collect (s.modFcl fun f => { f with behind := [] }) r none)) ∧
      ((∀ r ∈ s.fcl.behind, r.src ≠ src) → exec (.gathererPoll src) s = .next s) ∧
      (∀ x, s.fcl.windows = [x] → x.src = src →
        (x.ts.toNat + windowTicks s src ≤ s.ts.toNat → exec (.faultWindowClose src) s = .next (s.modFcl fun f => { f with windows := [] })) ∧
        (s.ts.toNat < x.ts.toNat + windowTicks s src → exec (.faultWindowClose src) s = .next s)) ∧
      ∀ ag, reachable s ag Reg.fclDemote = true →
        exec (.faultDemote ag true src) s = .next (s.modFcl fun f => { f with promoted := [], windows := [] }) ∧
        exec (.faultDemote ag false src) s = .next (s.modFcl fun f => { f with
          promoted := f.promoted.filter (· != src), windows := f.windows.filter (·.src != src) })) ∧
    (s.fcl.safeSrc = none → exec .safeStateEntry s = .next s) ∧
    (∀ src cls, s.fcl.safeSrc = some (src, cls) → s.fcl.safe = false → ∃ t, exec .safeStateEntry s = .next t ∧ t.fcl.safe = true ∧
      t.fcl.safeSrc = none ∧ t.flag Reg.fclStat 5 = true ∧ fwctl t = false ∧ (∀ cd < 4, mgetD none t.pwr.proof cd = none) ∧
      mgetD none t.fcl.crumbs ((nextCseq s).toNat % 32) =
        some { cseq := nextCseq s, src := src, kind := 7, cls := cls, ctx := 0, count := 0, addr := 0, ts := s.ts }) ∧
    (∀ ag (v : BitVec 32), reachable s ag Reg.fclCrumbRd = true →
      let rd := (s.reg Reg.fclCrumbRd).extractLsb' 0 16
      let n := v.extractLsb' 0 16
      ((n - rd).toNat ≤ unreadCrumbs s → exec (.fclCrumbRdWrite ag v) s = .next (s.setReg Reg.fclCrumbRd (n.setWidth 32))) ∧
      (unreadCrumbs s < (n - rd).toNat → exec (.fclCrumbRdWrite ag v) s = .next s)) ∧
    (∀ r : LoupeRow, s.fcl.safe = false →
      ((s.reg Reg.fclLpCtl).getLsbD 16 = false → exec (.loupeSample [r]) s = .next s) ∧
      ((s.reg Reg.fclLpCtl).getLsbD 16 = true → r.group = 3 → (∀ e ∈ allStacks, pressure s e.1 e.2 = none) →
        let wr := s.reg Reg.fclLpWr
        let room := (wr - s.reg Reg.fclLpRd).toNat
        let line := (lpBase s + 64 * (wr.toNat % lpSlots s)) / 64
        (lpSlots s ≠ 0 → room < lpSlots s → takesLine s .loupe 0 line = true → (dirGet s.mem line).sharers = 0 →
            Memory.wf s.mem.cells = true → ∃ t, exec (.loupeSample [r]) s = .next t ∧ t.reg Reg.fclLpWr = wr + 1 ∧
          (memPeek t.mem line).1 = lpLine 0x10 (ownVals s r) (s.ts.toNat / lpInterval s * lpInterval s)) ∧
        (lpSlots s ≠ 0 → lpSlots s ≤ room → (s.cnt Reg.fclLpLost).toNat + 1 < 2 ^ 64 - 1 → ∃ t, exec (.loupeSample [r]) s = .next t ∧
          t.reg Reg.fclLpWr = wr ∧ (t.cnt Reg.fclLpLost).toNat = (s.cnt Reg.fclLpLost).toNat + 1 ∧ t.mem.cells = s.mem.cells))) ∧
    (∀ far stack chan, exec (.stackRecalibration far stack chan) s = .next s) ∧ exec .sensorCalibration s = .next s ∧
    (∀ ag, reachable s ag Reg.calCmd = true →
      (lockOpen s ag = false → ∃ t u, exec (.calCommit ag) s = .next t ∧ exec (.calReload ag) s = .next u ∧ t.cal = s.cal ∧
        u.cal = s.cal ∧ t.flag Reg.gctlStat 1 = true ∧ u.flag Reg.gctlStat 1 = true) ∧
      (lockOpen s ag = true →
        (s.cal.busy.isSome = true ∨ s.cal.waiting = true → ∃ t u, exec (.calCommit ag) s = .next t ∧ exec (.calReload ag) s = .next u ∧
          t.cal = s.cal ∧ u.cal = s.cal ∧ t.flag Reg.calStat 1 = true ∧ u.flag Reg.calStat 1 = true) ∧
        (s.cal.busy = none → s.cal.waiting = false → ∃ t u, exec (.calCommit ag) s = .next t ∧ exec (.calReload ag) s = .next u ∧
          u.cal = { s.cal with busy := some false } ∧
          (s.pwr.sagIn = true ∨ s.pwr.sagAon = true → t.cal = s.cal ∧ t.flag Reg.calStat 3 = true) ∧
          (s.pwr.sagIn = false → s.pwr.sagAon = false →
            t.cal = if s.cal.erasing.isSome then { s.cal with waiting := true } else { s.cal with busy := some true })))) ∧
    (s.cal.busy = none → ∀ ok, exec (.calCommitDone ok) s = .next s) ∧
    (s.cal.busy = some true →
      let k := (s.cal.slot.toNat + 1) % 8
      (∃ t m, exec (.calCommitDone true) s = .next t ∧ t.cal.slot.toNat = k ∧ t.cal.busy = none ∧ slotAt t k = some m ∧
        commitNo m = (match committedSet s with
          | some x => commitNo x + 1
          | none => 1) ∧
        (∀ w, w ≠ 1 → w ≠ 3 → calWordOf m w = calWordOf s.cal.staging w) ∧
        t.cal.erasing = (if (committedSet s).isSome then some s.cal.slot else none) ∧ t.flag Reg.calStat 0 = true) ∧
      ∃ t, exec (.calCommitDone false) s = .next t ∧ slotAt t k = none ∧ t.cal.slot = s.cal.slot ∧ t.cal.busy = none ∧
        t.flag Reg.calStat 2 = true) ∧
    (s.cal.busy = some false → ∀ ok m, committedSet s = some m → ∃ t, exec (.calCommitDone ok) s = .next t ∧ t.cal.staging = m ∧
      t.cal.busy = none ∧ t.cal.slots = s.cal.slots ∧ t.flag Reg.calStat 0 = true) ∧
    (s.cal.erasing = none → exec .calEraseDone s = .next s) ∧
    (∀ k, s.cal.erasing = some k → ∃ t, exec .calEraseDone s = .next t ∧ slotAt t k.toNat = none ∧ t.cal.erasing = none ∧
      (s.cal.waiting = true → s.cal.busy = none → s.pwr.sagIn = false → s.pwr.sagAon = false → t.cal.busy = some true) ∧
      t.cal.waiting = false) ∧
    ∀ ag (v : BitVec 32), reachable s ag Reg.calWinData = true →
      let w := winWord s
      (∃ t, exec (.calWinDataAccess ag true v) s = .next t ∧ winWord t = (w + 1) % 16384 ∧ winSel t = winSel s ∧
        t.cal.staging = if winSel s then mset s.cal.staging w v else s.cal.staging) ∧
      ∃ t x, exec (.calWinDataAccess ag false v) s = .next t ∧ winWord t = (w + 1) % 16384 ∧ t.cal = s.cal ∧
        t.regs.reads = (ag, Reg.calWinData, x) :: s.regs.reads ∧ (winSel s = true → x = calWordOf s.cal.staging w) ∧
        (winSel s = false → ∀ m, committedSet s = some m → x = calWordOf m w)

/-- R221, R257, R293, R509, R511, R524 to R541. -/
def Obligations.ResetsAndBringUpFollowTheirSteps : Prop :=
  ∀ (s : State),
    (∀ cause,
      (s.boot.inReset = false → ∃ t, exec (.coldReset cause) s = .next t ∧ t.boot.inReset = true ∧ t.boot.cause = causeCode cause ∧
        t.ts = s.ts ∧ t.fuse = s.fuse ∧ t.pending = s.pending ∧ t.fcl.crumbs = s.fcl.crumbs ∧ t.fcl.newest = s.fcl.newest ∧
        t.fcl.firstSrc = s.fcl.firstSrc ∧ t.cal.slots = s.cal.slots ∧ t.fcl.safe = false ∧ t.mem = State.reset.mem ∧ t.clus = [] ∧
        t.cores = [] ∧ t.net = [] ∧ t.dsp = State.reset.dsp ∧ t.fab = State.reset.fab ∧
        t.boot.trip = (s.boot.trip && cause != .pwrGoodFall)) ∧
      (s.boot.inReset = true → cause ≠ .pwrGoodFall → exec (.coldReset cause) s = .next s)) ∧
    (∀ ag, reachable s ag Reg.gctlColdRst = true →
      (lockOpen s ag = true → exec (.gctlColdRst ag) s = exec (.coldReset .gctl) s) ∧
      (lockOpen s ag = false → ∃ t, exec (.gctlColdRst ag) s = .next t ∧ t.boot.inReset = false ∧ t.flag Reg.gctlStat 1 = true ∧
        t.mem.cells = s.mem.cells)) ∧
    (∀ testEn,
      (s.boot.inReset = true → s.aonUp = true → ∃ t, exec (.bootStart testEn) s = .next t ∧ t.boot.inReset = false ∧ t.boot.step = 1 ∧
        t.boot.start = s.ts ∧ t.boot.stepTs = s.ts ∧ t.boot.testEn = testEn ∧ t.boot.offDie = [1, 2, 3, 4, 5, 6] ∧
        (s.pwr.alert = true → t.pwr.forced = true)) ∧
      (s.boot.inReset = false ∨ s.aonUp = false → exec (.bootStart testEn) s = .next s)) ∧
    (booting s = false → (∀ r, exec (.bootStepDone r) s = .next s) ∧ exec .bootStepTimeout s = .next s ∧ exec .hostRelease s = .next s) ∧
    (booting s = true → ∀ r : BootResult,
      let enter := fun (n : Nat) => s.modBoot fun b => { b with step := n, stepTs := s.ts }
      let stop := s.modBoot fun b => { b with stopped := true }
      (∀ n ∈ [1, 6], s.boot.step = n → exec (.bootStepDone r) s = .next (if r.ok then enter (n + 1) else stop)) ∧
      (s.boot.step = 2 → s.boot.i3cUp = false → exec (.bootStepDone r) s = .next (if r.ok then
        (if s.boot.testEn then s.modBoot fun b => { b with i3cUp := true }
         else s.modBoot fun b => { b with i3cUp := true, step := 3, stepTs := s.ts, rom := true }) else stop)) ∧
      (s.boot.step = 4 → ∃ t, exec (.bootStepDone r) s = .next t ∧ t.boot.step = 5 ∧ t.boot.offDie = [] ∧ fwctl t = true ∧
        t.pwr.service = true ∧
        (∀ k, r.ok = true → bestSlot s = some k → t.cal.force = slotAt s k ∧ t.cal.slot = BitVec.ofNat 3 k ∧ t.cal.defaults = false) ∧
        (r.ok = false ∨ bestSlot s = none → t.cal.force = none ∧ t.cal.defaults = true) ∧
        ∀ n < 3, (s.link n).st = .down → (s.reg (Reg.d2d n 0)).getLsbD 0 = true → (s.link n).a.test = 0 → (s.link n).b.test = 0 →
          (t.link n).st = .training ∧ (t.link n).attempt = 1) ∧
      (s.boot.step = 5 → exec (.bootStepDone r) s =
        .next (if linksDone s then enter 6 else s)) ∧
      (s.boot.step = 7 → ∃ t, exec (.bootStepDone r) s = .next t ∧ t.boot.step = 8 ∧
        t.mem.nearGood = s.mem.nearGood &&& ~~~r.nearBad ∧ t.mem.farGood = s.mem.farGood &&& ~~~r.farBad) ∧
      (s.boot.step = 8 → r.ok = false → exec (.bootStepDone r) s = .next stop) ∧
      (s.boot.step = 8 → r.ok = true → ∃ t, exec (.bootStepDone r) s = .next t ∧
        (tierModeOf s.mem.nearGood = 3 → t.boot.stopped = true ∧ t.boot.step = 8) ∧
        (tierModeOf s.mem.nearGood ≠ 3 → t.boot.step = 9 ∧ t.mem.nearMode = tierModeOf s.mem.nearGood ∧
          t.mem.farMode = tierModeOf s.mem.farGood ∧ t.hpt.link = .training ∧ (hdmAt t 0).committed = true ∧
          (hdmAt t 0).base = s.fld Reg.hptEarlyBase 0 20 * 2 ^ 36 ∧ ∀ page < 2048, mgetD none s.mem.bias page = none →
            sharedBias t.mem page = true)) ∧
      (s.boot.step = 9 → s.hpt.link = .training → ∃ t, exec (.bootStepDone r) s = .next t ∧ t.hpt.good = r.modules ∧
        t.hpt.link = if modulesUsed r.modules = 0 then .down else .l0) ∧
      (s.ts.toNat < s.boot.stepTs.toNat + stepLimit s.boot.step → exec .bootStepTimeout s = .next s) ∧
      (s.boot.stepTs.toNat + stepLimit s.boot.step ≤ s.ts.toNat →
        (s.boot.step = 1 ∨ s.boot.step = 6 ∨ s.boot.step = 8 → exec .bootStepTimeout s = .next stop) ∧
        (s.boot.step = 3 → s.boot.image ≠ 3 → s.boot.trying = true → exec .bootStepTimeout s =
          .next (s.modBoot fun b => { b with image := 3 })) ∧
        (s.boot.step = 4 → ∃ t, exec .bootStepTimeout s = .next t ∧ t.boot.step = 5 ∧ t.cal.defaults = true ∧ t.cal.force = none) ∧
        (s.boot.step = 5 → ∃ t, exec .bootStepTimeout s = .next t ∧ t.boot.step = 6 ∧
          ∀ n < 3, (s.link n).st ≠ .up → (t.link n).st = .held) ∧
        (s.boot.step = 7 → ∃ t, exec .bootStepTimeout s = .next t ∧ t.boot.step = 8 ∧ t.mem.nearGood = 0 ∧ t.mem.farGood = 0) ∧
        (s.boot.step = 9 → s.hpt.link = .training → ∃ t, exec .bootStepTimeout s = .next t ∧ t.hpt.link = .down)) ∧
      (s.boot.step = 9 → linkUp s = true → (hdmAt s 0).committed = true → exec .hostRelease s =
        .next (s.modBoot fun b => { b with step := 10, stepTs := s.ts, hostRel := true })) ∧
      (s.boot.step ≠ 9 ∨ linkUp s = false ∨ (hdmAt s 0).committed = false → exec .hostRelease s = .next s)) ∧
    (∀ k sg d v,
      let ok := k = true ∧ sg = true ∧ d = true ∧ s.boot.minVer ≤ v
      (s.boot.inReset = false → s.boot.rom = true → s.boot.image ≠ 3 →
        (ok → ∃ t, exec (.imageVerify s.boot.trying k sg d v) s = .next t ∧ t.boot.image = (if s.boot.trying then 1 else 0) ∧
          t.boot.rom = false ∧ (s.boot.step = 3 → s.fcl.safe = false → t.boot.step = 4 ∧ t.boot.stepTs = s.ts)) ∧
        (¬ ok → exec (.imageVerify s.boot.trying k sg d v) s = .next (s.modBoot fun b =>
          if b.trying then { b with image := 3 } else { b with trying := true, stepTs := s.ts })) ∧
        exec (.imageVerify (!s.boot.trying) k sg d v) s = .next s) ∧
      (s.boot.inReset = false → s.boot.rom = true → s.boot.image = 3 →
        (ok → ∃ t, exec (.recoveryImage k sg d v) s = .next t ∧ t.boot.image = 2 ∧ t.boot.rom = false) ∧
        (¬ ok → exec (.recoveryImage k sg d v) s = .next s)) ∧
      (s.boot.rom = false → (∀ i, exec (.imageVerify i k sg d v) s = .next s) ∧ exec (.recoveryImage k sg d v) s = .next s)) ∧
    (∀ ag (v : BitVec 32), reachable s ag Reg.gctlWdogKick = true →
      (ag = .mgc → v.getLsbD 0 = true → wdogOn s = true → exec (.wdogKick ag v) s =
        .next (s.modBoot fun b => { b with wdog := max (s.fld Reg.gctlWdog 0 16) 100 * 500 })) ∧
      (ag ≠ .mgc ∨ v.getLsbD 0 = false ∨ wdogOn s = false → exec (.wdogKick ag v) s = .next s)) ∧
    (s.boot.wdog ≠ 0 ∨ wdogOn s = false → exec .wdogExpire s = .next s) ∧
    (s.boot.inReset = false → s.boot.wdog = 0 → wdogOn s = true → ∃ t, exec .wdogExpire s = .next t ∧ t.boot.rom = true ∧
      t.boot.image = 0 ∧ t.boot.trying = false ∧ t.flag Reg.gctlWdogStat 0 = true ∧ fwctl t = false ∧
      t.boot.wdog = max (s.fld Reg.gctlWdog 0 16) 100 * 500) ∧
    (∀ ag (cl : BitVec 6) (pos : BitVec 8),
      (reachable s ag Reg.gctlRstCluster = true → dieLives s cl = true →
        ((s.cluster cl).rst.isSome = true → exec (.clusterWarmReset ag cl) s = .next (s.setFlag Reg.gctlRstStat 2)) ∧
        ((s.cluster cl).rst = none → ∃ t, exec (.clusterWarmReset ag cl) s = .next t ∧ (t.cluster cl).rst = some s.ts ∧
          (∀ p ∈ enabledList s cl, (t.core ⟨cl, p⟩).rsv = none ∧ (t.core ⟨cl, p⟩).pend = none) ∧ t.mem = s.mem ∧ t.net = s.net ∧
          ∀ l r, s.dsp.launches = [l] → (s.cluster cl).run = some r → l.id = r.id → l.phase = .running →
            t.dsp.launches = [{ l with phase := .halting, status := 0x04 }])) ∧
      (reachable s ag Reg.gctlRstCore = true → dieLives s cl = true → enabledPos s cl pos.toNat = true →
        ((s.core ⟨cl, pos⟩).rst.isSome = true ∨ (s.cluster cl).rst.isSome = true →
          exec (.coreWarmReset ag cl pos) s = .next (s.setFlag Reg.gctlRstStat 2)) ∧
        ((s.core ⟨cl, pos⟩).rst = none → (s.cluster cl).rst = none → ∃ t, exec (.coreWarmReset ag cl pos) s = .next t ∧
          (t.core ⟨cl, pos⟩).rst = some s.ts ∧ (t.core ⟨cl, pos⟩).rsv = none ∧ (∀ c : CoreId, c ≠ ⟨cl, pos⟩ → t.core c = s.core c) ∧
          t.mem = s.mem)) ∧
      (frozen s = false → resetFor s ⟨cl, pos⟩ (2 * Config.usTicks) = true → (s.cluster cl).isolated = false →
        ∃ t, exec (.warmResetDrainTimeout cl pos) s = .next t ∧ (t.core ⟨cl, pos⟩).sb = [] ∧ (t.core ⟨cl, pos⟩).cb = [] ∧
          (t.core ⟨cl, pos⟩).lmv = [] ∧ (t.core ⟨cl, pos⟩).pend = none ∧
          (unacked (s.core ⟨cl, pos⟩) ≠ [] → ∃ x, mgetD none t.fcl.crumbs ((nextCseq s).toNat % 32) = some x ∧ x.kind = 0x03 ∧
            x.count.toNat % 65536 = (unacked (s.core ⟨cl, pos⟩)).length % 65536)) ∧
      (resetFor s ⟨cl, pos⟩ (2 * Config.usTicks) = false → exec (.warmResetDrainTimeout cl pos) s = .next s) ∧
      (frozen s = false → (s.cluster cl).pll = .running → (s.core ⟨cl, pos⟩).rst.isSome = true →
        (drainedCore (s.core ⟨cl, pos⟩) = true → ∃ t, exec (.warmResetDone cl true pos) s = .next t ∧ (t.core ⟨cl, pos⟩).l1 = [] ∧
          (t.core ⟨cl, pos⟩).victim = [] ∧ (t.core ⟨cl, pos⟩).ic = [] ∧ (t.core ⟨cl, pos⟩).rst = none ∧ (t.core ⟨cl, pos⟩).rsv = none) ∧
        (drainedCore (s.core ⟨cl, pos⟩) = false → exec (.warmResetDone cl true pos) s = .next s)) ∧
      ∀ t0, frozen s = false → (s.cluster cl).rst = some t0 →
        ((s.cluster cl).isolated = false → (s.cluster cl).pll = .running →
            (∀ p ∈ enabledList s cl, drainedCore (s.core ⟨cl, p⟩) = true) →
          (clusterSettled s cl = true → ∃ t, exec (.warmResetDone cl false pos) s = .next t ∧ (t.cluster cl).l2 = [] ∧
            (t.cluster cl).rst = none ∧ (∀ p ∈ enabledList s cl, (t.core ⟨cl, p⟩).l1 = [] ∧ (t.core ⟨cl, p⟩).ic = []) ∧
            ∀ k x, (s.cluster cl).l2 = [(k, some x)] → x.st = .M → Memory.wf s.mem.cells = true →
              memPeek t.mem x.line = (x.data, x.poison)) ∧
          (clusterSettled s cl = false → t0.toNat + 4 * Config.usTicks ≤ s.ts.toNat →
            ∃ t, exec (.warmResetDone cl false pos) s = .next t ∧ (t.cluster cl).isolated = true ∧ (t.cluster cl).rst = none) ∧
          (clusterSettled s cl = false → s.ts.toNat < t0.toNat + 4 * Config.usTicks → exec (.warmResetDone cl false pos) s = .next s)) ∧
        ((s.cluster cl).isolated = true →
          ((∃ h ∈ s.mem.homes, ∃ e ∈ h.2.reclaim, e.1 = cl) → exec (.warmResetDone cl false pos) s = .next s) ∧
          ((∀ h ∈ s.mem.homes, ∀ e ∈ h.2.reclaim, e.1 ≠ cl) → s.fcl.broken = [] → s.fcl.promoted = [] → classOf s 0x33 = 0 →
              (s.reg Reg.fclReact).getLsbD 2 = false → s.fld (Reg.fclType 0x33) 8 8 = 0 →
            ∃ t, exec (.warmResetDone cl false pos) s = .next t ∧
              (t.cluster cl).isolated = false ∧ (t.cluster cl).pll = .running ∧ (t.cluster cl).step = 0 ∧ (t.cluster cl).l2 = [] ∧
              (t.cluster cl).tlb = [] ∧ (t.cluster cl).tokq = [] ∧ (t.cluster cl).rst = none))) ∧
    exec (.aonPllLock false) s = .next { s with aonUp := true } ∧
    (∃ t, exec (.aonPllLock true) s = .next t ∧ t.aonUp = true ∧ t.ts = 0 ∧ t.fcl = State.reset.fcl ∧ t.cal.slots = s.cal.slots ∧
      t.fuse = s.fuse ∧ t.pending = s.pending) ∧
    (s.boot.inReset = false →
      (s.boot.refLost = false → ∃ t, exec .refclkLoss s = .next t ∧ t.boot.refLost = true ∧ t.flag Reg.gctlRstStat 0 = true ∧ t.ts = s.ts) ∧
      (s.boot.phyLost = false → ∃ t, exec .phyrefLoss s = .next t ∧ t.boot.phyLost = true ∧ t.flag Reg.gctlRstStat 1 = true)) ∧
    exec .refclkReturn s = .next (s.modBoot fun b => { b with refLost := false }) ∧
    exec .phyrefReturn s = .next (s.modBoot fun b => { b with phyLost := false }) ∧
    (s.boot.i3cUp = false → (∀ b, exec (.i3cWrite b) s = .next s) ∧ ∀ b len, exec (.i3cRead b len) s = .next s) ∧
    (s.boot.inReset = false → s.boot.i3cUp = true → ∀ (off : BitVec 26) (v : BitVec 32), off.toNat % 4 = 0 →
      let clear := s.modRegs fun r => { r with i3cOff := none }
      exec (.i3cWrite (wordBytes (off.setWidth 32) ++ wordBytes v)) s = exec (.registerWrite .i3c off v) clear ∧
      exec (.i3cWrite (wordBytes (off.setWidth 32))) s = .next (s.modRegs fun r => { r with i3cOff := some (off.setWidth 32) }) ∧
      (s.regs.i3cOff = some (off.setWidth 32) → exec (.i3cRead [] 4) s = exec (.shadowLoRead .i3c off) clear) ∧
      exec (.i3cRead (wordBytes (off.setWidth 32)) 4) s = exec (.shadowLoRead .i3c off) clear)
end

