-- ==== Sys2Proof/Laws/CoreOps.lean ====
section
/-! SUPPORT. One lemma for each operation that core instructions share: what it does when the instruction takes effect. -/

namespace Sys2Proof.Machine

/-- An instruction that takes effect runs its body. -/
theorem issue_of_issues {s : State} {w : Who} {word : Word} {len : Nat} {legal : Bool} {body : State → State}
    (h : issues s w len = true) (hl : legal = true) : issue s w word len legal body = body s := by
  obtain ⟨⟨⟨hr, hf⟩, hg⟩, ha⟩ : ((coreReady s w.core = true ∧ fetchedHere (s.core w.core) = true) ∧
      guardOn (s.core w.core) w = true) ∧ (len != 8 || (s.core w.core).pc.toNat % 8 == 0) = true := by
    simpa [issues, Bool.and_eq_true] using h
  have hn : (w.n && w.p == 0) = false := by
    cases hw : w.n <;> simp_all [guardOn, CoreSt.rp]
  have h8 : (len == 8 && (s.core w.core).pc.toNat % 8 != 0) = false := by
    cases hl8 : (len == 8) <;> simp_all
  simp only [issue, hr, hf, hl, hn, h8, hg]
  simp

/-- An instruction whose guard reads 0 is skipped (R71). -/
theorem issue_of_guard_off {s : State} {w : Who} {word : Word} {len : Nat} {legal : Bool} {body : State → State}
    (h : reaches s w = true) (hl : legal = true) (hn : (w.n && w.p == 0) = false)
    (h8 : (len == 8 && (s.core w.core).pc.toNat % 8 != 0) = false) (hg : guardOn (s.core w.core) w = false) :
    issue s w word len legal body = s.modCore w.core fun c => c.adv len := by
  obtain ⟨hr, hf⟩ : coreReady s w.core = true ∧ fetchedHere (s.core w.core) = true := by
    simpa [reaches, Bool.and_eq_true] using h
  simp only [issue, hr, hf, hl, hn, h8, hg]
  simp

/-- An encoding that is not defined raises 0x01 whatever its guard (R73). -/
theorem issue_of_illegal {s : State} {w : Who} {word : Word} {len : Nat} {legal : Bool} {body : State → State}
    (h : reaches s w = true) (hl : legal = false ∨ (w.n && w.p == 0) = true ∨
      (len == 8 && (s.core w.core).pc.toNat % 8 != 0) = true) :
    issue s w word len legal body = raiseExc s w.core excIllegal 0 word := by
  obtain ⟨hr, hf⟩ : coreReady s w.core = true ∧ fetchedHere (s.core w.core) = true := by
    simpa [reaches, Bool.and_eq_true] using h
  unfold issue
  rw [if_neg (by simp [hr]), if_neg (by simp [hf]), if_pos]
  rcases hl with h | h | h <;> simp only [h, Bool.not_false, Bool.true_or, Bool.or_true]

/-- A core that cannot issue is not disturbed (log entry 3). -/
theorem issue_of_not_ready {s : State} {w : Who} {word : Word} {len : Nat} {legal : Bool} {body : State → State}
    (h : coreReady s w.core = false) : issue s w word len legal body = s := by
  simp [issue, h]

/-- A core that has not fetched its instruction fetches it (R184). -/
theorem issue_of_not_fetched {s : State} {w : Who} {word : Word} {len : Nat} {legal : Bool} {body : State → State}
    (hr : coreReady s w.core = true) (hf : fetchedHere (s.core w.core) = false) :
    issue s w word len legal body = fetchStep s w.core word := by
  simp [issue, hr, hf]

/-- An instruction that changes its core alone. -/
theorem coreOp_of_issues {s : State} {w : Who} {word : Word} {len : Nat} {legal : Bool} {f : CoreSt → CoreSt}
    (h : issues s w len = true) (hl : legal = true) :
    coreOp s w word len legal f = s.modCore w.core fun c => (f c).adv len := issue_of_issues h hl

end Sys2Proof.Machine
end

