-- ==== Sys2Proof/Laws/CoreRegs.lean ====
section
/-! SUPPORT. For each update of a core's registers, the value of each field after it, and what its accessors read. -/

namespace Sys2Proof.Machine

section
variable (c : CoreSt)

/-! ### CoreSt.setS -/

@[simp] theorem CoreSt.setS_st (r : BitVec 5) (v : Word) : (c.setS r v).st = c.st := by unfold CoreSt.setS; split <;> rfl
@[simp] theorem CoreSt.setS_started (r : BitVec 5) (v : Word) : (c.setS r v).started = c.started := by unfold CoreSt.setS; split <;> rfl
@[simp] theorem CoreSt.setS_pc (r : BitVec 5) (v : Word) : (c.setS r v).pc = c.pc := by unfold CoreSt.setS; split <;> rfl
@[simp] theorem CoreSt.setS_p (r : BitVec 5) (v : Word) : (c.setS r v).p = c.p := by unfold CoreSt.setS; split <;> rfl
@[simp] theorem CoreSt.setS_k (r : BitVec 5) (v : Word) : (c.setS r v).k = c.k := by unfold CoreSt.setS; split <;> rfl
@[simp] theorem CoreSt.setS_ovf (r : BitVec 5) (v : Word) : (c.setS r v).ovf = c.ovf := by unfold CoreSt.setS; split <;> rfl
@[simp] theorem CoreSt.setS_xcfg (r : BitVec 5) (v : Word) : (c.setS r v).xcfg = c.xcfg := by unfold CoreSt.setS; split <;> rfl
@[simp] theorem CoreSt.setS_fsr (r : BitVec 5) (v : Word) : (c.setS r v).fsr = c.fsr := by unfold CoreSt.setS; split <;> rfl
@[simp] theorem CoreSt.setS_vsw (r : BitVec 5) (v : Word) : (c.setS r v).vsw = c.vsw := by unfold CoreSt.setS; split <;> rfl
@[simp] theorem CoreSt.setS_fns (r : BitVec 5) (v : Word) : (c.setS r v).fns = c.fns := by unfold CoreSt.setS; split <;> rfl
@[simp] theorem CoreSt.setS_tks (r : BitVec 5) (v : Word) : (c.setS r v).tks = c.tks := by unfold CoreSt.setS; split <;> rfl
@[simp] theorem CoreSt.setS_t (r : BitVec 5) (v : Word) : (c.setS r v).t = c.t := by unfold CoreSt.setS; split <;> rfl
@[simp] theorem CoreSt.setS_acc (r : BitVec 5) (v : Word) : (c.setS r v).acc = c.acc := by unfold CoreSt.setS; split <;> rfl
@[simp] theorem CoreSt.setS_vl (r : BitVec 5) (v : Word) : (c.setS r v).vl = c.vl := by unfold CoreSt.setS; split <;> rfl
@[simp] theorem CoreSt.setS_rl (r : BitVec 5) (v : Word) : (c.setS r v).rl = c.rl := by unfold CoreSt.setS; split <;> rfl
@[simp] theorem CoreSt.setS_ls (r : BitVec 5) (v : Word) : (c.setS r v).ls = c.ls := by unfold CoreSt.setS; split <;> rfl
@[simp] theorem CoreSt.setS_l1 (r : BitVec 5) (v : Word) : (c.setS r v).l1 = c.l1 := by unfold CoreSt.setS; split <;> rfl
@[simp] theorem CoreSt.setS_victim (r : BitVec 5) (v : Word) : (c.setS r v).victim = c.victim := by unfold CoreSt.setS; split <;> rfl
@[simp] theorem CoreSt.setS_ic (r : BitVec 5) (v : Word) : (c.setS r v).ic = c.ic := by unfold CoreSt.setS; split <;> rfl
@[simp] theorem CoreSt.setS_fetched (r : BitVec 5) (v : Word) : (c.setS r v).fetched = c.fetched := by unfold CoreSt.setS; split <;> rfl
@[simp] theorem CoreSt.setS_sb (r : BitVec 5) (v : Word) : (c.setS r v).sb = c.sb := by unfold CoreSt.setS; split <;> rfl
@[simp] theorem CoreSt.setS_cb (r : BitVec 5) (v : Word) : (c.setS r v).cb = c.cb := by unfold CoreSt.setS; split <;> rfl
@[simp] theorem CoreSt.setS_lmv (r : BitVec 5) (v : Word) : (c.setS r v).lmv = c.lmv := by unfold CoreSt.setS; split <;> rfl
@[simp] theorem CoreSt.setS_rsv (r : BitVec 5) (v : Word) : (c.setS r v).rsv = c.rsv := by unfold CoreSt.setS; split <;> rfl
@[simp] theorem CoreSt.setS_pend (r : BitVec 5) (v : Word) : (c.setS r v).pend = c.pend := by unfold CoreSt.setS; split <;> rfl
@[simp] theorem CoreSt.setS_pairLo (r : BitVec 5) (v : Word) : (c.setS r v).pairLo = c.pairLo := by unfold CoreSt.setS; split <;> rfl
@[simp] theorem CoreSt.setS_xwait (r : BitVec 5) (v : Word) : (c.setS r v).xwait = c.xwait := by unfold CoreSt.setS; split <;> rfl
@[simp] theorem CoreSt.setS_rst (r : BitVec 5) (v : Word) : (c.setS r v).rst = c.rst := by unfold CoreSt.setS; split <;> rfl

/-! ### CoreSt.setP -/

@[simp] theorem CoreSt.setP_st (i : BitVec 3) (v : Bool) : (c.setP i v).st = c.st := by unfold CoreSt.setP; split <;> rfl
@[simp] theorem CoreSt.setP_started (i : BitVec 3) (v : Bool) : (c.setP i v).started = c.started := by unfold CoreSt.setP; split <;> rfl
@[simp] theorem CoreSt.setP_pc (i : BitVec 3) (v : Bool) : (c.setP i v).pc = c.pc := by unfold CoreSt.setP; split <;> rfl
@[simp] theorem CoreSt.setP_s (i : BitVec 3) (v : Bool) : (c.setP i v).s = c.s := by unfold CoreSt.setP; split <;> rfl
@[simp] theorem CoreSt.setP_k (i : BitVec 3) (v : Bool) : (c.setP i v).k = c.k := by unfold CoreSt.setP; split <;> rfl
@[simp] theorem CoreSt.setP_ovf (i : BitVec 3) (v : Bool) : (c.setP i v).ovf = c.ovf := by unfold CoreSt.setP; split <;> rfl
@[simp] theorem CoreSt.setP_xcfg (i : BitVec 3) (v : Bool) : (c.setP i v).xcfg = c.xcfg := by unfold CoreSt.setP; split <;> rfl
@[simp] theorem CoreSt.setP_fsr (i : BitVec 3) (v : Bool) : (c.setP i v).fsr = c.fsr := by unfold CoreSt.setP; split <;> rfl
@[simp] theorem CoreSt.setP_vsw (i : BitVec 3) (v : Bool) : (c.setP i v).vsw = c.vsw := by unfold CoreSt.setP; split <;> rfl
@[simp] theorem CoreSt.setP_fns (i : BitVec 3) (v : Bool) : (c.setP i v).fns = c.fns := by unfold CoreSt.setP; split <;> rfl
@[simp] theorem CoreSt.setP_tks (i : BitVec 3) (v : Bool) : (c.setP i v).tks = c.tks := by unfold CoreSt.setP; split <;> rfl
@[simp] theorem CoreSt.setP_t (i : BitVec 3) (v : Bool) : (c.setP i v).t = c.t := by unfold CoreSt.setP; split <;> rfl
@[simp] theorem CoreSt.setP_acc (i : BitVec 3) (v : Bool) : (c.setP i v).acc = c.acc := by unfold CoreSt.setP; split <;> rfl
@[simp] theorem CoreSt.setP_vl (i : BitVec 3) (v : Bool) : (c.setP i v).vl = c.vl := by unfold CoreSt.setP; split <;> rfl
@[simp] theorem CoreSt.setP_rl (i : BitVec 3) (v : Bool) : (c.setP i v).rl = c.rl := by unfold CoreSt.setP; split <;> rfl
@[simp] theorem CoreSt.setP_ls (i : BitVec 3) (v : Bool) : (c.setP i v).ls = c.ls := by unfold CoreSt.setP; split <;> rfl
@[simp] theorem CoreSt.setP_l1 (i : BitVec 3) (v : Bool) : (c.setP i v).l1 = c.l1 := by unfold CoreSt.setP; split <;> rfl
@[simp] theorem CoreSt.setP_victim (i : BitVec 3) (v : Bool) : (c.setP i v).victim = c.victim := by unfold CoreSt.setP; split <;> rfl
@[simp] theorem CoreSt.setP_ic (i : BitVec 3) (v : Bool) : (c.setP i v).ic = c.ic := by unfold CoreSt.setP; split <;> rfl
@[simp] theorem CoreSt.setP_fetched (i : BitVec 3) (v : Bool) : (c.setP i v).fetched = c.fetched := by unfold CoreSt.setP; split <;> rfl
@[simp] theorem CoreSt.setP_sb (i : BitVec 3) (v : Bool) : (c.setP i v).sb = c.sb := by unfold CoreSt.setP; split <;> rfl
@[simp] theorem CoreSt.setP_cb (i : BitVec 3) (v : Bool) : (c.setP i v).cb = c.cb := by unfold CoreSt.setP; split <;> rfl
@[simp] theorem CoreSt.setP_lmv (i : BitVec 3) (v : Bool) : (c.setP i v).lmv = c.lmv := by unfold CoreSt.setP; split <;> rfl
@[simp] theorem CoreSt.setP_rsv (i : BitVec 3) (v : Bool) : (c.setP i v).rsv = c.rsv := by unfold CoreSt.setP; split <;> rfl
@[simp] theorem CoreSt.setP_pend (i : BitVec 3) (v : Bool) : (c.setP i v).pend = c.pend := by unfold CoreSt.setP; split <;> rfl
@[simp] theorem CoreSt.setP_pairLo (i : BitVec 3) (v : Bool) : (c.setP i v).pairLo = c.pairLo := by unfold CoreSt.setP; split <;> rfl
@[simp] theorem CoreSt.setP_xwait (i : BitVec 3) (v : Bool) : (c.setP i v).xwait = c.xwait := by unfold CoreSt.setP; split <;> rfl
@[simp] theorem CoreSt.setP_rst (i : BitVec 3) (v : Bool) : (c.setP i v).rst = c.rst := by unfold CoreSt.setP; split <;> rfl

/-! ### CoreSt.setK -/

@[simp] theorem CoreSt.setK_st (i : BitVec 4) (v : Word) : (c.setK i v).st = c.st := rfl
@[simp] theorem CoreSt.setK_started (i : BitVec 4) (v : Word) : (c.setK i v).started = c.started := rfl
@[simp] theorem CoreSt.setK_pc (i : BitVec 4) (v : Word) : (c.setK i v).pc = c.pc := rfl
@[simp] theorem CoreSt.setK_s (i : BitVec 4) (v : Word) : (c.setK i v).s = c.s := rfl
@[simp] theorem CoreSt.setK_p (i : BitVec 4) (v : Word) : (c.setK i v).p = c.p := rfl
@[simp] theorem CoreSt.setK_k (i : BitVec 4) (v : Word) : (c.setK i v).k = c.k.setIfInBounds i.toNat v := rfl
@[simp] theorem CoreSt.setK_ovf (i : BitVec 4) (v : Word) : (c.setK i v).ovf = c.ovf := rfl
@[simp] theorem CoreSt.setK_xcfg (i : BitVec 4) (v : Word) : (c.setK i v).xcfg = c.xcfg := rfl
@[simp] theorem CoreSt.setK_fsr (i : BitVec 4) (v : Word) : (c.setK i v).fsr = c.fsr := rfl
@[simp] theorem CoreSt.setK_vsw (i : BitVec 4) (v : Word) : (c.setK i v).vsw = c.vsw := rfl
@[simp] theorem CoreSt.setK_fns (i : BitVec 4) (v : Word) : (c.setK i v).fns = c.fns := rfl
@[simp] theorem CoreSt.setK_tks (i : BitVec 4) (v : Word) : (c.setK i v).tks = c.tks := rfl
@[simp] theorem CoreSt.setK_t (i : BitVec 4) (v : Word) : (c.setK i v).t = c.t := rfl
@[simp] theorem CoreSt.setK_acc (i : BitVec 4) (v : Word) : (c.setK i v).acc = c.acc := rfl
@[simp] theorem CoreSt.setK_vl (i : BitVec 4) (v : Word) : (c.setK i v).vl = c.vl := rfl
@[simp] theorem CoreSt.setK_rl (i : BitVec 4) (v : Word) : (c.setK i v).rl = c.rl := rfl
@[simp] theorem CoreSt.setK_ls (i : BitVec 4) (v : Word) : (c.setK i v).ls = c.ls := rfl
@[simp] theorem CoreSt.setK_l1 (i : BitVec 4) (v : Word) : (c.setK i v).l1 = c.l1 := rfl
@[simp] theorem CoreSt.setK_victim (i : BitVec 4) (v : Word) : (c.setK i v).victim = c.victim := rfl
@[simp] theorem CoreSt.setK_ic (i : BitVec 4) (v : Word) : (c.setK i v).ic = c.ic := rfl
@[simp] theorem CoreSt.setK_fetched (i : BitVec 4) (v : Word) : (c.setK i v).fetched = c.fetched := rfl
@[simp] theorem CoreSt.setK_sb (i : BitVec 4) (v : Word) : (c.setK i v).sb = c.sb := rfl
@[simp] theorem CoreSt.setK_cb (i : BitVec 4) (v : Word) : (c.setK i v).cb = c.cb := rfl
@[simp] theorem CoreSt.setK_lmv (i : BitVec 4) (v : Word) : (c.setK i v).lmv = c.lmv := rfl
@[simp] theorem CoreSt.setK_rsv (i : BitVec 4) (v : Word) : (c.setK i v).rsv = c.rsv := rfl
@[simp] theorem CoreSt.setK_pend (i : BitVec 4) (v : Word) : (c.setK i v).pend = c.pend := rfl
@[simp] theorem CoreSt.setK_pairLo (i : BitVec 4) (v : Word) : (c.setK i v).pairLo = c.pairLo := rfl
@[simp] theorem CoreSt.setK_xwait (i : BitVec 4) (v : Word) : (c.setK i v).xwait = c.xwait := rfl
@[simp] theorem CoreSt.setK_rst (i : BitVec 4) (v : Word) : (c.setK i v).rst = c.rst := rfl

/-! ### CoreSt.setT -/

@[simp] theorem CoreSt.setT_st (i : BitVec 5) (v : Tile) : (c.setT i v).st = c.st := rfl
@[simp] theorem CoreSt.setT_started (i : BitVec 5) (v : Tile) : (c.setT i v).started = c.started := rfl
@[simp] theorem CoreSt.setT_pc (i : BitVec 5) (v : Tile) : (c.setT i v).pc = c.pc := rfl
@[simp] theorem CoreSt.setT_s (i : BitVec 5) (v : Tile) : (c.setT i v).s = c.s := rfl
@[simp] theorem CoreSt.setT_p (i : BitVec 5) (v : Tile) : (c.setT i v).p = c.p := rfl
@[simp] theorem CoreSt.setT_k (i : BitVec 5) (v : Tile) : (c.setT i v).k = c.k := rfl
@[simp] theorem CoreSt.setT_ovf (i : BitVec 5) (v : Tile) : (c.setT i v).ovf = c.ovf := rfl
@[simp] theorem CoreSt.setT_xcfg (i : BitVec 5) (v : Tile) : (c.setT i v).xcfg = c.xcfg := rfl
@[simp] theorem CoreSt.setT_fsr (i : BitVec 5) (v : Tile) : (c.setT i v).fsr = c.fsr := rfl
@[simp] theorem CoreSt.setT_vsw (i : BitVec 5) (v : Tile) : (c.setT i v).vsw = c.vsw := rfl
@[simp] theorem CoreSt.setT_fns (i : BitVec 5) (v : Tile) : (c.setT i v).fns = c.fns := rfl
@[simp] theorem CoreSt.setT_tks (i : BitVec 5) (v : Tile) : (c.setT i v).tks = c.tks := rfl
@[simp] theorem CoreSt.setT_t (i : BitVec 5) (v : Tile) : (c.setT i v).t = c.t.setIfInBounds i.toNat v := rfl
@[simp] theorem CoreSt.setT_acc (i : BitVec 5) (v : Tile) : (c.setT i v).acc = c.acc := rfl
@[simp] theorem CoreSt.setT_vl (i : BitVec 5) (v : Tile) : (c.setT i v).vl = c.vl := rfl
@[simp] theorem CoreSt.setT_rl (i : BitVec 5) (v : Tile) : (c.setT i v).rl = c.rl := rfl
@[simp] theorem CoreSt.setT_ls (i : BitVec 5) (v : Tile) : (c.setT i v).ls = c.ls := rfl
@[simp] theorem CoreSt.setT_l1 (i : BitVec 5) (v : Tile) : (c.setT i v).l1 = c.l1 := rfl
@[simp] theorem CoreSt.setT_victim (i : BitVec 5) (v : Tile) : (c.setT i v).victim = c.victim := rfl
@[simp] theorem CoreSt.setT_ic (i : BitVec 5) (v : Tile) : (c.setT i v).ic = c.ic := rfl
@[simp] theorem CoreSt.setT_fetched (i : BitVec 5) (v : Tile) : (c.setT i v).fetched = c.fetched := rfl
@[simp] theorem CoreSt.setT_sb (i : BitVec 5) (v : Tile) : (c.setT i v).sb = c.sb := rfl
@[simp] theorem CoreSt.setT_cb (i : BitVec 5) (v : Tile) : (c.setT i v).cb = c.cb := rfl
@[simp] theorem CoreSt.setT_lmv (i : BitVec 5) (v : Tile) : (c.setT i v).lmv = c.lmv := rfl
@[simp] theorem CoreSt.setT_rsv (i : BitVec 5) (v : Tile) : (c.setT i v).rsv = c.rsv := rfl
@[simp] theorem CoreSt.setT_pend (i : BitVec 5) (v : Tile) : (c.setT i v).pend = c.pend := rfl
@[simp] theorem CoreSt.setT_pairLo (i : BitVec 5) (v : Tile) : (c.setT i v).pairLo = c.pairLo := rfl
@[simp] theorem CoreSt.setT_xwait (i : BitVec 5) (v : Tile) : (c.setT i v).xwait = c.xwait := rfl
@[simp] theorem CoreSt.setT_rst (i : BitVec 5) (v : Tile) : (c.setT i v).rst = c.rst := rfl

/-! ### CoreSt.setA -/

@[simp] theorem CoreSt.setA_st (i : Nat) (v : Acc) : (c.setA i v).st = c.st := rfl
@[simp] theorem CoreSt.setA_started (i : Nat) (v : Acc) : (c.setA i v).started = c.started := rfl
@[simp] theorem CoreSt.setA_pc (i : Nat) (v : Acc) : (c.setA i v).pc = c.pc := rfl
@[simp] theorem CoreSt.setA_s (i : Nat) (v : Acc) : (c.setA i v).s = c.s := rfl
@[simp] theorem CoreSt.setA_p (i : Nat) (v : Acc) : (c.setA i v).p = c.p := rfl
@[simp] theorem CoreSt.setA_k (i : Nat) (v : Acc) : (c.setA i v).k = c.k := rfl
@[simp] theorem CoreSt.setA_ovf (i : Nat) (v : Acc) : (c.setA i v).ovf = c.ovf := rfl
@[simp] theorem CoreSt.setA_xcfg (i : Nat) (v : Acc) : (c.setA i v).xcfg = c.xcfg := rfl
@[simp] theorem CoreSt.setA_fsr (i : Nat) (v : Acc) : (c.setA i v).fsr = c.fsr := rfl
@[simp] theorem CoreSt.setA_vsw (i : Nat) (v : Acc) : (c.setA i v).vsw = c.vsw := rfl
@[simp] theorem CoreSt.setA_fns (i : Nat) (v : Acc) : (c.setA i v).fns = c.fns := rfl
@[simp] theorem CoreSt.setA_tks (i : Nat) (v : Acc) : (c.setA i v).tks = c.tks := rfl
@[simp] theorem CoreSt.setA_t (i : Nat) (v : Acc) : (c.setA i v).t = c.t := rfl
@[simp] theorem CoreSt.setA_acc (i : Nat) (v : Acc) : (c.setA i v).acc = c.acc.setIfInBounds i v := rfl
@[simp] theorem CoreSt.setA_vl (i : Nat) (v : Acc) : (c.setA i v).vl = c.vl := rfl
@[simp] theorem CoreSt.setA_rl (i : Nat) (v : Acc) : (c.setA i v).rl = c.rl := rfl
@[simp] theorem CoreSt.setA_ls (i : Nat) (v : Acc) : (c.setA i v).ls = c.ls := rfl
@[simp] theorem CoreSt.setA_l1 (i : Nat) (v : Acc) : (c.setA i v).l1 = c.l1 := rfl
@[simp] theorem CoreSt.setA_victim (i : Nat) (v : Acc) : (c.setA i v).victim = c.victim := rfl
@[simp] theorem CoreSt.setA_ic (i : Nat) (v : Acc) : (c.setA i v).ic = c.ic := rfl
@[simp] theorem CoreSt.setA_fetched (i : Nat) (v : Acc) : (c.setA i v).fetched = c.fetched := rfl
@[simp] theorem CoreSt.setA_sb (i : Nat) (v : Acc) : (c.setA i v).sb = c.sb := rfl
@[simp] theorem CoreSt.setA_cb (i : Nat) (v : Acc) : (c.setA i v).cb = c.cb := rfl
@[simp] theorem CoreSt.setA_lmv (i : Nat) (v : Acc) : (c.setA i v).lmv = c.lmv := rfl
@[simp] theorem CoreSt.setA_rsv (i : Nat) (v : Acc) : (c.setA i v).rsv = c.rsv := rfl
@[simp] theorem CoreSt.setA_pend (i : Nat) (v : Acc) : (c.setA i v).pend = c.pend := rfl
@[simp] theorem CoreSt.setA_pairLo (i : Nat) (v : Acc) : (c.setA i v).pairLo = c.pairLo := rfl
@[simp] theorem CoreSt.setA_xwait (i : Nat) (v : Acc) : (c.setA i v).xwait = c.xwait := rfl
@[simp] theorem CoreSt.setA_rst (i : Nat) (v : Acc) : (c.setA i v).rst = c.rst := rfl

/-! ### CoreSt.adv -/

@[simp] theorem CoreSt.adv_st (n : Nat) : (c.adv n).st = c.st := rfl
@[simp] theorem CoreSt.adv_started (n : Nat) : (c.adv n).started = c.started := rfl
@[simp] theorem CoreSt.adv_pc (n : Nat) : (c.adv n).pc = c.pc + BitVec.ofNat 64 n := rfl
@[simp] theorem CoreSt.adv_s (n : Nat) : (c.adv n).s = c.s := rfl
@[simp] theorem CoreSt.adv_p (n : Nat) : (c.adv n).p = c.p := rfl
@[simp] theorem CoreSt.adv_k (n : Nat) : (c.adv n).k = c.k := rfl
@[simp] theorem CoreSt.adv_ovf (n : Nat) : (c.adv n).ovf = c.ovf := rfl
@[simp] theorem CoreSt.adv_xcfg (n : Nat) : (c.adv n).xcfg = c.xcfg := rfl
@[simp] theorem CoreSt.adv_fsr (n : Nat) : (c.adv n).fsr = c.fsr := rfl
@[simp] theorem CoreSt.adv_vsw (n : Nat) : (c.adv n).vsw = c.vsw := rfl
@[simp] theorem CoreSt.adv_fns (n : Nat) : (c.adv n).fns = c.fns := rfl
@[simp] theorem CoreSt.adv_tks (n : Nat) : (c.adv n).tks = c.tks := rfl
@[simp] theorem CoreSt.adv_t (n : Nat) : (c.adv n).t = c.t := rfl
@[simp] theorem CoreSt.adv_acc (n : Nat) : (c.adv n).acc = c.acc := rfl
@[simp] theorem CoreSt.adv_vl (n : Nat) : (c.adv n).vl = c.vl := rfl
@[simp] theorem CoreSt.adv_rl (n : Nat) : (c.adv n).rl = c.rl := rfl
@[simp] theorem CoreSt.adv_ls (n : Nat) : (c.adv n).ls = c.ls := rfl
@[simp] theorem CoreSt.adv_l1 (n : Nat) : (c.adv n).l1 = c.l1 := rfl
@[simp] theorem CoreSt.adv_victim (n : Nat) : (c.adv n).victim = c.victim := rfl
@[simp] theorem CoreSt.adv_ic (n : Nat) : (c.adv n).ic = c.ic := rfl
@[simp] theorem CoreSt.adv_fetched (n : Nat) : (c.adv n).fetched = c.fetched := rfl
@[simp] theorem CoreSt.adv_sb (n : Nat) : (c.adv n).sb = c.sb := rfl
@[simp] theorem CoreSt.adv_cb (n : Nat) : (c.adv n).cb = c.cb := rfl
@[simp] theorem CoreSt.adv_lmv (n : Nat) : (c.adv n).lmv = c.lmv := rfl
@[simp] theorem CoreSt.adv_rsv (n : Nat) : (c.adv n).rsv = c.rsv := rfl
@[simp] theorem CoreSt.adv_pend (n : Nat) : (c.adv n).pend = c.pend := rfl
@[simp] theorem CoreSt.adv_pairLo (n : Nat) : (c.adv n).pairLo = c.pairLo := rfl
@[simp] theorem CoreSt.adv_xwait (n : Nat) : (c.adv n).xwait = c.xwait := rfl
@[simp] theorem CoreSt.adv_rst (n : Nat) : (c.adv n).rst = c.rst := rfl

/-! ### CoreSt.addFsr -/

@[simp] theorem CoreSt.addFsr_st (f : Flags) : (c.addFsr f).st = c.st := rfl
@[simp] theorem CoreSt.addFsr_started (f : Flags) : (c.addFsr f).started = c.started := rfl
@[simp] theorem CoreSt.addFsr_pc (f : Flags) : (c.addFsr f).pc = c.pc := rfl
@[simp] theorem CoreSt.addFsr_s (f : Flags) : (c.addFsr f).s = c.s := rfl
@[simp] theorem CoreSt.addFsr_p (f : Flags) : (c.addFsr f).p = c.p := rfl
@[simp] theorem CoreSt.addFsr_k (f : Flags) : (c.addFsr f).k = c.k := rfl
@[simp] theorem CoreSt.addFsr_ovf (f : Flags) : (c.addFsr f).ovf = c.ovf := rfl
@[simp] theorem CoreSt.addFsr_xcfg (f : Flags) : (c.addFsr f).xcfg = c.xcfg := rfl
@[simp] theorem CoreSt.addFsr_fsr (f : Flags) : (c.addFsr f).fsr = c.fsr ||| f := rfl
@[simp] theorem CoreSt.addFsr_vsw (f : Flags) : (c.addFsr f).vsw = c.vsw := rfl
@[simp] theorem CoreSt.addFsr_fns (f : Flags) : (c.addFsr f).fns = c.fns := rfl
@[simp] theorem CoreSt.addFsr_tks (f : Flags) : (c.addFsr f).tks = c.tks := rfl
@[simp] theorem CoreSt.addFsr_t (f : Flags) : (c.addFsr f).t = c.t := rfl
@[simp] theorem CoreSt.addFsr_acc (f : Flags) : (c.addFsr f).acc = c.acc := rfl
@[simp] theorem CoreSt.addFsr_vl (f : Flags) : (c.addFsr f).vl = c.vl := rfl
@[simp] theorem CoreSt.addFsr_rl (f : Flags) : (c.addFsr f).rl = c.rl := rfl
@[simp] theorem CoreSt.addFsr_ls (f : Flags) : (c.addFsr f).ls = c.ls := rfl
@[simp] theorem CoreSt.addFsr_l1 (f : Flags) : (c.addFsr f).l1 = c.l1 := rfl
@[simp] theorem CoreSt.addFsr_victim (f : Flags) : (c.addFsr f).victim = c.victim := rfl
@[simp] theorem CoreSt.addFsr_ic (f : Flags) : (c.addFsr f).ic = c.ic := rfl
@[simp] theorem CoreSt.addFsr_fetched (f : Flags) : (c.addFsr f).fetched = c.fetched := rfl
@[simp] theorem CoreSt.addFsr_sb (f : Flags) : (c.addFsr f).sb = c.sb := rfl
@[simp] theorem CoreSt.addFsr_cb (f : Flags) : (c.addFsr f).cb = c.cb := rfl
@[simp] theorem CoreSt.addFsr_lmv (f : Flags) : (c.addFsr f).lmv = c.lmv := rfl
@[simp] theorem CoreSt.addFsr_rsv (f : Flags) : (c.addFsr f).rsv = c.rsv := rfl
@[simp] theorem CoreSt.addFsr_pend (f : Flags) : (c.addFsr f).pend = c.pend := rfl
@[simp] theorem CoreSt.addFsr_pairLo (f : Flags) : (c.addFsr f).pairLo = c.pairLo := rfl
@[simp] theorem CoreSt.addFsr_xwait (f : Flags) : (c.addFsr f).xwait = c.xwait := rfl
@[simp] theorem CoreSt.addFsr_rst (f : Flags) : (c.addFsr f).rst = c.rst := rfl

/-! ### CoreSt.addVsw -/

@[simp] theorem CoreSt.addVsw_st (f : BitVec 8) : (c.addVsw f).st = c.st := rfl
@[simp] theorem CoreSt.addVsw_started (f : BitVec 8) : (c.addVsw f).started = c.started := rfl
@[simp] theorem CoreSt.addVsw_pc (f : BitVec 8) : (c.addVsw f).pc = c.pc := rfl
@[simp] theorem CoreSt.addVsw_s (f : BitVec 8) : (c.addVsw f).s = c.s := rfl
@[simp] theorem CoreSt.addVsw_p (f : BitVec 8) : (c.addVsw f).p = c.p := rfl
@[simp] theorem CoreSt.addVsw_k (f : BitVec 8) : (c.addVsw f).k = c.k := rfl
@[simp] theorem CoreSt.addVsw_ovf (f : BitVec 8) : (c.addVsw f).ovf = c.ovf := rfl
@[simp] theorem CoreSt.addVsw_xcfg (f : BitVec 8) : (c.addVsw f).xcfg = c.xcfg := rfl
@[simp] theorem CoreSt.addVsw_fsr (f : BitVec 8) : (c.addVsw f).fsr = c.fsr := rfl
@[simp] theorem CoreSt.addVsw_vsw (f : BitVec 8) : (c.addVsw f).vsw = c.vsw ||| f := rfl
@[simp] theorem CoreSt.addVsw_fns (f : BitVec 8) : (c.addVsw f).fns = c.fns := rfl
@[simp] theorem CoreSt.addVsw_tks (f : BitVec 8) : (c.addVsw f).tks = c.tks := rfl
@[simp] theorem CoreSt.addVsw_t (f : BitVec 8) : (c.addVsw f).t = c.t := rfl
@[simp] theorem CoreSt.addVsw_acc (f : BitVec 8) : (c.addVsw f).acc = c.acc := rfl
@[simp] theorem CoreSt.addVsw_vl (f : BitVec 8) : (c.addVsw f).vl = c.vl := rfl
@[simp] theorem CoreSt.addVsw_rl (f : BitVec 8) : (c.addVsw f).rl = c.rl := rfl
@[simp] theorem CoreSt.addVsw_ls (f : BitVec 8) : (c.addVsw f).ls = c.ls := rfl
@[simp] theorem CoreSt.addVsw_l1 (f : BitVec 8) : (c.addVsw f).l1 = c.l1 := rfl
@[simp] theorem CoreSt.addVsw_victim (f : BitVec 8) : (c.addVsw f).victim = c.victim := rfl
@[simp] theorem CoreSt.addVsw_ic (f : BitVec 8) : (c.addVsw f).ic = c.ic := rfl
@[simp] theorem CoreSt.addVsw_fetched (f : BitVec 8) : (c.addVsw f).fetched = c.fetched := rfl
@[simp] theorem CoreSt.addVsw_sb (f : BitVec 8) : (c.addVsw f).sb = c.sb := rfl
@[simp] theorem CoreSt.addVsw_cb (f : BitVec 8) : (c.addVsw f).cb = c.cb := rfl
@[simp] theorem CoreSt.addVsw_lmv (f : BitVec 8) : (c.addVsw f).lmv = c.lmv := rfl
@[simp] theorem CoreSt.addVsw_rsv (f : BitVec 8) : (c.addVsw f).rsv = c.rsv := rfl
@[simp] theorem CoreSt.addVsw_pend (f : BitVec 8) : (c.addVsw f).pend = c.pend := rfl
@[simp] theorem CoreSt.addVsw_pairLo (f : BitVec 8) : (c.addVsw f).pairLo = c.pairLo := rfl
@[simp] theorem CoreSt.addVsw_xwait (f : BitVec 8) : (c.addVsw f).xwait = c.xwait := rfl
@[simp] theorem CoreSt.addVsw_rst (f : BitVec 8) : (c.addVsw f).rst = c.rst := rfl

/-! ### Scalar registers and predicates (R72) -/

@[simp] theorem CoreSt.rs_zero : c.rs 0 = 0 := rfl
/-- s0 discards writes. -/
@[simp] theorem CoreSt.setS_zero (v : Word) : c.setS 0 v = c := rfl
theorem CoreSt.rs_setS (r : BitVec 5) (v : Word) (h : r ≠ 0) : (c.setS r v).rs r = v := by
  simp only [CoreSt.setS, CoreSt.rs, if_neg h, Vector.getElem_setIfInBounds, if_true]
theorem CoreSt.rs_setS_of_ne (r q : BitVec 5) (v : Word) (h : q ≠ r) : (c.setS r v).rs q = c.rs q := by
  have hn : r.toNat ≠ q.toNat := fun e => h (BitVec.eq_of_toNat_eq e.symm)
  unfold CoreSt.setS CoreSt.rs
  by_cases hq : q = 0
  · simp only [hq, if_true]
  · by_cases hr : r = 0
    · simp only [hr, if_true]
    · simp only [if_neg hq, if_neg hr, Vector.getElem_setIfInBounds, if_neg hn]
@[simp] theorem CoreSt.rs_adv (n : Nat) (r : BitVec 5) : (c.adv n).rs r = c.rs r := rfl
@[simp] theorem CoreSt.rs_setT (i : BitVec 5) (v : Tile) (r : BitVec 5) : (c.setT i v).rs r = c.rs r := rfl
@[simp] theorem CoreSt.rs_setK (i : BitVec 4) (v : Word) (r : BitVec 5) : (c.setK i v).rs r = c.rs r := rfl
@[simp] theorem CoreSt.rs_addFsr (f : Flags) (r : BitVec 5) : (c.addFsr f).rs r = c.rs r := rfl
@[simp] theorem CoreSt.rp_zero : c.rp 0 = true := rfl
@[simp] theorem CoreSt.setP_zero (v : Bool) : c.setP 0 v = c := rfl
@[simp] theorem CoreSt.rp_adv (n : Nat) (i : BitVec 3) : (c.adv n).rp i = c.rp i := rfl
/-- A predicate reads what was written to it, and p0 reads 1. -/
theorem CoreSt.rp_setP (i q : BitVec 3) (v : Bool) : (c.setP i v).rp q = if q = i ∧ i ≠ 0 then v else c.rp q := by
  unfold CoreSt.setP CoreSt.rp
  have hq : q.toNat < 8 := q.isLt
  by_cases h0 : i = 0
  · simp only [h0, if_true, ne_eq, not_true_eq_false, and_false, if_false]
  · simp only [ne_eq, h0, not_false_eq_true, and_true]
    by_cases hqi : q = i
    · subst hqi
      have hz : (q == 0) = false := by simpa using h0
      cases v <;> simp only [hz, if_true, Bool.false_or] <;> simp [hq]
    · have hn : q.toNat ≠ i.toNat := fun e => hqi (BitVec.eq_of_toNat_eq e)
      have hz : (decide (q.toNat < i.toNat) || !decide (q.toNat - i.toNat = 0)) = true := by
        rcases Nat.lt_or_ge q.toNat i.toNat with h | h
        · simp [h]
        · have : q.toNat - i.toNat ≠ 0 := by omega
          simp [this]
      have hz' : (!decide (q.toNat < i.toNat) && decide (q.toNat - i.toNat = 0)) = false := by
        rw [← Bool.not_inj_iff]; simpa using hz
      cases v
      · simp only [hqi, if_false]; simp [hq, hz]
      · simp only [hqi, if_false]; simp [hq, hz']

/-! ### Tiles, accumulators, token counters -/

theorem CoreSt.rt_setT (i j : BitVec 5) (v : Tile) : (c.setT i v).rt j = if i = j then v else c.rt j := by
  unfold CoreSt.setT CoreSt.rt
  by_cases h : i = j
  · subst h; simp
  · have hn : i.toNat ≠ j.toNat := fun e => h (BitVec.eq_of_toNat_eq e)
    simp [h, hn]
@[simp] theorem CoreSt.rt_adv (n : Nat) (i : BitVec 5) : (c.adv n).rt i = c.rt i := rfl
@[simp] theorem CoreSt.rt_addVsw (f : BitVec 8) (i : BitVec 5) : (c.addVsw f).rt i = c.rt i := rfl
theorem CoreSt.rk_setK (i j : BitVec 4) (v : Word) : (c.setK i v).rk j = if i = j then v else c.rk j := by
  unfold CoreSt.setK CoreSt.rk
  by_cases h : i = j
  · subst h; simp
  · have hn : i.toNat ≠ j.toNat := fun e => h (BitVec.eq_of_toNat_eq e)
    simp [h, hn]
@[simp] theorem CoreSt.rk_adv (n : Nat) (i : BitVec 4) : (c.adv n).rk i = c.rk i := rfl
@[simp] theorem CoreSt.ra_adv (n : Nat) (i : Nat) : (c.adv n).ra i = c.ra i := rfl
end

end Sys2Proof.Machine
end

