-- ==== Sys2Proof/Laws/State.lean ====
section
/-! SUPPORT. For each update of the state, the value of each field after it: the changed field and the fields that it leaves. -/

namespace Sys2Proof.Machine

section
variable (s : State)

/-! ### State.modMem -/

@[simp] theorem State.modMem_pending (f : MemSt → MemSt) : (s.modMem f).pending = s.pending := rfl
@[simp] theorem State.modMem_ts (f : MemSt → MemSt) : (s.modMem f).ts = s.ts := rfl
@[simp] theorem State.modMem_tsFrac (f : MemSt → MemSt) : (s.modMem f).tsFrac = s.tsFrac := rfl
@[simp] theorem State.modMem_tsRate (f : MemSt → MemSt) : (s.modMem f).tsRate = s.tsRate := rfl
@[simp] theorem State.modMem_aonUp (f : MemSt → MemSt) : (s.modMem f).aonUp = s.aonUp := rfl
@[simp] theorem State.modMem_free (f : MemSt → MemSt) : (s.modMem f).free = s.free := rfl
@[simp] theorem State.modMem_fuse (f : MemSt → MemSt) : (s.modMem f).fuse = s.fuse := rfl
@[simp] theorem State.modMem_regs (f : MemSt → MemSt) : (s.modMem f).regs = s.regs := rfl
@[simp] theorem State.modMem_mem (f : MemSt → MemSt) : (s.modMem f).mem = f s.mem := rfl
@[simp] theorem State.modMem_net (f : MemSt → MemSt) : (s.modMem f).net = s.net := rfl
@[simp] theorem State.modMem_retried (f : MemSt → MemSt) : (s.modMem f).retried = s.retried := rfl
@[simp] theorem State.modMem_snooped (f : MemSt → MemSt) : (s.modMem f).snooped = s.snooped := rfl
@[simp] theorem State.modMem_clus (f : MemSt → MemSt) : (s.modMem f).clus = s.clus := rfl
@[simp] theorem State.modMem_cores (f : MemSt → MemSt) : (s.modMem f).cores = s.cores := rfl
@[simp] theorem State.modMem_nextTag (f : MemSt → MemSt) : (s.modMem f).nextTag = s.nextTag := rfl
@[simp] theorem State.modMem_xlt (f : MemSt → MemSt) : (s.modMem f).xlt = s.xlt := rfl
@[simp] theorem State.modMem_dsp (f : MemSt → MemSt) : (s.modMem f).dsp = s.dsp := rfl
@[simp] theorem State.modMem_fab (f : MemSt → MemSt) : (s.modMem f).fab = s.fab := rfl
@[simp] theorem State.modMem_prz (f : MemSt → MemSt) : (s.modMem f).prz = s.prz := rfl
@[simp] theorem State.modMem_hpt (f : MemSt → MemSt) : (s.modMem f).hpt = s.hpt := rfl
@[simp] theorem State.modMem_svp (f : MemSt → MemSt) : (s.modMem f).svp = s.svp := rfl
@[simp] theorem State.modMem_pwr (f : MemSt → MemSt) : (s.modMem f).pwr = s.pwr := rfl
@[simp] theorem State.modMem_fcl (f : MemSt → MemSt) : (s.modMem f).fcl = s.fcl := rfl
@[simp] theorem State.modMem_d2d (f : MemSt → MemSt) : (s.modMem f).d2d = s.d2d := rfl
@[simp] theorem State.modMem_cal (f : MemSt → MemSt) : (s.modMem f).cal = s.cal := rfl
@[simp] theorem State.modMem_boot (f : MemSt → MemSt) : (s.modMem f).boot = s.boot := rfl
@[simp] theorem State.modMem_core (f : MemSt → MemSt) (k : CoreId) : (s.modMem f).core k = s.core k := rfl
@[simp] theorem State.modMem_cluster (f : MemSt → MemSt) (k : BitVec 6) : (s.modMem f).cluster k = s.cluster k := rfl
@[simp] theorem State.modMem_reg (f : MemSt → MemSt) (off : Nat) : (s.modMem f).reg off = s.reg off := rfl
@[simp] theorem State.modMem_cnt (f : MemSt → MemSt) (off : Nat) : (s.modMem f).cnt off = s.cnt off := rfl
@[simp] theorem State.modMem_link (f : MemSt → MemSt) (k : Nat) : (s.modMem f).link k = s.link k := rfl

/-! ### State.modRegs -/

@[simp] theorem State.modRegs_pending (f : RegSt → RegSt) : (s.modRegs f).pending = s.pending := rfl
@[simp] theorem State.modRegs_ts (f : RegSt → RegSt) : (s.modRegs f).ts = s.ts := rfl
@[simp] theorem State.modRegs_tsFrac (f : RegSt → RegSt) : (s.modRegs f).tsFrac = s.tsFrac := rfl
@[simp] theorem State.modRegs_tsRate (f : RegSt → RegSt) : (s.modRegs f).tsRate = s.tsRate := rfl
@[simp] theorem State.modRegs_aonUp (f : RegSt → RegSt) : (s.modRegs f).aonUp = s.aonUp := rfl
@[simp] theorem State.modRegs_free (f : RegSt → RegSt) : (s.modRegs f).free = s.free := rfl
@[simp] theorem State.modRegs_fuse (f : RegSt → RegSt) : (s.modRegs f).fuse = s.fuse := rfl
@[simp] theorem State.modRegs_regs (f : RegSt → RegSt) : (s.modRegs f).regs = f s.regs := rfl
@[simp] theorem State.modRegs_mem (f : RegSt → RegSt) : (s.modRegs f).mem = s.mem := rfl
@[simp] theorem State.modRegs_net (f : RegSt → RegSt) : (s.modRegs f).net = s.net := rfl
@[simp] theorem State.modRegs_retried (f : RegSt → RegSt) : (s.modRegs f).retried = s.retried := rfl
@[simp] theorem State.modRegs_snooped (f : RegSt → RegSt) : (s.modRegs f).snooped = s.snooped := rfl
@[simp] theorem State.modRegs_clus (f : RegSt → RegSt) : (s.modRegs f).clus = s.clus := rfl
@[simp] theorem State.modRegs_cores (f : RegSt → RegSt) : (s.modRegs f).cores = s.cores := rfl
@[simp] theorem State.modRegs_nextTag (f : RegSt → RegSt) : (s.modRegs f).nextTag = s.nextTag := rfl
@[simp] theorem State.modRegs_xlt (f : RegSt → RegSt) : (s.modRegs f).xlt = s.xlt := rfl
@[simp] theorem State.modRegs_dsp (f : RegSt → RegSt) : (s.modRegs f).dsp = s.dsp := rfl
@[simp] theorem State.modRegs_fab (f : RegSt → RegSt) : (s.modRegs f).fab = s.fab := rfl
@[simp] theorem State.modRegs_prz (f : RegSt → RegSt) : (s.modRegs f).prz = s.prz := rfl
@[simp] theorem State.modRegs_hpt (f : RegSt → RegSt) : (s.modRegs f).hpt = s.hpt := rfl
@[simp] theorem State.modRegs_svp (f : RegSt → RegSt) : (s.modRegs f).svp = s.svp := rfl
@[simp] theorem State.modRegs_pwr (f : RegSt → RegSt) : (s.modRegs f).pwr = s.pwr := rfl
@[simp] theorem State.modRegs_fcl (f : RegSt → RegSt) : (s.modRegs f).fcl = s.fcl := rfl
@[simp] theorem State.modRegs_d2d (f : RegSt → RegSt) : (s.modRegs f).d2d = s.d2d := rfl
@[simp] theorem State.modRegs_cal (f : RegSt → RegSt) : (s.modRegs f).cal = s.cal := rfl
@[simp] theorem State.modRegs_boot (f : RegSt → RegSt) : (s.modRegs f).boot = s.boot := rfl
@[simp] theorem State.modRegs_core (f : RegSt → RegSt) (k : CoreId) : (s.modRegs f).core k = s.core k := rfl
@[simp] theorem State.modRegs_cluster (f : RegSt → RegSt) (k : BitVec 6) : (s.modRegs f).cluster k = s.cluster k := rfl
@[simp] theorem State.modRegs_link (f : RegSt → RegSt) (k : Nat) : (s.modRegs f).link k = s.link k := rfl
@[simp] theorem State.modRegs_home (f : RegSt → RegSt) (h : BitVec 8) : (s.modRegs f).home h = s.home h := rfl

/-! ### State.modXlt -/

@[simp] theorem State.modXlt_pending (f : XltSt → XltSt) : (s.modXlt f).pending = s.pending := rfl
@[simp] theorem State.modXlt_ts (f : XltSt → XltSt) : (s.modXlt f).ts = s.ts := rfl
@[simp] theorem State.modXlt_tsFrac (f : XltSt → XltSt) : (s.modXlt f).tsFrac = s.tsFrac := rfl
@[simp] theorem State.modXlt_tsRate (f : XltSt → XltSt) : (s.modXlt f).tsRate = s.tsRate := rfl
@[simp] theorem State.modXlt_aonUp (f : XltSt → XltSt) : (s.modXlt f).aonUp = s.aonUp := rfl
@[simp] theorem State.modXlt_free (f : XltSt → XltSt) : (s.modXlt f).free = s.free := rfl
@[simp] theorem State.modXlt_fuse (f : XltSt → XltSt) : (s.modXlt f).fuse = s.fuse := rfl
@[simp] theorem State.modXlt_regs (f : XltSt → XltSt) : (s.modXlt f).regs = s.regs := rfl
@[simp] theorem State.modXlt_mem (f : XltSt → XltSt) : (s.modXlt f).mem = s.mem := rfl
@[simp] theorem State.modXlt_net (f : XltSt → XltSt) : (s.modXlt f).net = s.net := rfl
@[simp] theorem State.modXlt_retried (f : XltSt → XltSt) : (s.modXlt f).retried = s.retried := rfl
@[simp] theorem State.modXlt_snooped (f : XltSt → XltSt) : (s.modXlt f).snooped = s.snooped := rfl
@[simp] theorem State.modXlt_clus (f : XltSt → XltSt) : (s.modXlt f).clus = s.clus := rfl
@[simp] theorem State.modXlt_cores (f : XltSt → XltSt) : (s.modXlt f).cores = s.cores := rfl
@[simp] theorem State.modXlt_nextTag (f : XltSt → XltSt) : (s.modXlt f).nextTag = s.nextTag := rfl
@[simp] theorem State.modXlt_xlt (f : XltSt → XltSt) : (s.modXlt f).xlt = f s.xlt := rfl
@[simp] theorem State.modXlt_dsp (f : XltSt → XltSt) : (s.modXlt f).dsp = s.dsp := rfl
@[simp] theorem State.modXlt_fab (f : XltSt → XltSt) : (s.modXlt f).fab = s.fab := rfl
@[simp] theorem State.modXlt_prz (f : XltSt → XltSt) : (s.modXlt f).prz = s.prz := rfl
@[simp] theorem State.modXlt_hpt (f : XltSt → XltSt) : (s.modXlt f).hpt = s.hpt := rfl
@[simp] theorem State.modXlt_svp (f : XltSt → XltSt) : (s.modXlt f).svp = s.svp := rfl
@[simp] theorem State.modXlt_pwr (f : XltSt → XltSt) : (s.modXlt f).pwr = s.pwr := rfl
@[simp] theorem State.modXlt_fcl (f : XltSt → XltSt) : (s.modXlt f).fcl = s.fcl := rfl
@[simp] theorem State.modXlt_d2d (f : XltSt → XltSt) : (s.modXlt f).d2d = s.d2d := rfl
@[simp] theorem State.modXlt_cal (f : XltSt → XltSt) : (s.modXlt f).cal = s.cal := rfl
@[simp] theorem State.modXlt_boot (f : XltSt → XltSt) : (s.modXlt f).boot = s.boot := rfl
@[simp] theorem State.modXlt_core (f : XltSt → XltSt) (k : CoreId) : (s.modXlt f).core k = s.core k := rfl
@[simp] theorem State.modXlt_cluster (f : XltSt → XltSt) (k : BitVec 6) : (s.modXlt f).cluster k = s.cluster k := rfl
@[simp] theorem State.modXlt_reg (f : XltSt → XltSt) (off : Nat) : (s.modXlt f).reg off = s.reg off := rfl
@[simp] theorem State.modXlt_cnt (f : XltSt → XltSt) (off : Nat) : (s.modXlt f).cnt off = s.cnt off := rfl
@[simp] theorem State.modXlt_link (f : XltSt → XltSt) (k : Nat) : (s.modXlt f).link k = s.link k := rfl
@[simp] theorem State.modXlt_home (f : XltSt → XltSt) (h : BitVec 8) : (s.modXlt f).home h = s.home h := rfl

/-! ### State.modDsp -/

@[simp] theorem State.modDsp_pending (f : DspSt → DspSt) : (s.modDsp f).pending = s.pending := rfl
@[simp] theorem State.modDsp_ts (f : DspSt → DspSt) : (s.modDsp f).ts = s.ts := rfl
@[simp] theorem State.modDsp_tsFrac (f : DspSt → DspSt) : (s.modDsp f).tsFrac = s.tsFrac := rfl
@[simp] theorem State.modDsp_tsRate (f : DspSt → DspSt) : (s.modDsp f).tsRate = s.tsRate := rfl
@[simp] theorem State.modDsp_aonUp (f : DspSt → DspSt) : (s.modDsp f).aonUp = s.aonUp := rfl
@[simp] theorem State.modDsp_free (f : DspSt → DspSt) : (s.modDsp f).free = s.free := rfl
@[simp] theorem State.modDsp_fuse (f : DspSt → DspSt) : (s.modDsp f).fuse = s.fuse := rfl
@[simp] theorem State.modDsp_regs (f : DspSt → DspSt) : (s.modDsp f).regs = s.regs := rfl
@[simp] theorem State.modDsp_mem (f : DspSt → DspSt) : (s.modDsp f).mem = s.mem := rfl
@[simp] theorem State.modDsp_net (f : DspSt → DspSt) : (s.modDsp f).net = s.net := rfl
@[simp] theorem State.modDsp_retried (f : DspSt → DspSt) : (s.modDsp f).retried = s.retried := rfl
@[simp] theorem State.modDsp_snooped (f : DspSt → DspSt) : (s.modDsp f).snooped = s.snooped := rfl
@[simp] theorem State.modDsp_clus (f : DspSt → DspSt) : (s.modDsp f).clus = s.clus := rfl
@[simp] theorem State.modDsp_cores (f : DspSt → DspSt) : (s.modDsp f).cores = s.cores := rfl
@[simp] theorem State.modDsp_nextTag (f : DspSt → DspSt) : (s.modDsp f).nextTag = s.nextTag := rfl
@[simp] theorem State.modDsp_xlt (f : DspSt → DspSt) : (s.modDsp f).xlt = s.xlt := rfl
@[simp] theorem State.modDsp_dsp (f : DspSt → DspSt) : (s.modDsp f).dsp = f s.dsp := rfl
@[simp] theorem State.modDsp_fab (f : DspSt → DspSt) : (s.modDsp f).fab = s.fab := rfl
@[simp] theorem State.modDsp_prz (f : DspSt → DspSt) : (s.modDsp f).prz = s.prz := rfl
@[simp] theorem State.modDsp_hpt (f : DspSt → DspSt) : (s.modDsp f).hpt = s.hpt := rfl
@[simp] theorem State.modDsp_svp (f : DspSt → DspSt) : (s.modDsp f).svp = s.svp := rfl
@[simp] theorem State.modDsp_pwr (f : DspSt → DspSt) : (s.modDsp f).pwr = s.pwr := rfl
@[simp] theorem State.modDsp_fcl (f : DspSt → DspSt) : (s.modDsp f).fcl = s.fcl := rfl
@[simp] theorem State.modDsp_d2d (f : DspSt → DspSt) : (s.modDsp f).d2d = s.d2d := rfl
@[simp] theorem State.modDsp_cal (f : DspSt → DspSt) : (s.modDsp f).cal = s.cal := rfl
@[simp] theorem State.modDsp_boot (f : DspSt → DspSt) : (s.modDsp f).boot = s.boot := rfl
@[simp] theorem State.modDsp_core (f : DspSt → DspSt) (k : CoreId) : (s.modDsp f).core k = s.core k := rfl
@[simp] theorem State.modDsp_cluster (f : DspSt → DspSt) (k : BitVec 6) : (s.modDsp f).cluster k = s.cluster k := rfl
@[simp] theorem State.modDsp_reg (f : DspSt → DspSt) (off : Nat) : (s.modDsp f).reg off = s.reg off := rfl
@[simp] theorem State.modDsp_cnt (f : DspSt → DspSt) (off : Nat) : (s.modDsp f).cnt off = s.cnt off := rfl
@[simp] theorem State.modDsp_link (f : DspSt → DspSt) (k : Nat) : (s.modDsp f).link k = s.link k := rfl
@[simp] theorem State.modDsp_home (f : DspSt → DspSt) (h : BitVec 8) : (s.modDsp f).home h = s.home h := rfl

/-! ### State.modFab -/

@[simp] theorem State.modFab_pending (f : FabSt → FabSt) : (s.modFab f).pending = s.pending := rfl
@[simp] theorem State.modFab_ts (f : FabSt → FabSt) : (s.modFab f).ts = s.ts := rfl
@[simp] theorem State.modFab_tsFrac (f : FabSt → FabSt) : (s.modFab f).tsFrac = s.tsFrac := rfl
@[simp] theorem State.modFab_tsRate (f : FabSt → FabSt) : (s.modFab f).tsRate = s.tsRate := rfl
@[simp] theorem State.modFab_aonUp (f : FabSt → FabSt) : (s.modFab f).aonUp = s.aonUp := rfl
@[simp] theorem State.modFab_free (f : FabSt → FabSt) : (s.modFab f).free = s.free := rfl
@[simp] theorem State.modFab_fuse (f : FabSt → FabSt) : (s.modFab f).fuse = s.fuse := rfl
@[simp] theorem State.modFab_regs (f : FabSt → FabSt) : (s.modFab f).regs = s.regs := rfl
@[simp] theorem State.modFab_mem (f : FabSt → FabSt) : (s.modFab f).mem = s.mem := rfl
@[simp] theorem State.modFab_net (f : FabSt → FabSt) : (s.modFab f).net = s.net := rfl
@[simp] theorem State.modFab_retried (f : FabSt → FabSt) : (s.modFab f).retried = s.retried := rfl
@[simp] theorem State.modFab_snooped (f : FabSt → FabSt) : (s.modFab f).snooped = s.snooped := rfl
@[simp] theorem State.modFab_clus (f : FabSt → FabSt) : (s.modFab f).clus = s.clus := rfl
@[simp] theorem State.modFab_cores (f : FabSt → FabSt) : (s.modFab f).cores = s.cores := rfl
@[simp] theorem State.modFab_nextTag (f : FabSt → FabSt) : (s.modFab f).nextTag = s.nextTag := rfl
@[simp] theorem State.modFab_xlt (f : FabSt → FabSt) : (s.modFab f).xlt = s.xlt := rfl
@[simp] theorem State.modFab_dsp (f : FabSt → FabSt) : (s.modFab f).dsp = s.dsp := rfl
@[simp] theorem State.modFab_fab (f : FabSt → FabSt) : (s.modFab f).fab = f s.fab := rfl
@[simp] theorem State.modFab_prz (f : FabSt → FabSt) : (s.modFab f).prz = s.prz := rfl
@[simp] theorem State.modFab_hpt (f : FabSt → FabSt) : (s.modFab f).hpt = s.hpt := rfl
@[simp] theorem State.modFab_svp (f : FabSt → FabSt) : (s.modFab f).svp = s.svp := rfl
@[simp] theorem State.modFab_pwr (f : FabSt → FabSt) : (s.modFab f).pwr = s.pwr := rfl
@[simp] theorem State.modFab_fcl (f : FabSt → FabSt) : (s.modFab f).fcl = s.fcl := rfl
@[simp] theorem State.modFab_d2d (f : FabSt → FabSt) : (s.modFab f).d2d = s.d2d := rfl
@[simp] theorem State.modFab_cal (f : FabSt → FabSt) : (s.modFab f).cal = s.cal := rfl
@[simp] theorem State.modFab_boot (f : FabSt → FabSt) : (s.modFab f).boot = s.boot := rfl
@[simp] theorem State.modFab_core (f : FabSt → FabSt) (k : CoreId) : (s.modFab f).core k = s.core k := rfl
@[simp] theorem State.modFab_cluster (f : FabSt → FabSt) (k : BitVec 6) : (s.modFab f).cluster k = s.cluster k := rfl
@[simp] theorem State.modFab_reg (f : FabSt → FabSt) (off : Nat) : (s.modFab f).reg off = s.reg off := rfl
@[simp] theorem State.modFab_cnt (f : FabSt → FabSt) (off : Nat) : (s.modFab f).cnt off = s.cnt off := rfl
@[simp] theorem State.modFab_link (f : FabSt → FabSt) (k : Nat) : (s.modFab f).link k = s.link k := rfl
@[simp] theorem State.modFab_home (f : FabSt → FabSt) (h : BitVec 8) : (s.modFab f).home h = s.home h := rfl

/-! ### State.modHpt -/

@[simp] theorem State.modHpt_pending (f : HptSt → HptSt) : (s.modHpt f).pending = s.pending := rfl
@[simp] theorem State.modHpt_ts (f : HptSt → HptSt) : (s.modHpt f).ts = s.ts := rfl
@[simp] theorem State.modHpt_tsFrac (f : HptSt → HptSt) : (s.modHpt f).tsFrac = s.tsFrac := rfl
@[simp] theorem State.modHpt_tsRate (f : HptSt → HptSt) : (s.modHpt f).tsRate = s.tsRate := rfl
@[simp] theorem State.modHpt_aonUp (f : HptSt → HptSt) : (s.modHpt f).aonUp = s.aonUp := rfl
@[simp] theorem State.modHpt_free (f : HptSt → HptSt) : (s.modHpt f).free = s.free := rfl
@[simp] theorem State.modHpt_fuse (f : HptSt → HptSt) : (s.modHpt f).fuse = s.fuse := rfl
@[simp] theorem State.modHpt_regs (f : HptSt → HptSt) : (s.modHpt f).regs = s.regs := rfl
@[simp] theorem State.modHpt_mem (f : HptSt → HptSt) : (s.modHpt f).mem = s.mem := rfl
@[simp] theorem State.modHpt_net (f : HptSt → HptSt) : (s.modHpt f).net = s.net := rfl
@[simp] theorem State.modHpt_retried (f : HptSt → HptSt) : (s.modHpt f).retried = s.retried := rfl
@[simp] theorem State.modHpt_snooped (f : HptSt → HptSt) : (s.modHpt f).snooped = s.snooped := rfl
@[simp] theorem State.modHpt_clus (f : HptSt → HptSt) : (s.modHpt f).clus = s.clus := rfl
@[simp] theorem State.modHpt_cores (f : HptSt → HptSt) : (s.modHpt f).cores = s.cores := rfl
@[simp] theorem State.modHpt_nextTag (f : HptSt → HptSt) : (s.modHpt f).nextTag = s.nextTag := rfl
@[simp] theorem State.modHpt_xlt (f : HptSt → HptSt) : (s.modHpt f).xlt = s.xlt := rfl
@[simp] theorem State.modHpt_dsp (f : HptSt → HptSt) : (s.modHpt f).dsp = s.dsp := rfl
@[simp] theorem State.modHpt_fab (f : HptSt → HptSt) : (s.modHpt f).fab = s.fab := rfl
@[simp] theorem State.modHpt_prz (f : HptSt → HptSt) : (s.modHpt f).prz = s.prz := rfl
@[simp] theorem State.modHpt_hpt (f : HptSt → HptSt) : (s.modHpt f).hpt = f s.hpt := rfl
@[simp] theorem State.modHpt_svp (f : HptSt → HptSt) : (s.modHpt f).svp = s.svp := rfl
@[simp] theorem State.modHpt_pwr (f : HptSt → HptSt) : (s.modHpt f).pwr = s.pwr := rfl
@[simp] theorem State.modHpt_fcl (f : HptSt → HptSt) : (s.modHpt f).fcl = s.fcl := rfl
@[simp] theorem State.modHpt_d2d (f : HptSt → HptSt) : (s.modHpt f).d2d = s.d2d := rfl
@[simp] theorem State.modHpt_cal (f : HptSt → HptSt) : (s.modHpt f).cal = s.cal := rfl
@[simp] theorem State.modHpt_boot (f : HptSt → HptSt) : (s.modHpt f).boot = s.boot := rfl
@[simp] theorem State.modHpt_core (f : HptSt → HptSt) (k : CoreId) : (s.modHpt f).core k = s.core k := rfl
@[simp] theorem State.modHpt_cluster (f : HptSt → HptSt) (k : BitVec 6) : (s.modHpt f).cluster k = s.cluster k := rfl
@[simp] theorem State.modHpt_reg (f : HptSt → HptSt) (off : Nat) : (s.modHpt f).reg off = s.reg off := rfl
@[simp] theorem State.modHpt_cnt (f : HptSt → HptSt) (off : Nat) : (s.modHpt f).cnt off = s.cnt off := rfl
@[simp] theorem State.modHpt_link (f : HptSt → HptSt) (k : Nat) : (s.modHpt f).link k = s.link k := rfl
@[simp] theorem State.modHpt_home (f : HptSt → HptSt) (h : BitVec 8) : (s.modHpt f).home h = s.home h := rfl

/-! ### State.modSvp -/

@[simp] theorem State.modSvp_pending (f : SvpSt → SvpSt) : (s.modSvp f).pending = s.pending := rfl
@[simp] theorem State.modSvp_ts (f : SvpSt → SvpSt) : (s.modSvp f).ts = s.ts := rfl
@[simp] theorem State.modSvp_tsFrac (f : SvpSt → SvpSt) : (s.modSvp f).tsFrac = s.tsFrac := rfl
@[simp] theorem State.modSvp_tsRate (f : SvpSt → SvpSt) : (s.modSvp f).tsRate = s.tsRate := rfl
@[simp] theorem State.modSvp_aonUp (f : SvpSt → SvpSt) : (s.modSvp f).aonUp = s.aonUp := rfl
@[simp] theorem State.modSvp_free (f : SvpSt → SvpSt) : (s.modSvp f).free = s.free := rfl
@[simp] theorem State.modSvp_fuse (f : SvpSt → SvpSt) : (s.modSvp f).fuse = s.fuse := rfl
@[simp] theorem State.modSvp_regs (f : SvpSt → SvpSt) : (s.modSvp f).regs = s.regs := rfl
@[simp] theorem State.modSvp_mem (f : SvpSt → SvpSt) : (s.modSvp f).mem = s.mem := rfl
@[simp] theorem State.modSvp_net (f : SvpSt → SvpSt) : (s.modSvp f).net = s.net := rfl
@[simp] theorem State.modSvp_retried (f : SvpSt → SvpSt) : (s.modSvp f).retried = s.retried := rfl
@[simp] theorem State.modSvp_snooped (f : SvpSt → SvpSt) : (s.modSvp f).snooped = s.snooped := rfl
@[simp] theorem State.modSvp_clus (f : SvpSt → SvpSt) : (s.modSvp f).clus = s.clus := rfl
@[simp] theorem State.modSvp_cores (f : SvpSt → SvpSt) : (s.modSvp f).cores = s.cores := rfl
@[simp] theorem State.modSvp_nextTag (f : SvpSt → SvpSt) : (s.modSvp f).nextTag = s.nextTag := rfl
@[simp] theorem State.modSvp_xlt (f : SvpSt → SvpSt) : (s.modSvp f).xlt = s.xlt := rfl
@[simp] theorem State.modSvp_dsp (f : SvpSt → SvpSt) : (s.modSvp f).dsp = s.dsp := rfl
@[simp] theorem State.modSvp_fab (f : SvpSt → SvpSt) : (s.modSvp f).fab = s.fab := rfl
@[simp] theorem State.modSvp_prz (f : SvpSt → SvpSt) : (s.modSvp f).prz = s.prz := rfl
@[simp] theorem State.modSvp_hpt (f : SvpSt → SvpSt) : (s.modSvp f).hpt = s.hpt := rfl
@[simp] theorem State.modSvp_svp (f : SvpSt → SvpSt) : (s.modSvp f).svp = f s.svp := rfl
@[simp] theorem State.modSvp_pwr (f : SvpSt → SvpSt) : (s.modSvp f).pwr = s.pwr := rfl
@[simp] theorem State.modSvp_fcl (f : SvpSt → SvpSt) : (s.modSvp f).fcl = s.fcl := rfl
@[simp] theorem State.modSvp_d2d (f : SvpSt → SvpSt) : (s.modSvp f).d2d = s.d2d := rfl
@[simp] theorem State.modSvp_cal (f : SvpSt → SvpSt) : (s.modSvp f).cal = s.cal := rfl
@[simp] theorem State.modSvp_boot (f : SvpSt → SvpSt) : (s.modSvp f).boot = s.boot := rfl
@[simp] theorem State.modSvp_core (f : SvpSt → SvpSt) (k : CoreId) : (s.modSvp f).core k = s.core k := rfl
@[simp] theorem State.modSvp_cluster (f : SvpSt → SvpSt) (k : BitVec 6) : (s.modSvp f).cluster k = s.cluster k := rfl
@[simp] theorem State.modSvp_reg (f : SvpSt → SvpSt) (off : Nat) : (s.modSvp f).reg off = s.reg off := rfl
@[simp] theorem State.modSvp_cnt (f : SvpSt → SvpSt) (off : Nat) : (s.modSvp f).cnt off = s.cnt off := rfl
@[simp] theorem State.modSvp_link (f : SvpSt → SvpSt) (k : Nat) : (s.modSvp f).link k = s.link k := rfl
@[simp] theorem State.modSvp_home (f : SvpSt → SvpSt) (h : BitVec 8) : (s.modSvp f).home h = s.home h := rfl

/-! ### State.modPwr -/

@[simp] theorem State.modPwr_pending (f : PwrSt → PwrSt) : (s.modPwr f).pending = s.pending := rfl
@[simp] theorem State.modPwr_ts (f : PwrSt → PwrSt) : (s.modPwr f).ts = s.ts := rfl
@[simp] theorem State.modPwr_tsFrac (f : PwrSt → PwrSt) : (s.modPwr f).tsFrac = s.tsFrac := rfl
@[simp] theorem State.modPwr_tsRate (f : PwrSt → PwrSt) : (s.modPwr f).tsRate = s.tsRate := rfl
@[simp] theorem State.modPwr_aonUp (f : PwrSt → PwrSt) : (s.modPwr f).aonUp = s.aonUp := rfl
@[simp] theorem State.modPwr_free (f : PwrSt → PwrSt) : (s.modPwr f).free = s.free := rfl
@[simp] theorem State.modPwr_fuse (f : PwrSt → PwrSt) : (s.modPwr f).fuse = s.fuse := rfl
@[simp] theorem State.modPwr_regs (f : PwrSt → PwrSt) : (s.modPwr f).regs = s.regs := rfl
@[simp] theorem State.modPwr_mem (f : PwrSt → PwrSt) : (s.modPwr f).mem = s.mem := rfl
@[simp] theorem State.modPwr_net (f : PwrSt → PwrSt) : (s.modPwr f).net = s.net := rfl
@[simp] theorem State.modPwr_retried (f : PwrSt → PwrSt) : (s.modPwr f).retried = s.retried := rfl
@[simp] theorem State.modPwr_snooped (f : PwrSt → PwrSt) : (s.modPwr f).snooped = s.snooped := rfl
@[simp] theorem State.modPwr_clus (f : PwrSt → PwrSt) : (s.modPwr f).clus = s.clus := rfl
@[simp] theorem State.modPwr_cores (f : PwrSt → PwrSt) : (s.modPwr f).cores = s.cores := rfl
@[simp] theorem State.modPwr_nextTag (f : PwrSt → PwrSt) : (s.modPwr f).nextTag = s.nextTag := rfl
@[simp] theorem State.modPwr_xlt (f : PwrSt → PwrSt) : (s.modPwr f).xlt = s.xlt := rfl
@[simp] theorem State.modPwr_dsp (f : PwrSt → PwrSt) : (s.modPwr f).dsp = s.dsp := rfl
@[simp] theorem State.modPwr_fab (f : PwrSt → PwrSt) : (s.modPwr f).fab = s.fab := rfl
@[simp] theorem State.modPwr_prz (f : PwrSt → PwrSt) : (s.modPwr f).prz = s.prz := rfl
@[simp] theorem State.modPwr_hpt (f : PwrSt → PwrSt) : (s.modPwr f).hpt = s.hpt := rfl
@[simp] theorem State.modPwr_svp (f : PwrSt → PwrSt) : (s.modPwr f).svp = s.svp := rfl
@[simp] theorem State.modPwr_pwr (f : PwrSt → PwrSt) : (s.modPwr f).pwr = f s.pwr := rfl
@[simp] theorem State.modPwr_fcl (f : PwrSt → PwrSt) : (s.modPwr f).fcl = s.fcl := rfl
@[simp] theorem State.modPwr_d2d (f : PwrSt → PwrSt) : (s.modPwr f).d2d = s.d2d := rfl
@[simp] theorem State.modPwr_cal (f : PwrSt → PwrSt) : (s.modPwr f).cal = s.cal := rfl
@[simp] theorem State.modPwr_boot (f : PwrSt → PwrSt) : (s.modPwr f).boot = s.boot := rfl
@[simp] theorem State.modPwr_core (f : PwrSt → PwrSt) (k : CoreId) : (s.modPwr f).core k = s.core k := rfl
@[simp] theorem State.modPwr_cluster (f : PwrSt → PwrSt) (k : BitVec 6) : (s.modPwr f).cluster k = s.cluster k := rfl
@[simp] theorem State.modPwr_reg (f : PwrSt → PwrSt) (off : Nat) : (s.modPwr f).reg off = s.reg off := rfl
@[simp] theorem State.modPwr_cnt (f : PwrSt → PwrSt) (off : Nat) : (s.modPwr f).cnt off = s.cnt off := rfl
@[simp] theorem State.modPwr_link (f : PwrSt → PwrSt) (k : Nat) : (s.modPwr f).link k = s.link k := rfl
@[simp] theorem State.modPwr_home (f : PwrSt → PwrSt) (h : BitVec 8) : (s.modPwr f).home h = s.home h := rfl

/-! ### State.modFcl -/

@[simp] theorem State.modFcl_pending (f : FclSt → FclSt) : (s.modFcl f).pending = s.pending := rfl
@[simp] theorem State.modFcl_ts (f : FclSt → FclSt) : (s.modFcl f).ts = s.ts := rfl
@[simp] theorem State.modFcl_tsFrac (f : FclSt → FclSt) : (s.modFcl f).tsFrac = s.tsFrac := rfl
@[simp] theorem State.modFcl_tsRate (f : FclSt → FclSt) : (s.modFcl f).tsRate = s.tsRate := rfl
@[simp] theorem State.modFcl_aonUp (f : FclSt → FclSt) : (s.modFcl f).aonUp = s.aonUp := rfl
@[simp] theorem State.modFcl_free (f : FclSt → FclSt) : (s.modFcl f).free = s.free := rfl
@[simp] theorem State.modFcl_fuse (f : FclSt → FclSt) : (s.modFcl f).fuse = s.fuse := rfl
@[simp] theorem State.modFcl_regs (f : FclSt → FclSt) : (s.modFcl f).regs = s.regs := rfl
@[simp] theorem State.modFcl_mem (f : FclSt → FclSt) : (s.modFcl f).mem = s.mem := rfl
@[simp] theorem State.modFcl_net (f : FclSt → FclSt) : (s.modFcl f).net = s.net := rfl
@[simp] theorem State.modFcl_retried (f : FclSt → FclSt) : (s.modFcl f).retried = s.retried := rfl
@[simp] theorem State.modFcl_snooped (f : FclSt → FclSt) : (s.modFcl f).snooped = s.snooped := rfl
@[simp] theorem State.modFcl_clus (f : FclSt → FclSt) : (s.modFcl f).clus = s.clus := rfl
@[simp] theorem State.modFcl_cores (f : FclSt → FclSt) : (s.modFcl f).cores = s.cores := rfl
@[simp] theorem State.modFcl_nextTag (f : FclSt → FclSt) : (s.modFcl f).nextTag = s.nextTag := rfl
@[simp] theorem State.modFcl_xlt (f : FclSt → FclSt) : (s.modFcl f).xlt = s.xlt := rfl
@[simp] theorem State.modFcl_dsp (f : FclSt → FclSt) : (s.modFcl f).dsp = s.dsp := rfl
@[simp] theorem State.modFcl_fab (f : FclSt → FclSt) : (s.modFcl f).fab = s.fab := rfl
@[simp] theorem State.modFcl_prz (f : FclSt → FclSt) : (s.modFcl f).prz = s.prz := rfl
@[simp] theorem State.modFcl_hpt (f : FclSt → FclSt) : (s.modFcl f).hpt = s.hpt := rfl
@[simp] theorem State.modFcl_svp (f : FclSt → FclSt) : (s.modFcl f).svp = s.svp := rfl
@[simp] theorem State.modFcl_pwr (f : FclSt → FclSt) : (s.modFcl f).pwr = s.pwr := rfl
@[simp] theorem State.modFcl_fcl (f : FclSt → FclSt) : (s.modFcl f).fcl = f s.fcl := rfl
@[simp] theorem State.modFcl_d2d (f : FclSt → FclSt) : (s.modFcl f).d2d = s.d2d := rfl
@[simp] theorem State.modFcl_cal (f : FclSt → FclSt) : (s.modFcl f).cal = s.cal := rfl
@[simp] theorem State.modFcl_boot (f : FclSt → FclSt) : (s.modFcl f).boot = s.boot := rfl
@[simp] theorem State.modFcl_core (f : FclSt → FclSt) (k : CoreId) : (s.modFcl f).core k = s.core k := rfl
@[simp] theorem State.modFcl_cluster (f : FclSt → FclSt) (k : BitVec 6) : (s.modFcl f).cluster k = s.cluster k := rfl
@[simp] theorem State.modFcl_reg (f : FclSt → FclSt) (off : Nat) : (s.modFcl f).reg off = s.reg off := rfl
@[simp] theorem State.modFcl_cnt (f : FclSt → FclSt) (off : Nat) : (s.modFcl f).cnt off = s.cnt off := rfl
@[simp] theorem State.modFcl_link (f : FclSt → FclSt) (k : Nat) : (s.modFcl f).link k = s.link k := rfl
@[simp] theorem State.modFcl_home (f : FclSt → FclSt) (h : BitVec 8) : (s.modFcl f).home h = s.home h := rfl

/-! ### State.modCal -/

@[simp] theorem State.modCal_pending (f : CalSt → CalSt) : (s.modCal f).pending = s.pending := rfl
@[simp] theorem State.modCal_ts (f : CalSt → CalSt) : (s.modCal f).ts = s.ts := rfl
@[simp] theorem State.modCal_tsFrac (f : CalSt → CalSt) : (s.modCal f).tsFrac = s.tsFrac := rfl
@[simp] theorem State.modCal_tsRate (f : CalSt → CalSt) : (s.modCal f).tsRate = s.tsRate := rfl
@[simp] theorem State.modCal_aonUp (f : CalSt → CalSt) : (s.modCal f).aonUp = s.aonUp := rfl
@[simp] theorem State.modCal_free (f : CalSt → CalSt) : (s.modCal f).free = s.free := rfl
@[simp] theorem State.modCal_fuse (f : CalSt → CalSt) : (s.modCal f).fuse = s.fuse := rfl
@[simp] theorem State.modCal_regs (f : CalSt → CalSt) : (s.modCal f).regs = s.regs := rfl
@[simp] theorem State.modCal_mem (f : CalSt → CalSt) : (s.modCal f).mem = s.mem := rfl
@[simp] theorem State.modCal_net (f : CalSt → CalSt) : (s.modCal f).net = s.net := rfl
@[simp] theorem State.modCal_retried (f : CalSt → CalSt) : (s.modCal f).retried = s.retried := rfl
@[simp] theorem State.modCal_snooped (f : CalSt → CalSt) : (s.modCal f).snooped = s.snooped := rfl
@[simp] theorem State.modCal_clus (f : CalSt → CalSt) : (s.modCal f).clus = s.clus := rfl
@[simp] theorem State.modCal_cores (f : CalSt → CalSt) : (s.modCal f).cores = s.cores := rfl
@[simp] theorem State.modCal_nextTag (f : CalSt → CalSt) : (s.modCal f).nextTag = s.nextTag := rfl
@[simp] theorem State.modCal_xlt (f : CalSt → CalSt) : (s.modCal f).xlt = s.xlt := rfl
@[simp] theorem State.modCal_dsp (f : CalSt → CalSt) : (s.modCal f).dsp = s.dsp := rfl
@[simp] theorem State.modCal_fab (f : CalSt → CalSt) : (s.modCal f).fab = s.fab := rfl
@[simp] theorem State.modCal_prz (f : CalSt → CalSt) : (s.modCal f).prz = s.prz := rfl
@[simp] theorem State.modCal_hpt (f : CalSt → CalSt) : (s.modCal f).hpt = s.hpt := rfl
@[simp] theorem State.modCal_svp (f : CalSt → CalSt) : (s.modCal f).svp = s.svp := rfl
@[simp] theorem State.modCal_pwr (f : CalSt → CalSt) : (s.modCal f).pwr = s.pwr := rfl
@[simp] theorem State.modCal_fcl (f : CalSt → CalSt) : (s.modCal f).fcl = s.fcl := rfl
@[simp] theorem State.modCal_d2d (f : CalSt → CalSt) : (s.modCal f).d2d = s.d2d := rfl
@[simp] theorem State.modCal_cal (f : CalSt → CalSt) : (s.modCal f).cal = f s.cal := rfl
@[simp] theorem State.modCal_boot (f : CalSt → CalSt) : (s.modCal f).boot = s.boot := rfl
@[simp] theorem State.modCal_core (f : CalSt → CalSt) (k : CoreId) : (s.modCal f).core k = s.core k := rfl
@[simp] theorem State.modCal_cluster (f : CalSt → CalSt) (k : BitVec 6) : (s.modCal f).cluster k = s.cluster k := rfl
@[simp] theorem State.modCal_reg (f : CalSt → CalSt) (off : Nat) : (s.modCal f).reg off = s.reg off := rfl
@[simp] theorem State.modCal_cnt (f : CalSt → CalSt) (off : Nat) : (s.modCal f).cnt off = s.cnt off := rfl
@[simp] theorem State.modCal_link (f : CalSt → CalSt) (k : Nat) : (s.modCal f).link k = s.link k := rfl
@[simp] theorem State.modCal_home (f : CalSt → CalSt) (h : BitVec 8) : (s.modCal f).home h = s.home h := rfl

/-! ### State.modBoot -/

@[simp] theorem State.modBoot_pending (f : BootSt → BootSt) : (s.modBoot f).pending = s.pending := rfl
@[simp] theorem State.modBoot_ts (f : BootSt → BootSt) : (s.modBoot f).ts = s.ts := rfl
@[simp] theorem State.modBoot_tsFrac (f : BootSt → BootSt) : (s.modBoot f).tsFrac = s.tsFrac := rfl
@[simp] theorem State.modBoot_tsRate (f : BootSt → BootSt) : (s.modBoot f).tsRate = s.tsRate := rfl
@[simp] theorem State.modBoot_aonUp (f : BootSt → BootSt) : (s.modBoot f).aonUp = s.aonUp := rfl
@[simp] theorem State.modBoot_free (f : BootSt → BootSt) : (s.modBoot f).free = s.free := rfl
@[simp] theorem State.modBoot_fuse (f : BootSt → BootSt) : (s.modBoot f).fuse = s.fuse := rfl
@[simp] theorem State.modBoot_regs (f : BootSt → BootSt) : (s.modBoot f).regs = s.regs := rfl
@[simp] theorem State.modBoot_mem (f : BootSt → BootSt) : (s.modBoot f).mem = s.mem := rfl
@[simp] theorem State.modBoot_net (f : BootSt → BootSt) : (s.modBoot f).net = s.net := rfl
@[simp] theorem State.modBoot_retried (f : BootSt → BootSt) : (s.modBoot f).retried = s.retried := rfl
@[simp] theorem State.modBoot_snooped (f : BootSt → BootSt) : (s.modBoot f).snooped = s.snooped := rfl
@[simp] theorem State.modBoot_clus (f : BootSt → BootSt) : (s.modBoot f).clus = s.clus := rfl
@[simp] theorem State.modBoot_cores (f : BootSt → BootSt) : (s.modBoot f).cores = s.cores := rfl
@[simp] theorem State.modBoot_nextTag (f : BootSt → BootSt) : (s.modBoot f).nextTag = s.nextTag := rfl
@[simp] theorem State.modBoot_xlt (f : BootSt → BootSt) : (s.modBoot f).xlt = s.xlt := rfl
@[simp] theorem State.modBoot_dsp (f : BootSt → BootSt) : (s.modBoot f).dsp = s.dsp := rfl
@[simp] theorem State.modBoot_fab (f : BootSt → BootSt) : (s.modBoot f).fab = s.fab := rfl
@[simp] theorem State.modBoot_prz (f : BootSt → BootSt) : (s.modBoot f).prz = s.prz := rfl
@[simp] theorem State.modBoot_hpt (f : BootSt → BootSt) : (s.modBoot f).hpt = s.hpt := rfl
@[simp] theorem State.modBoot_svp (f : BootSt → BootSt) : (s.modBoot f).svp = s.svp := rfl
@[simp] theorem State.modBoot_pwr (f : BootSt → BootSt) : (s.modBoot f).pwr = s.pwr := rfl
@[simp] theorem State.modBoot_fcl (f : BootSt → BootSt) : (s.modBoot f).fcl = s.fcl := rfl
@[simp] theorem State.modBoot_d2d (f : BootSt → BootSt) : (s.modBoot f).d2d = s.d2d := rfl
@[simp] theorem State.modBoot_cal (f : BootSt → BootSt) : (s.modBoot f).cal = s.cal := rfl
@[simp] theorem State.modBoot_boot (f : BootSt → BootSt) : (s.modBoot f).boot = f s.boot := rfl
@[simp] theorem State.modBoot_core (f : BootSt → BootSt) (k : CoreId) : (s.modBoot f).core k = s.core k := rfl
@[simp] theorem State.modBoot_cluster (f : BootSt → BootSt) (k : BitVec 6) : (s.modBoot f).cluster k = s.cluster k := rfl
@[simp] theorem State.modBoot_reg (f : BootSt → BootSt) (off : Nat) : (s.modBoot f).reg off = s.reg off := rfl
@[simp] theorem State.modBoot_cnt (f : BootSt → BootSt) (off : Nat) : (s.modBoot f).cnt off = s.cnt off := rfl
@[simp] theorem State.modBoot_link (f : BootSt → BootSt) (k : Nat) : (s.modBoot f).link k = s.link k := rfl
@[simp] theorem State.modBoot_home (f : BootSt → BootSt) (h : BitVec 8) : (s.modBoot f).home h = s.home h := rfl

/-! ### State.modLink -/

@[simp] theorem State.modLink_pending (n : Nat) (f : LinkSt → LinkSt) : (s.modLink n f).pending = s.pending := rfl
@[simp] theorem State.modLink_ts (n : Nat) (f : LinkSt → LinkSt) : (s.modLink n f).ts = s.ts := rfl
@[simp] theorem State.modLink_tsFrac (n : Nat) (f : LinkSt → LinkSt) : (s.modLink n f).tsFrac = s.tsFrac := rfl
@[simp] theorem State.modLink_tsRate (n : Nat) (f : LinkSt → LinkSt) : (s.modLink n f).tsRate = s.tsRate := rfl
@[simp] theorem State.modLink_aonUp (n : Nat) (f : LinkSt → LinkSt) : (s.modLink n f).aonUp = s.aonUp := rfl
@[simp] theorem State.modLink_free (n : Nat) (f : LinkSt → LinkSt) : (s.modLink n f).free = s.free := rfl
@[simp] theorem State.modLink_fuse (n : Nat) (f : LinkSt → LinkSt) : (s.modLink n f).fuse = s.fuse := rfl
@[simp] theorem State.modLink_regs (n : Nat) (f : LinkSt → LinkSt) : (s.modLink n f).regs = s.regs := rfl
@[simp] theorem State.modLink_mem (n : Nat) (f : LinkSt → LinkSt) : (s.modLink n f).mem = s.mem := rfl
@[simp] theorem State.modLink_net (n : Nat) (f : LinkSt → LinkSt) : (s.modLink n f).net = s.net := rfl
@[simp] theorem State.modLink_retried (n : Nat) (f : LinkSt → LinkSt) : (s.modLink n f).retried = s.retried := rfl
@[simp] theorem State.modLink_snooped (n : Nat) (f : LinkSt → LinkSt) : (s.modLink n f).snooped = s.snooped := rfl
@[simp] theorem State.modLink_clus (n : Nat) (f : LinkSt → LinkSt) : (s.modLink n f).clus = s.clus := rfl
@[simp] theorem State.modLink_cores (n : Nat) (f : LinkSt → LinkSt) : (s.modLink n f).cores = s.cores := rfl
@[simp] theorem State.modLink_nextTag (n : Nat) (f : LinkSt → LinkSt) : (s.modLink n f).nextTag = s.nextTag := rfl
@[simp] theorem State.modLink_xlt (n : Nat) (f : LinkSt → LinkSt) : (s.modLink n f).xlt = s.xlt := rfl
@[simp] theorem State.modLink_dsp (n : Nat) (f : LinkSt → LinkSt) : (s.modLink n f).dsp = s.dsp := rfl
@[simp] theorem State.modLink_fab (n : Nat) (f : LinkSt → LinkSt) : (s.modLink n f).fab = s.fab := rfl
@[simp] theorem State.modLink_prz (n : Nat) (f : LinkSt → LinkSt) : (s.modLink n f).prz = s.prz := rfl
@[simp] theorem State.modLink_hpt (n : Nat) (f : LinkSt → LinkSt) : (s.modLink n f).hpt = s.hpt := rfl
@[simp] theorem State.modLink_svp (n : Nat) (f : LinkSt → LinkSt) : (s.modLink n f).svp = s.svp := rfl
@[simp] theorem State.modLink_pwr (n : Nat) (f : LinkSt → LinkSt) : (s.modLink n f).pwr = s.pwr := rfl
@[simp] theorem State.modLink_fcl (n : Nat) (f : LinkSt → LinkSt) : (s.modLink n f).fcl = s.fcl := rfl
@[simp] theorem State.modLink_d2d (n : Nat) (f : LinkSt → LinkSt) : (s.modLink n f).d2d = mmod s.d2d n f := rfl
@[simp] theorem State.modLink_cal (n : Nat) (f : LinkSt → LinkSt) : (s.modLink n f).cal = s.cal := rfl
@[simp] theorem State.modLink_boot (n : Nat) (f : LinkSt → LinkSt) : (s.modLink n f).boot = s.boot := rfl
@[simp] theorem State.modLink_core (n : Nat) (f : LinkSt → LinkSt) (k : CoreId) : (s.modLink n f).core k = s.core k := rfl
@[simp] theorem State.modLink_cluster (n : Nat) (f : LinkSt → LinkSt) (k : BitVec 6) : (s.modLink n f).cluster k = s.cluster k := rfl
@[simp] theorem State.modLink_reg (n : Nat) (f : LinkSt → LinkSt) (off : Nat) : (s.modLink n f).reg off = s.reg off := rfl
@[simp] theorem State.modLink_cnt (n : Nat) (f : LinkSt → LinkSt) (off : Nat) : (s.modLink n f).cnt off = s.cnt off := rfl
@[simp] theorem State.modLink_home (n : Nat) (f : LinkSt → LinkSt) (h : BitVec 8) : (s.modLink n f).home h = s.home h := rfl

/-! ### State.setCore -/

@[simp] theorem State.setCore_pending (c : CoreId) (x : CoreSt) : (s.setCore c x).pending = s.pending := rfl
@[simp] theorem State.setCore_ts (c : CoreId) (x : CoreSt) : (s.setCore c x).ts = s.ts := rfl
@[simp] theorem State.setCore_tsFrac (c : CoreId) (x : CoreSt) : (s.setCore c x).tsFrac = s.tsFrac := rfl
@[simp] theorem State.setCore_tsRate (c : CoreId) (x : CoreSt) : (s.setCore c x).tsRate = s.tsRate := rfl
@[simp] theorem State.setCore_aonUp (c : CoreId) (x : CoreSt) : (s.setCore c x).aonUp = s.aonUp := rfl
@[simp] theorem State.setCore_free (c : CoreId) (x : CoreSt) : (s.setCore c x).free = s.free := rfl
@[simp] theorem State.setCore_fuse (c : CoreId) (x : CoreSt) : (s.setCore c x).fuse = s.fuse := rfl
@[simp] theorem State.setCore_regs (c : CoreId) (x : CoreSt) : (s.setCore c x).regs = s.regs := rfl
@[simp] theorem State.setCore_mem (c : CoreId) (x : CoreSt) : (s.setCore c x).mem = s.mem := rfl
@[simp] theorem State.setCore_net (c : CoreId) (x : CoreSt) : (s.setCore c x).net = s.net := rfl
@[simp] theorem State.setCore_retried (c : CoreId) (x : CoreSt) : (s.setCore c x).retried = s.retried := rfl
@[simp] theorem State.setCore_snooped (c : CoreId) (x : CoreSt) : (s.setCore c x).snooped = s.snooped := rfl
@[simp] theorem State.setCore_clus (c : CoreId) (x : CoreSt) : (s.setCore c x).clus = s.clus := rfl
@[simp] theorem State.setCore_cores (c : CoreId) (x : CoreSt) : (s.setCore c x).cores = mset s.cores (coreKey c) x := rfl
@[simp] theorem State.setCore_nextTag (c : CoreId) (x : CoreSt) : (s.setCore c x).nextTag = s.nextTag := rfl
@[simp] theorem State.setCore_xlt (c : CoreId) (x : CoreSt) : (s.setCore c x).xlt = s.xlt := rfl
@[simp] theorem State.setCore_dsp (c : CoreId) (x : CoreSt) : (s.setCore c x).dsp = s.dsp := rfl
@[simp] theorem State.setCore_fab (c : CoreId) (x : CoreSt) : (s.setCore c x).fab = s.fab := rfl
@[simp] theorem State.setCore_prz (c : CoreId) (x : CoreSt) : (s.setCore c x).prz = s.prz := rfl
@[simp] theorem State.setCore_hpt (c : CoreId) (x : CoreSt) : (s.setCore c x).hpt = s.hpt := rfl
@[simp] theorem State.setCore_svp (c : CoreId) (x : CoreSt) : (s.setCore c x).svp = s.svp := rfl
@[simp] theorem State.setCore_pwr (c : CoreId) (x : CoreSt) : (s.setCore c x).pwr = s.pwr := rfl
@[simp] theorem State.setCore_fcl (c : CoreId) (x : CoreSt) : (s.setCore c x).fcl = s.fcl := rfl
@[simp] theorem State.setCore_d2d (c : CoreId) (x : CoreSt) : (s.setCore c x).d2d = s.d2d := rfl
@[simp] theorem State.setCore_cal (c : CoreId) (x : CoreSt) : (s.setCore c x).cal = s.cal := rfl
@[simp] theorem State.setCore_boot (c : CoreId) (x : CoreSt) : (s.setCore c x).boot = s.boot := rfl
@[simp] theorem State.setCore_cluster (c : CoreId) (x : CoreSt) (k : BitVec 6) : (s.setCore c x).cluster k = s.cluster k := rfl
@[simp] theorem State.setCore_reg (c : CoreId) (x : CoreSt) (off : Nat) : (s.setCore c x).reg off = s.reg off := rfl
@[simp] theorem State.setCore_cnt (c : CoreId) (x : CoreSt) (off : Nat) : (s.setCore c x).cnt off = s.cnt off := rfl
@[simp] theorem State.setCore_link (c : CoreId) (x : CoreSt) (k : Nat) : (s.setCore c x).link k = s.link k := rfl
@[simp] theorem State.setCore_home (c : CoreId) (x : CoreSt) (h : BitVec 8) : (s.setCore c x).home h = s.home h := rfl

/-! ### State.modCore -/

@[simp] theorem State.modCore_pending (c : CoreId) (f : CoreSt → CoreSt) : (s.modCore c f).pending = s.pending := rfl
@[simp] theorem State.modCore_ts (c : CoreId) (f : CoreSt → CoreSt) : (s.modCore c f).ts = s.ts := rfl
@[simp] theorem State.modCore_tsFrac (c : CoreId) (f : CoreSt → CoreSt) : (s.modCore c f).tsFrac = s.tsFrac := rfl
@[simp] theorem State.modCore_tsRate (c : CoreId) (f : CoreSt → CoreSt) : (s.modCore c f).tsRate = s.tsRate := rfl
@[simp] theorem State.modCore_aonUp (c : CoreId) (f : CoreSt → CoreSt) : (s.modCore c f).aonUp = s.aonUp := rfl
@[simp] theorem State.modCore_free (c : CoreId) (f : CoreSt → CoreSt) : (s.modCore c f).free = s.free := rfl
@[simp] theorem State.modCore_fuse (c : CoreId) (f : CoreSt → CoreSt) : (s.modCore c f).fuse = s.fuse := rfl
@[simp] theorem State.modCore_regs (c : CoreId) (f : CoreSt → CoreSt) : (s.modCore c f).regs = s.regs := rfl
@[simp] theorem State.modCore_mem (c : CoreId) (f : CoreSt → CoreSt) : (s.modCore c f).mem = s.mem := rfl
@[simp] theorem State.modCore_net (c : CoreId) (f : CoreSt → CoreSt) : (s.modCore c f).net = s.net := rfl
@[simp] theorem State.modCore_retried (c : CoreId) (f : CoreSt → CoreSt) : (s.modCore c f).retried = s.retried := rfl
@[simp] theorem State.modCore_snooped (c : CoreId) (f : CoreSt → CoreSt) : (s.modCore c f).snooped = s.snooped := rfl
@[simp] theorem State.modCore_clus (c : CoreId) (f : CoreSt → CoreSt) : (s.modCore c f).clus = s.clus := rfl
@[simp] theorem State.modCore_cores (c : CoreId) (f : CoreSt → CoreSt) : (s.modCore c f).cores = mset s.cores (coreKey c) (f (s.core c)) := rfl
@[simp] theorem State.modCore_nextTag (c : CoreId) (f : CoreSt → CoreSt) : (s.modCore c f).nextTag = s.nextTag := rfl
@[simp] theorem State.modCore_xlt (c : CoreId) (f : CoreSt → CoreSt) : (s.modCore c f).xlt = s.xlt := rfl
@[simp] theorem State.modCore_dsp (c : CoreId) (f : CoreSt → CoreSt) : (s.modCore c f).dsp = s.dsp := rfl
@[simp] theorem State.modCore_fab (c : CoreId) (f : CoreSt → CoreSt) : (s.modCore c f).fab = s.fab := rfl
@[simp] theorem State.modCore_prz (c : CoreId) (f : CoreSt → CoreSt) : (s.modCore c f).prz = s.prz := rfl
@[simp] theorem State.modCore_hpt (c : CoreId) (f : CoreSt → CoreSt) : (s.modCore c f).hpt = s.hpt := rfl
@[simp] theorem State.modCore_svp (c : CoreId) (f : CoreSt → CoreSt) : (s.modCore c f).svp = s.svp := rfl
@[simp] theorem State.modCore_pwr (c : CoreId) (f : CoreSt → CoreSt) : (s.modCore c f).pwr = s.pwr := rfl
@[simp] theorem State.modCore_fcl (c : CoreId) (f : CoreSt → CoreSt) : (s.modCore c f).fcl = s.fcl := rfl
@[simp] theorem State.modCore_d2d (c : CoreId) (f : CoreSt → CoreSt) : (s.modCore c f).d2d = s.d2d := rfl
@[simp] theorem State.modCore_cal (c : CoreId) (f : CoreSt → CoreSt) : (s.modCore c f).cal = s.cal := rfl
@[simp] theorem State.modCore_boot (c : CoreId) (f : CoreSt → CoreSt) : (s.modCore c f).boot = s.boot := rfl
@[simp] theorem State.modCore_cluster (c : CoreId) (f : CoreSt → CoreSt) (k : BitVec 6) : (s.modCore c f).cluster k = s.cluster k := rfl
@[simp] theorem State.modCore_reg (c : CoreId) (f : CoreSt → CoreSt) (off : Nat) : (s.modCore c f).reg off = s.reg off := rfl
@[simp] theorem State.modCore_cnt (c : CoreId) (f : CoreSt → CoreSt) (off : Nat) : (s.modCore c f).cnt off = s.cnt off := rfl
@[simp] theorem State.modCore_link (c : CoreId) (f : CoreSt → CoreSt) (k : Nat) : (s.modCore c f).link k = s.link k := rfl
@[simp] theorem State.modCore_home (c : CoreId) (f : CoreSt → CoreSt) (h : BitVec 8) : (s.modCore c f).home h = s.home h := rfl

/-! ### State.setCluster -/

@[simp] theorem State.setCluster_pending (c : BitVec 6) (x : ClusterSt) : (s.setCluster c x).pending = s.pending := rfl
@[simp] theorem State.setCluster_ts (c : BitVec 6) (x : ClusterSt) : (s.setCluster c x).ts = s.ts := rfl
@[simp] theorem State.setCluster_tsFrac (c : BitVec 6) (x : ClusterSt) : (s.setCluster c x).tsFrac = s.tsFrac := rfl
@[simp] theorem State.setCluster_tsRate (c : BitVec 6) (x : ClusterSt) : (s.setCluster c x).tsRate = s.tsRate := rfl
@[simp] theorem State.setCluster_aonUp (c : BitVec 6) (x : ClusterSt) : (s.setCluster c x).aonUp = s.aonUp := rfl
@[simp] theorem State.setCluster_free (c : BitVec 6) (x : ClusterSt) : (s.setCluster c x).free = s.free := rfl
@[simp] theorem State.setCluster_fuse (c : BitVec 6) (x : ClusterSt) : (s.setCluster c x).fuse = s.fuse := rfl
@[simp] theorem State.setCluster_regs (c : BitVec 6) (x : ClusterSt) : (s.setCluster c x).regs = s.regs := rfl
@[simp] theorem State.setCluster_mem (c : BitVec 6) (x : ClusterSt) : (s.setCluster c x).mem = s.mem := rfl
@[simp] theorem State.setCluster_net (c : BitVec 6) (x : ClusterSt) : (s.setCluster c x).net = s.net := rfl
@[simp] theorem State.setCluster_retried (c : BitVec 6) (x : ClusterSt) : (s.setCluster c x).retried = s.retried := rfl
@[simp] theorem State.setCluster_snooped (c : BitVec 6) (x : ClusterSt) : (s.setCluster c x).snooped = s.snooped := rfl
@[simp] theorem State.setCluster_clus (c : BitVec 6) (x : ClusterSt) : (s.setCluster c x).clus = mset s.clus c.toNat x := rfl
@[simp] theorem State.setCluster_cores (c : BitVec 6) (x : ClusterSt) : (s.setCluster c x).cores = s.cores := rfl
@[simp] theorem State.setCluster_nextTag (c : BitVec 6) (x : ClusterSt) : (s.setCluster c x).nextTag = s.nextTag := rfl
@[simp] theorem State.setCluster_xlt (c : BitVec 6) (x : ClusterSt) : (s.setCluster c x).xlt = s.xlt := rfl
@[simp] theorem State.setCluster_dsp (c : BitVec 6) (x : ClusterSt) : (s.setCluster c x).dsp = s.dsp := rfl
@[simp] theorem State.setCluster_fab (c : BitVec 6) (x : ClusterSt) : (s.setCluster c x).fab = s.fab := rfl
@[simp] theorem State.setCluster_prz (c : BitVec 6) (x : ClusterSt) : (s.setCluster c x).prz = s.prz := rfl
@[simp] theorem State.setCluster_hpt (c : BitVec 6) (x : ClusterSt) : (s.setCluster c x).hpt = s.hpt := rfl
@[simp] theorem State.setCluster_svp (c : BitVec 6) (x : ClusterSt) : (s.setCluster c x).svp = s.svp := rfl
@[simp] theorem State.setCluster_pwr (c : BitVec 6) (x : ClusterSt) : (s.setCluster c x).pwr = s.pwr := rfl
@[simp] theorem State.setCluster_fcl (c : BitVec 6) (x : ClusterSt) : (s.setCluster c x).fcl = s.fcl := rfl
@[simp] theorem State.setCluster_d2d (c : BitVec 6) (x : ClusterSt) : (s.setCluster c x).d2d = s.d2d := rfl
@[simp] theorem State.setCluster_cal (c : BitVec 6) (x : ClusterSt) : (s.setCluster c x).cal = s.cal := rfl
@[simp] theorem State.setCluster_boot (c : BitVec 6) (x : ClusterSt) : (s.setCluster c x).boot = s.boot := rfl
@[simp] theorem State.setCluster_core (c : BitVec 6) (x : ClusterSt) (k : CoreId) : (s.setCluster c x).core k = s.core k := rfl
@[simp] theorem State.setCluster_reg (c : BitVec 6) (x : ClusterSt) (off : Nat) : (s.setCluster c x).reg off = s.reg off := rfl
@[simp] theorem State.setCluster_cnt (c : BitVec 6) (x : ClusterSt) (off : Nat) : (s.setCluster c x).cnt off = s.cnt off := rfl
@[simp] theorem State.setCluster_link (c : BitVec 6) (x : ClusterSt) (k : Nat) : (s.setCluster c x).link k = s.link k := rfl
@[simp] theorem State.setCluster_home (c : BitVec 6) (x : ClusterSt) (h : BitVec 8) : (s.setCluster c x).home h = s.home h := rfl

/-! ### State.modCluster -/

@[simp] theorem State.modCluster_pending (c : BitVec 6) (f : ClusterSt → ClusterSt) : (s.modCluster c f).pending = s.pending := rfl
@[simp] theorem State.modCluster_ts (c : BitVec 6) (f : ClusterSt → ClusterSt) : (s.modCluster c f).ts = s.ts := rfl
@[simp] theorem State.modCluster_tsFrac (c : BitVec 6) (f : ClusterSt → ClusterSt) : (s.modCluster c f).tsFrac = s.tsFrac := rfl
@[simp] theorem State.modCluster_tsRate (c : BitVec 6) (f : ClusterSt → ClusterSt) : (s.modCluster c f).tsRate = s.tsRate := rfl
@[simp] theorem State.modCluster_aonUp (c : BitVec 6) (f : ClusterSt → ClusterSt) : (s.modCluster c f).aonUp = s.aonUp := rfl
@[simp] theorem State.modCluster_free (c : BitVec 6) (f : ClusterSt → ClusterSt) : (s.modCluster c f).free = s.free := rfl
@[simp] theorem State.modCluster_fuse (c : BitVec 6) (f : ClusterSt → ClusterSt) : (s.modCluster c f).fuse = s.fuse := rfl
@[simp] theorem State.modCluster_regs (c : BitVec 6) (f : ClusterSt → ClusterSt) : (s.modCluster c f).regs = s.regs := rfl
@[simp] theorem State.modCluster_mem (c : BitVec 6) (f : ClusterSt → ClusterSt) : (s.modCluster c f).mem = s.mem := rfl
@[simp] theorem State.modCluster_net (c : BitVec 6) (f : ClusterSt → ClusterSt) : (s.modCluster c f).net = s.net := rfl
@[simp] theorem State.modCluster_retried (c : BitVec 6) (f : ClusterSt → ClusterSt) : (s.modCluster c f).retried = s.retried := rfl
@[simp] theorem State.modCluster_snooped (c : BitVec 6) (f : ClusterSt → ClusterSt) : (s.modCluster c f).snooped = s.snooped := rfl
@[simp] theorem State.modCluster_clus (c : BitVec 6) (f : ClusterSt → ClusterSt) : (s.modCluster c f).clus = mset s.clus c.toNat (f (s.cluster c)) := rfl
@[simp] theorem State.modCluster_cores (c : BitVec 6) (f : ClusterSt → ClusterSt) : (s.modCluster c f).cores = s.cores := rfl
@[simp] theorem State.modCluster_nextTag (c : BitVec 6) (f : ClusterSt → ClusterSt) : (s.modCluster c f).nextTag = s.nextTag := rfl
@[simp] theorem State.modCluster_xlt (c : BitVec 6) (f : ClusterSt → ClusterSt) : (s.modCluster c f).xlt = s.xlt := rfl
@[simp] theorem State.modCluster_dsp (c : BitVec 6) (f : ClusterSt → ClusterSt) : (s.modCluster c f).dsp = s.dsp := rfl
@[simp] theorem State.modCluster_fab (c : BitVec 6) (f : ClusterSt → ClusterSt) : (s.modCluster c f).fab = s.fab := rfl
@[simp] theorem State.modCluster_prz (c : BitVec 6) (f : ClusterSt → ClusterSt) : (s.modCluster c f).prz = s.prz := rfl
@[simp] theorem State.modCluster_hpt (c : BitVec 6) (f : ClusterSt → ClusterSt) : (s.modCluster c f).hpt = s.hpt := rfl
@[simp] theorem State.modCluster_svp (c : BitVec 6) (f : ClusterSt → ClusterSt) : (s.modCluster c f).svp = s.svp := rfl
@[simp] theorem State.modCluster_pwr (c : BitVec 6) (f : ClusterSt → ClusterSt) : (s.modCluster c f).pwr = s.pwr := rfl
@[simp] theorem State.modCluster_fcl (c : BitVec 6) (f : ClusterSt → ClusterSt) : (s.modCluster c f).fcl = s.fcl := rfl
@[simp] theorem State.modCluster_d2d (c : BitVec 6) (f : ClusterSt → ClusterSt) : (s.modCluster c f).d2d = s.d2d := rfl
@[simp] theorem State.modCluster_cal (c : BitVec 6) (f : ClusterSt → ClusterSt) : (s.modCluster c f).cal = s.cal := rfl
@[simp] theorem State.modCluster_boot (c : BitVec 6) (f : ClusterSt → ClusterSt) : (s.modCluster c f).boot = s.boot := rfl
@[simp] theorem State.modCluster_core (c : BitVec 6) (f : ClusterSt → ClusterSt) (k : CoreId) : (s.modCluster c f).core k = s.core k := rfl
@[simp] theorem State.modCluster_reg (c : BitVec 6) (f : ClusterSt → ClusterSt) (off : Nat) : (s.modCluster c f).reg off = s.reg off := rfl
@[simp] theorem State.modCluster_cnt (c : BitVec 6) (f : ClusterSt → ClusterSt) (off : Nat) : (s.modCluster c f).cnt off = s.cnt off := rfl
@[simp] theorem State.modCluster_link (c : BitVec 6) (f : ClusterSt → ClusterSt) (k : Nat) : (s.modCluster c f).link k = s.link k := rfl
@[simp] theorem State.modCluster_home (c : BitVec 6) (f : ClusterSt → ClusterSt) (h : BitVec 8) : (s.modCluster c f).home h = s.home h := rfl

/-! ### State.draw -/

@[simp] theorem State.draw_fst : s.draw.1 = s.free := rfl
@[simp] theorem State.draw_pending : s.draw.2.pending = s.pending := rfl
@[simp] theorem State.draw_ts : s.draw.2.ts = s.ts := rfl
@[simp] theorem State.draw_tsFrac : s.draw.2.tsFrac = s.tsFrac := rfl
@[simp] theorem State.draw_tsRate : s.draw.2.tsRate = s.tsRate := rfl
@[simp] theorem State.draw_aonUp : s.draw.2.aonUp = s.aonUp := rfl
@[simp] theorem State.draw_free : s.draw.2.free = s.free + 1 := rfl
@[simp] theorem State.draw_fuse : s.draw.2.fuse = s.fuse := rfl
@[simp] theorem State.draw_regs : s.draw.2.regs = s.regs := rfl
@[simp] theorem State.draw_mem : s.draw.2.mem = s.mem := rfl
@[simp] theorem State.draw_net : s.draw.2.net = s.net := rfl
@[simp] theorem State.draw_retried : s.draw.2.retried = s.retried := rfl
@[simp] theorem State.draw_snooped : s.draw.2.snooped = s.snooped := rfl
@[simp] theorem State.draw_clus : s.draw.2.clus = s.clus := rfl
@[simp] theorem State.draw_cores : s.draw.2.cores = s.cores := rfl
@[simp] theorem State.draw_nextTag : s.draw.2.nextTag = s.nextTag := rfl
@[simp] theorem State.draw_xlt : s.draw.2.xlt = s.xlt := rfl
@[simp] theorem State.draw_dsp : s.draw.2.dsp = s.dsp := rfl
@[simp] theorem State.draw_fab : s.draw.2.fab = s.fab := rfl
@[simp] theorem State.draw_prz : s.draw.2.prz = s.prz := rfl
@[simp] theorem State.draw_hpt : s.draw.2.hpt = s.hpt := rfl
@[simp] theorem State.draw_svp : s.draw.2.svp = s.svp := rfl
@[simp] theorem State.draw_pwr : s.draw.2.pwr = s.pwr := rfl
@[simp] theorem State.draw_fcl : s.draw.2.fcl = s.fcl := rfl
@[simp] theorem State.draw_d2d : s.draw.2.d2d = s.d2d := rfl
@[simp] theorem State.draw_cal : s.draw.2.cal = s.cal := rfl
@[simp] theorem State.draw_boot : s.draw.2.boot = s.boot := rfl

/-! ### Registers: only the register block changes -/

@[simp] theorem State.setReg_pending (off : Nat) (v : BitVec 32) : (s.setReg off v).pending = s.pending := rfl
@[simp] theorem State.setReg_ts (off : Nat) (v : BitVec 32) : (s.setReg off v).ts = s.ts := rfl
@[simp] theorem State.setReg_tsFrac (off : Nat) (v : BitVec 32) : (s.setReg off v).tsFrac = s.tsFrac := rfl
@[simp] theorem State.setReg_tsRate (off : Nat) (v : BitVec 32) : (s.setReg off v).tsRate = s.tsRate := rfl
@[simp] theorem State.setReg_aonUp (off : Nat) (v : BitVec 32) : (s.setReg off v).aonUp = s.aonUp := rfl
@[simp] theorem State.setReg_free (off : Nat) (v : BitVec 32) : (s.setReg off v).free = s.free := rfl
@[simp] theorem State.setReg_fuse (off : Nat) (v : BitVec 32) : (s.setReg off v).fuse = s.fuse := rfl
@[simp] theorem State.setReg_mem (off : Nat) (v : BitVec 32) : (s.setReg off v).mem = s.mem := rfl
@[simp] theorem State.setReg_net (off : Nat) (v : BitVec 32) : (s.setReg off v).net = s.net := rfl
@[simp] theorem State.setReg_retried (off : Nat) (v : BitVec 32) : (s.setReg off v).retried = s.retried := rfl
@[simp] theorem State.setReg_snooped (off : Nat) (v : BitVec 32) : (s.setReg off v).snooped = s.snooped := rfl
@[simp] theorem State.setReg_clus (off : Nat) (v : BitVec 32) : (s.setReg off v).clus = s.clus := rfl
@[simp] theorem State.setReg_cores (off : Nat) (v : BitVec 32) : (s.setReg off v).cores = s.cores := rfl
@[simp] theorem State.setReg_nextTag (off : Nat) (v : BitVec 32) : (s.setReg off v).nextTag = s.nextTag := rfl
@[simp] theorem State.setReg_xlt (off : Nat) (v : BitVec 32) : (s.setReg off v).xlt = s.xlt := rfl
@[simp] theorem State.setReg_dsp (off : Nat) (v : BitVec 32) : (s.setReg off v).dsp = s.dsp := rfl
@[simp] theorem State.setReg_fab (off : Nat) (v : BitVec 32) : (s.setReg off v).fab = s.fab := rfl
@[simp] theorem State.setReg_prz (off : Nat) (v : BitVec 32) : (s.setReg off v).prz = s.prz := rfl
@[simp] theorem State.setReg_hpt (off : Nat) (v : BitVec 32) : (s.setReg off v).hpt = s.hpt := rfl
@[simp] theorem State.setReg_svp (off : Nat) (v : BitVec 32) : (s.setReg off v).svp = s.svp := rfl
@[simp] theorem State.setReg_pwr (off : Nat) (v : BitVec 32) : (s.setReg off v).pwr = s.pwr := rfl
@[simp] theorem State.setReg_fcl (off : Nat) (v : BitVec 32) : (s.setReg off v).fcl = s.fcl := rfl
@[simp] theorem State.setReg_d2d (off : Nat) (v : BitVec 32) : (s.setReg off v).d2d = s.d2d := rfl
@[simp] theorem State.setReg_cal (off : Nat) (v : BitVec 32) : (s.setReg off v).cal = s.cal := rfl
@[simp] theorem State.setReg_boot (off : Nat) (v : BitVec 32) : (s.setReg off v).boot = s.boot := rfl

@[simp] theorem State.setFlags_pending (off : Nat) (v : BitVec 16) : (s.setFlags off v).pending = s.pending := rfl
@[simp] theorem State.setFlags_ts (off : Nat) (v : BitVec 16) : (s.setFlags off v).ts = s.ts := rfl
@[simp] theorem State.setFlags_tsFrac (off : Nat) (v : BitVec 16) : (s.setFlags off v).tsFrac = s.tsFrac := rfl
@[simp] theorem State.setFlags_tsRate (off : Nat) (v : BitVec 16) : (s.setFlags off v).tsRate = s.tsRate := rfl
@[simp] theorem State.setFlags_aonUp (off : Nat) (v : BitVec 16) : (s.setFlags off v).aonUp = s.aonUp := rfl
@[simp] theorem State.setFlags_free (off : Nat) (v : BitVec 16) : (s.setFlags off v).free = s.free := rfl
@[simp] theorem State.setFlags_fuse (off : Nat) (v : BitVec 16) : (s.setFlags off v).fuse = s.fuse := rfl
@[simp] theorem State.setFlags_mem (off : Nat) (v : BitVec 16) : (s.setFlags off v).mem = s.mem := rfl
@[simp] theorem State.setFlags_net (off : Nat) (v : BitVec 16) : (s.setFlags off v).net = s.net := rfl
@[simp] theorem State.setFlags_retried (off : Nat) (v : BitVec 16) : (s.setFlags off v).retried = s.retried := rfl
@[simp] theorem State.setFlags_snooped (off : Nat) (v : BitVec 16) : (s.setFlags off v).snooped = s.snooped := rfl
@[simp] theorem State.setFlags_clus (off : Nat) (v : BitVec 16) : (s.setFlags off v).clus = s.clus := rfl
@[simp] theorem State.setFlags_cores (off : Nat) (v : BitVec 16) : (s.setFlags off v).cores = s.cores := rfl
@[simp] theorem State.setFlags_nextTag (off : Nat) (v : BitVec 16) : (s.setFlags off v).nextTag = s.nextTag := rfl
@[simp] theorem State.setFlags_xlt (off : Nat) (v : BitVec 16) : (s.setFlags off v).xlt = s.xlt := rfl
@[simp] theorem State.setFlags_dsp (off : Nat) (v : BitVec 16) : (s.setFlags off v).dsp = s.dsp := rfl
@[simp] theorem State.setFlags_fab (off : Nat) (v : BitVec 16) : (s.setFlags off v).fab = s.fab := rfl
@[simp] theorem State.setFlags_prz (off : Nat) (v : BitVec 16) : (s.setFlags off v).prz = s.prz := rfl
@[simp] theorem State.setFlags_hpt (off : Nat) (v : BitVec 16) : (s.setFlags off v).hpt = s.hpt := rfl
@[simp] theorem State.setFlags_svp (off : Nat) (v : BitVec 16) : (s.setFlags off v).svp = s.svp := rfl
@[simp] theorem State.setFlags_pwr (off : Nat) (v : BitVec 16) : (s.setFlags off v).pwr = s.pwr := rfl
@[simp] theorem State.setFlags_fcl (off : Nat) (v : BitVec 16) : (s.setFlags off v).fcl = s.fcl := rfl
@[simp] theorem State.setFlags_d2d (off : Nat) (v : BitVec 16) : (s.setFlags off v).d2d = s.d2d := rfl
@[simp] theorem State.setFlags_cal (off : Nat) (v : BitVec 16) : (s.setFlags off v).cal = s.cal := rfl
@[simp] theorem State.setFlags_boot (off : Nat) (v : BitVec 16) : (s.setFlags off v).boot = s.boot := rfl

@[simp] theorem State.setFlag_pending (off bit : Nat) : (s.setFlag off bit).pending = s.pending := rfl
@[simp] theorem State.setFlag_ts (off bit : Nat) : (s.setFlag off bit).ts = s.ts := rfl
@[simp] theorem State.setFlag_tsFrac (off bit : Nat) : (s.setFlag off bit).tsFrac = s.tsFrac := rfl
@[simp] theorem State.setFlag_tsRate (off bit : Nat) : (s.setFlag off bit).tsRate = s.tsRate := rfl
@[simp] theorem State.setFlag_aonUp (off bit : Nat) : (s.setFlag off bit).aonUp = s.aonUp := rfl
@[simp] theorem State.setFlag_free (off bit : Nat) : (s.setFlag off bit).free = s.free := rfl
@[simp] theorem State.setFlag_fuse (off bit : Nat) : (s.setFlag off bit).fuse = s.fuse := rfl
@[simp] theorem State.setFlag_mem (off bit : Nat) : (s.setFlag off bit).mem = s.mem := rfl
@[simp] theorem State.setFlag_net (off bit : Nat) : (s.setFlag off bit).net = s.net := rfl
@[simp] theorem State.setFlag_retried (off bit : Nat) : (s.setFlag off bit).retried = s.retried := rfl
@[simp] theorem State.setFlag_snooped (off bit : Nat) : (s.setFlag off bit).snooped = s.snooped := rfl
@[simp] theorem State.setFlag_clus (off bit : Nat) : (s.setFlag off bit).clus = s.clus := rfl
@[simp] theorem State.setFlag_cores (off bit : Nat) : (s.setFlag off bit).cores = s.cores := rfl
@[simp] theorem State.setFlag_nextTag (off bit : Nat) : (s.setFlag off bit).nextTag = s.nextTag := rfl
@[simp] theorem State.setFlag_xlt (off bit : Nat) : (s.setFlag off bit).xlt = s.xlt := rfl
@[simp] theorem State.setFlag_dsp (off bit : Nat) : (s.setFlag off bit).dsp = s.dsp := rfl
@[simp] theorem State.setFlag_fab (off bit : Nat) : (s.setFlag off bit).fab = s.fab := rfl
@[simp] theorem State.setFlag_prz (off bit : Nat) : (s.setFlag off bit).prz = s.prz := rfl
@[simp] theorem State.setFlag_hpt (off bit : Nat) : (s.setFlag off bit).hpt = s.hpt := rfl
@[simp] theorem State.setFlag_svp (off bit : Nat) : (s.setFlag off bit).svp = s.svp := rfl
@[simp] theorem State.setFlag_pwr (off bit : Nat) : (s.setFlag off bit).pwr = s.pwr := rfl
@[simp] theorem State.setFlag_fcl (off bit : Nat) : (s.setFlag off bit).fcl = s.fcl := rfl
@[simp] theorem State.setFlag_d2d (off bit : Nat) : (s.setFlag off bit).d2d = s.d2d := rfl
@[simp] theorem State.setFlag_cal (off bit : Nat) : (s.setFlag off bit).cal = s.cal := rfl
@[simp] theorem State.setFlag_boot (off bit : Nat) : (s.setFlag off bit).boot = s.boot := rfl

@[simp] theorem State.bumpRaw_pending (lo n : Nat) : (s.bumpRaw lo n).pending = s.pending := rfl
@[simp] theorem State.bumpRaw_ts (lo n : Nat) : (s.bumpRaw lo n).ts = s.ts := rfl
@[simp] theorem State.bumpRaw_tsFrac (lo n : Nat) : (s.bumpRaw lo n).tsFrac = s.tsFrac := rfl
@[simp] theorem State.bumpRaw_tsRate (lo n : Nat) : (s.bumpRaw lo n).tsRate = s.tsRate := rfl
@[simp] theorem State.bumpRaw_aonUp (lo n : Nat) : (s.bumpRaw lo n).aonUp = s.aonUp := rfl
@[simp] theorem State.bumpRaw_free (lo n : Nat) : (s.bumpRaw lo n).free = s.free := rfl
@[simp] theorem State.bumpRaw_fuse (lo n : Nat) : (s.bumpRaw lo n).fuse = s.fuse := rfl
@[simp] theorem State.bumpRaw_mem (lo n : Nat) : (s.bumpRaw lo n).mem = s.mem := rfl
@[simp] theorem State.bumpRaw_net (lo n : Nat) : (s.bumpRaw lo n).net = s.net := rfl
@[simp] theorem State.bumpRaw_retried (lo n : Nat) : (s.bumpRaw lo n).retried = s.retried := rfl
@[simp] theorem State.bumpRaw_snooped (lo n : Nat) : (s.bumpRaw lo n).snooped = s.snooped := rfl
@[simp] theorem State.bumpRaw_clus (lo n : Nat) : (s.bumpRaw lo n).clus = s.clus := rfl
@[simp] theorem State.bumpRaw_cores (lo n : Nat) : (s.bumpRaw lo n).cores = s.cores := rfl
@[simp] theorem State.bumpRaw_nextTag (lo n : Nat) : (s.bumpRaw lo n).nextTag = s.nextTag := rfl
@[simp] theorem State.bumpRaw_xlt (lo n : Nat) : (s.bumpRaw lo n).xlt = s.xlt := rfl
@[simp] theorem State.bumpRaw_dsp (lo n : Nat) : (s.bumpRaw lo n).dsp = s.dsp := rfl
@[simp] theorem State.bumpRaw_fab (lo n : Nat) : (s.bumpRaw lo n).fab = s.fab := rfl
@[simp] theorem State.bumpRaw_prz (lo n : Nat) : (s.bumpRaw lo n).prz = s.prz := rfl
@[simp] theorem State.bumpRaw_hpt (lo n : Nat) : (s.bumpRaw lo n).hpt = s.hpt := rfl
@[simp] theorem State.bumpRaw_svp (lo n : Nat) : (s.bumpRaw lo n).svp = s.svp := rfl
@[simp] theorem State.bumpRaw_pwr (lo n : Nat) : (s.bumpRaw lo n).pwr = s.pwr := rfl
@[simp] theorem State.bumpRaw_fcl (lo n : Nat) : (s.bumpRaw lo n).fcl = s.fcl := rfl
@[simp] theorem State.bumpRaw_d2d (lo n : Nat) : (s.bumpRaw lo n).d2d = s.d2d := rfl
@[simp] theorem State.bumpRaw_cal (lo n : Nat) : (s.bumpRaw lo n).cal = s.cal := rfl
@[simp] theorem State.bumpRaw_boot (lo n : Nat) : (s.bumpRaw lo n).boot = s.boot := rfl

end

end Sys2Proof.Machine
end

