-- ==== Sys2Proof/Laws/Tables.lean ====
section
/-! SUPPORT. Sparse tables: what reads give after writes, and the same of cores, clusters, homes, links and registers. -/

namespace Sys2Proof.Machine

/-! ### Tables -/

section
variable {β : Type} (m : SMap β) (d : β) (j k : Nat) (a b : β)

/-- A key reads what was last written to it. -/
@[simp] theorem mgetD_mset_self : mgetD d (mset m k a) k = a := by
  induction m with
  | nil => simp [mset, mgetD]
  | cons e t ih =>
    obtain ⟨i, x⟩ := e
    simp only [mset]
    split
    · simp [mgetD]
    · split
      · simp [mgetD]
      · rename_i h; simp [mgetD, h, ih]

/-- A write leaves every other key alone. -/
theorem mgetD_mset_of_ne (h : j ≠ k) : mgetD d (mset m k a) j = mgetD d m j := by
  induction m with
  | nil => simp [mset, mgetD, h.symm]
  | cons e t ih =>
    obtain ⟨i, x⟩ := e
    simp only [mset]
    split
    · simp [mgetD, h.symm]
    · split
      · rename_i hi; subst hi; simp [mgetD, h.symm]
      · simp only [mgetD, ih]

/-- The later of two writes to one key stands. -/
@[simp] theorem mset_mset : mset (mset m k a) k b = mset m k b := by
  induction m with
  | nil => simp [mset]
  | cons e t ih =>
    obtain ⟨i, x⟩ := e
    simp only [mset]
    split
    · simp [mset]
    · split
      · simp [mset]
      · rename_i h1 h2; simp [mset, h1, h2, ih]

/-- An image of a table reads as the image of the entry. -/
theorem mgetD_mmap (f : Nat → β → β) (h : f k d = d) : mgetD d (mmap m f) k = f k (mgetD d m k) := by
  induction m with
  | nil => simp [mmap, mgetD, h]
  | cons e t ih =>
    simp only [mmap, List.map_cons, mgetD] at ih ⊢
    split
    · rename_i hk; simp [hk]
    · exact ih

variable [Inhabited β]
@[simp] theorem mget_mset_self : mget (mset m k a) k = a := mgetD_mset_self ..
theorem mget_mset_of_ne (h : j ≠ k) : mget (mset m k a) j = mget m j := mgetD_mset_of_ne _ _ _ _ _ h
@[simp] theorem mget_mmod_self (f : β → β) : mget (mmod m k f) k = f (mget m k) := mget_mset_self ..
theorem mget_mmod_of_ne (f : β → β) (h : j ≠ k) : mget (mmod m k f) j = mget m j := mget_mset_of_ne _ _ _ _ h
@[simp] theorem mmod_mmod (f g : β → β) : mmod (mmod m k f) k g = mmod m k (g ∘ f) := by simp [mmod, Function.comp]
end

/-! ### Cores and clusters -/

section
variable (s : State)

/-- Two cores have one key only if they are the same. -/
theorem coreKey_inj {c c' : CoreId} : coreKey c = coreKey c' ↔ c = c' := by
  refine ⟨fun h => ?_, fun h => h ▸ rfl⟩
  obtain ⟨l, p⟩ := c
  obtain ⟨l', p'⟩ := c'
  simp only [coreKey] at h
  have hl : l = l' := BitVec.eq_of_toNat_eq (by have := p.isLt; have := p'.isLt; omega)
  have hp : p = p' := BitVec.eq_of_toNat_eq (by have := p.isLt; have := p'.isLt; omega)
  rw [hl, hp]

@[simp] theorem core_setCore (c : CoreId) (x : CoreSt) : (s.setCore c x).core c = x := mget_mset_self ..
@[simp] theorem core_modCore (c : CoreId) (f : CoreSt → CoreSt) : (s.modCore c f).core c = f (s.core c) := core_setCore ..
theorem core_setCore_of_ne {c c' : CoreId} (x : CoreSt) (h : c' ≠ c) : (s.setCore c x).core c' = s.core c' :=
  mget_mset_of_ne _ _ _ _ fun e => h (coreKey_inj.mp e)
theorem core_modCore_of_ne {c c' : CoreId} (f : CoreSt → CoreSt) (h : c' ≠ c) : (s.modCore c f).core c' = s.core c' :=
  core_setCore_of_ne _ _ h
@[simp] theorem setCore_setCore (c : CoreId) (x y : CoreSt) : (s.setCore c x).setCore c y = s.setCore c y := by
  simp [State.setCore]
@[simp] theorem modCore_modCore (c : CoreId) (f g : CoreSt → CoreSt) :
    (s.modCore c f).modCore c g = s.modCore c fun x => g (f x) := by
  simp only [State.modCore, core_setCore, setCore_setCore]
/-- A change of one core is a change of the core table alone. -/
theorem onlyCores_modCore (c : CoreId) (f : CoreSt → CoreSt) : s.modCore c f = { s with cores := (s.modCore c f).cores } := rfl

@[simp] theorem cluster_setCluster (c : BitVec 6) (x : ClusterSt) : (s.setCluster c x).cluster c = x := mget_mset_self ..
@[simp] theorem cluster_modCluster (c : BitVec 6) (f : ClusterSt → ClusterSt) :
    (s.modCluster c f).cluster c = f (s.cluster c) := cluster_setCluster ..
theorem cluster_setCluster_of_ne {c c' : BitVec 6} (x : ClusterSt) (h : c' ≠ c) : (s.setCluster c x).cluster c' = s.cluster c' :=
  mget_mset_of_ne _ _ _ _ fun e => h (BitVec.eq_of_toNat_eq e)
theorem cluster_modCluster_of_ne {c c' : BitVec 6} (f : ClusterSt → ClusterSt) (h : c' ≠ c) :
    (s.modCluster c f).cluster c' = s.cluster c' := cluster_setCluster_of_ne _ _ h
@[simp] theorem setCluster_setCluster (c : BitVec 6) (x y : ClusterSt) :
    (s.setCluster c x).setCluster c y = s.setCluster c y := by simp [State.setCluster]
@[simp] theorem modCluster_modCluster (c : BitVec 6) (f g : ClusterSt → ClusterSt) :
    (s.modCluster c f).modCluster c g = s.modCluster c fun x => g (f x) := by
  simp only [State.modCluster, cluster_setCluster, setCluster_setCluster]

/-! ### Homes and links -/

@[simp] theorem home_modHome (h : BitVec 8) (f : HomeSt → HomeSt) : (s.modHome h f).home h = f (s.home h) := mget_mmod_self ..
theorem home_modHome_of_ne {h h' : BitVec 8} (f : HomeSt → HomeSt) (e : h' ≠ h) : (s.modHome h f).home h' = s.home h' :=
  mget_mmod_of_ne _ _ _ _ fun x => e (BitVec.eq_of_toNat_eq x)
@[simp] theorem link_modLink (n : Nat) (f : LinkSt → LinkSt) : (s.modLink n f).link n = f (s.link n) := mget_mmod_self ..
theorem link_modLink_of_ne {n n' : Nat} (f : LinkSt → LinkSt) (e : n' ≠ n) : (s.modLink n f).link n' = s.link n' :=
  mget_mmod_of_ne _ _ _ _ e

/-! ### Registers -/

@[simp] theorem reg_setReg (off : Nat) (v : BitVec 32) : (s.setReg off v).reg off = v := by
  simp [State.setReg, State.reg, State.modRegs]
theorem reg_setReg_of_ne {off off' : Nat} (v : BitVec 32) (h : off' ≠ off) : (s.setReg off v).reg off' = s.reg off' := by
  simp [State.setReg, State.reg, State.modRegs, mgetD_mset_of_ne _ _ _ _ _ h]
theorem reg_setFlags_of_ne {off off' : Nat} (v : BitVec 16) (h : off' ≠ off) : (s.setFlags off v).reg off' = s.reg off' :=
  reg_setReg_of_ne _ _ h
theorem reg_setFlag_of_ne {off off' : Nat} (b : Nat) (h : off' ≠ off) : (s.setFlag off b).reg off' = s.reg off' :=
  reg_setReg_of_ne _ _ h
@[simp] theorem reg_bumpRaw (lo n off : Nat) : (s.bumpRaw lo n).reg off = s.reg off := rfl
@[simp] theorem cnt_setReg (off : Nat) (v : BitVec 32) (lo : Nat) : (s.setReg off v).cnt lo = s.cnt lo := rfl
@[simp] theorem cnt_setFlags (off : Nat) (v : BitVec 16) (lo : Nat) : (s.setFlags off v).cnt lo = s.cnt lo := rfl
@[simp] theorem cnt_setFlag (off b lo : Nat) : (s.setFlag off b).cnt lo = s.cnt lo := rfl
@[simp] theorem cnt_bumpRaw (lo n : Nat) : (s.bumpRaw lo n).cnt lo = satAdd (s.cnt lo) n := by
  simp [State.cnt, State.bumpRaw, State.modRegs]
theorem cnt_bumpRaw_of_ne {lo lo' : Nat} (n : Nat) (h : lo' ≠ lo) : (s.bumpRaw lo n).cnt lo' = s.cnt lo' := by
  simp [State.cnt, State.bumpRaw, State.modRegs, mget_mmod_of_ne _ _ _ _ h]
/-- An event's flag reads 1 after it. -/
theorem flag_setFlag (off b : Nat) (h : b < 16) : (s.setFlag off b).flag off b = true := by
  simp only [State.flag, State.setFlag, State.setFlags, reg_setReg]
  rw [BitVec.getLsbD_append]
  simp [h]
end

end Sys2Proof.Machine
end

