-- ==== Sys2Proof/Laws/Memory.lean ====
section
/-! SUPPORT. Memory: what a read gives after a write, and that every operation on the byte list keeps its canonical form. -/

namespace Sys2Proof.Machine

/-! ### One byte -/

/-- A list in canonical form whose first address lies above a bound. -/
def Memory.above (a : Nat) : List Host.Cell → Prop
  | [] => True
  | (j, _) :: _ => a < j

theorem Memory.wf_cons (a : Nat) (b : Byte) (t : List Host.Cell) :
    Memory.wf ((a, b) :: t) = true ↔ b ≠ 0 ∧ Memory.above a t ∧ Memory.wf t = true := by
  cases t with
  | nil => simp [Memory.wf, Memory.above]
  | cons e t => obtain ⟨j, c⟩ := e; simp [Memory.wf, Memory.above, and_assoc]

/-- An address below the first cell is not listed. -/
theorem rdByte_of_above {a k : Nat} {m : List Host.Cell} (h : Memory.above a m) (hm : Memory.wf m = true) (hk : k ≤ a) :
    rdByte m k = 0 := by
  induction m generalizing a with
  | nil => rfl
  | cons e t ih =>
    obtain ⟨j, c⟩ := e
    obtain ⟨-, ha, ht⟩ := (Memory.wf_cons j c t).mp hm
    have h : a < j := h
    have hne : j ≠ k := by omega
    simp only [rdByte, mgetD, if_neg hne]
    exact ih ha ht (by omega)

theorem Memory.above_wrByte {m : List Host.Cell} {j a : Nat} (b : Byte) (h : Memory.above j m) (ha : j < a)
    (hm : Memory.wf m = true) : Memory.above j (wrByte m a b) := by
  cases m with
  | nil => simp only [wrByte]; split <;> simp [Memory.above, ha]
  | cons e t =>
    obtain ⟨i, c⟩ := e
    have h : j < i := h
    obtain ⟨-, hi, -⟩ := (Memory.wf_cons i c t).mp hm
    simp only [wrByte]
    split
    · split <;> simp [Memory.above, h, ha]
    · split
      · split
        · cases t with
          | nil => trivial
          | cons e t => obtain ⟨l, d⟩ := e; have hi : i < l := hi; exact Nat.lt_trans h hi
        · exact ha
      · exact h

/-- Writing a byte keeps the canonical form. -/
theorem Memory.wf_wrByte {m : List Host.Cell} (a : Nat) (b : Byte) (h : Memory.wf m = true) : Memory.wf (wrByte m a b) = true := by
  induction m with
  | nil => simp only [wrByte]; split <;> simp_all [Memory.wf]
  | cons e t ih =>
    obtain ⟨j, c⟩ := e
    obtain ⟨hc, ha, ht⟩ := (Memory.wf_cons j c t).mp h
    simp only [wrByte]
    split
    · split
      · exact h
      · rename_i h1 h2; exact (Memory.wf_cons ..).mpr ⟨h2, h1, h⟩
    · split
      · split
        · exact ht
        · rename_i h1 h2 h3; subst h2; exact (Memory.wf_cons ..).mpr ⟨h3, ha, ht⟩
      · rename_i h1 h2
        exact (Memory.wf_cons ..).mpr ⟨hc, Memory.above_wrByte b ha (by omega) ht, ih ht⟩

/-- A byte reads as what was last written to it, and every other byte as before. -/
theorem rdByte_wrByte {m : List Host.Cell} (a k : Nat) (b : Byte) (h : Memory.wf m = true) :
    rdByte (wrByte m a b) k = if k = a then b else rdByte m k := by
  induction m with
  | nil =>
    simp only [wrByte]
    split
    · rename_i hb; simp [rdByte, mgetD, hb]
    · simp [rdByte, mgetD, eq_comm]
  | cons e t ih =>
    obtain ⟨j, c⟩ := e
    obtain ⟨hc, ha, ht⟩ := (Memory.wf_cons j c t).mp h
    simp only [wrByte]
    split
    · rename_i h1
      split
      · rename_i hb
        split
        · rename_i hk; subst hk; rw [hb]; exact rdByte_of_above (a := k) (by exact h1) h (by omega)
        · rfl
      · simp only [rdByte, mgetD]
        by_cases hk : k = a
        · simp [hk]
        · simp [hk, Ne.symm hk]
    · split
      · rename_i h1 h2; subst h2
        split
        · rename_i hb
          split
          · rename_i hk; subst hk; rw [hb]; exact rdByte_of_above ha ht (by omega)
          · rename_i hk; simp [rdByte, mgetD, Ne.symm hk]
        · simp only [rdByte, mgetD]
          by_cases hk : k = a
          · simp [hk]
          · simp [hk, Ne.symm hk]
      · rename_i h1 h2
        have ih := ih ht
        simp only [rdByte, mgetD] at ih ⊢
        rw [ih]
        by_cases hk : k = a
        · have hj : j ≠ k := by omega
          simp [hk, Ne.symm h2]
        · by_cases hj : j = k <;> simp [hk, hj]

/-! ### Runs of bytes and lines -/

/-- Writing a run of bytes keeps the canonical form. -/
theorem Memory.wf_wrBytes {m : List Host.Cell} (a n v : Nat) (h : Memory.wf m = true) : Memory.wf (wrBytes m a n v) = true := by
  induction n generalizing m a v with
  | zero => exact h
  | succ n ih => exact ih (a + 1) (v / 256) (Memory.wf_wrByte a _ h)

/-- A run of bytes reads as it was written, and every byte outside it as before. -/
theorem rdByte_wrBytes {m : List Host.Cell} (a n v k : Nat) (h : Memory.wf m = true) :
    rdByte (wrBytes m a n v) k = if a ≤ k ∧ k < a + n then BitVec.ofNat 8 (v / 256 ^ (k - a)) else rdByte m k := by
  induction n generalizing m a v with
  | zero => rw [if_neg (by omega)]; rfl
  | succ n ih =>
    simp only [wrBytes]
    rw [ih (a + 1) (v / 256) (Memory.wf_wrByte a _ h), rdByte_wrByte a k _ h]
    by_cases hk : k = a
    · subst hk
      rw [if_neg (by omega), if_pos rfl, if_pos (by omega)]
      simp
    · by_cases hr : a + 1 ≤ k ∧ k < a + 1 + n
      · rw [if_pos hr, if_pos (by omega)]
        have e : k - a = (k - (a + 1)) + 1 := by omega
        rw [e, Nat.pow_succ, Nat.mul_comm, Nat.div_div_eq_div_mul]
      · rw [if_neg hr, if_neg hk, if_neg (by omega)]

/-- A number read from a run of bytes, byte by byte. -/
theorem rdBytes_eq {m m' : List Host.Cell} (a n : Nat) (h : ∀ k, a ≤ k → k < a + n → rdByte m k = rdByte m' k) :
    rdBytes m a n = rdBytes m' a n := by
  induction n generalizing a with
  | zero => rfl
  | succ n ih =>
    simp only [rdBytes]
    rw [h a (by omega) (by omega), ih (a + 1) fun k h1 h2 => h k (by omega) (by omega)]

/-- A run of bytes reads back as the number written to it. -/
theorem rdBytes_wrBytes_self {m : List Host.Cell} (a n v : Nat) (h : Memory.wf m = true) :
    rdBytes (wrBytes m a n v) a n = v % 256 ^ n := by
  induction n generalizing m a v with
  | zero => simp [rdBytes, Nat.mod_one]
  | succ n ih =>
    have h0 : rdByte (wrBytes m a (n + 1) v) a = BitVec.ofNat 8 v := by
      rw [rdByte_wrBytes a (n + 1) v a h, if_pos (by omega)]; simp
    simp only [rdBytes, h0]
    have e : wrBytes m a (n + 1) v = wrBytes (wrByte m a (BitVec.ofNat 8 v)) (a + 1) n (v / 256) := rfl
    have h8 : (BitVec.ofNat 8 v).toNat = v % 256 := rfl
    rw [e, ih (a + 1) (v / 256) (Memory.wf_wrByte a _ h), h8, Nat.pow_succ', Nat.mod_mul]

/-- Writing a line keeps the canonical form. -/
theorem Memory.wf_wrLine {m : List Host.Cell} (line : Nat) (d : Line) (h : Memory.wf m = true) : Memory.wf (wrLine m line d) = true :=
  Memory.wf_wrBytes _ _ _ h

/-- A line reads back as it was written. -/
theorem rdLine_wrLine_self {m : List Host.Cell} (line : Nat) (d : Line) (h : Memory.wf m = true) : rdLine (wrLine m line d) line = d := by
  simp only [rdLine, wrLine]
  rw [rdBytes_wrBytes_self _ _ _ h]
  apply BitVec.eq_of_toNat_eq
  have : d.toNat < 2 ^ 512 := d.isLt
  rw [BitVec.toNat_ofNat, show (256 : Nat) ^ 64 = 2 ^ 512 from (Nat.pow_mul 2 8 64).symm, Nat.mod_mod, Nat.mod_eq_of_lt this]

/-- Writing a line leaves every other line as it was. -/
theorem rdLine_wrLine_of_ne {m : List Host.Cell} {line line' : Nat} (d : Line) (h : Memory.wf m = true) (hn : line' ≠ line) :
    rdLine (wrLine m line d) line' = rdLine m line' := by
  simp only [rdLine, wrLine]
  rw [rdBytes_eq (line' * 64) 64 fun k h1 h2 => ?_]
  rw [rdByte_wrBytes _ _ _ _ h, if_neg (by omega)]

/-- A part of a list in canonical form has that form. -/
theorem Memory.wf_filter {m : List Host.Cell} (p : Host.Cell → Bool) (h : Memory.wf m = true) : Memory.wf (m.filter p) = true := by
  have key : Memory.wf (m.filter p) = true ∧ ∀ a, Memory.above a m → Memory.above a (m.filter p) := by
    induction m with
    | nil => exact ⟨rfl, fun _ _ => trivial⟩
    | cons e t ih =>
      obtain ⟨j, c⟩ := e
      obtain ⟨hc, ha, ht⟩ := (Memory.wf_cons j c t).mp h
      obtain ⟨h1, h2⟩ := ih ht
      by_cases hp : p (j, c) = true
      · rw [List.filter_cons_of_pos hp]
        exact ⟨(Memory.wf_cons ..).mpr ⟨hc, h2 j ha, h1⟩, fun a h => h⟩
      · rw [List.filter_cons_of_neg hp]
        refine ⟨h1, fun a hl => h2 a ?_⟩
        cases t with
        | nil => trivial
        | cons e t => exact Nat.lt_trans (show a < j from hl) ha
  exact key.1

/-! ### The stacks behind a home -/

@[simp] theorem cells_setPoison (m : MemSt) (line : Nat) (p : Bool) : (setPoison m line p).cells = m.cells := by
  unfold setPoison; split <;> rfl

/-- A stack write keeps the canonical form. -/
theorem Memory.wf_stackWrite {m : MemSt} (line : Nat) (d : Line) (p : Bool) (h : Memory.wf m.cells = true) :
    Memory.wf (stackWrite m line d p).cells = true := by
  simp only [stackWrite, cells_setPoison]; exact Memory.wf_wrLine _ _ h

/-- The ages of a set change nothing but the base cache. -/
@[simp] theorem cells_ageUp (m : MemSt) (base : Nat) (mask : BitVec 16) (n : Nat) : (ageUp m base mask n).cells = m.cells := by
  induction n generalizing m with
  | zero => rfl
  | succ n ih => simp only [ageUp]; split; · rfl
                 · rw [ih]

/-- The choice of a victim changes nothing but the base cache. -/
theorem cells_bccVictim {m m' : MemSt} {base k : Nat} {mask : BitVec 16} (h : bccVictim m base mask = some (k, m')) :
    m'.cells = m.cells := by
  simp only [bccVictim] at h
  split at h
  · cases h; rfl
  · split at h
    · cases h; simp
    · cases h

/-- What a fill of the base cache can do: memory keeps its form, and nothing but memory changes. -/
theorem bccFill_keeps (s : State) (line : Nat) (d : Line) (p dirty : Bool) (cls : Nat) (stream : Bool)
    (h : Memory.wf s.mem.cells = true) :
    Memory.wf (bccFill s line d p dirty cls stream).mem.cells = true := by
  unfold bccFill
  simp only
  split
  · split
    · exact Memory.wf_stackWrite _ _ _ h
    · exact h
  · rename_i k m' hv
    have hc := cells_bccVictim hv
    simp only
    split
    · split
      · exact Memory.wf_stackWrite _ _ _ (hc ▸ h)
      · exact hc ▸ h
    · exact hc ▸ h

/-- A fill changes memory alone. -/
theorem bccFill_only (s : State) (line : Nat) (d : Line) (p dirty : Bool) (cls : Nat) (stream : Bool) :
    bccFill s line d p dirty cls stream = { s with mem := (bccFill s line d p dirty cls stream).mem } := by
  unfold bccFill
  simp only
  split
  · split <;> rfl
  · rfl

/-- A read of a line by its home keeps the canonical form. -/
theorem memRead_keeps (s : State) (line cls : Nat) (stream : Bool) (h : Memory.wf s.mem.cells = true) :
    Memory.wf (memRead s line cls stream).2.2.mem.cells = true := by
  unfold memRead
  split
  · exact h
  · exact bccFill_keeps _ _ _ _ _ _ _ h

/-- A read of a line by its home changes memory's caches alone. -/
theorem memRead_only (s : State) (line cls : Nat) (stream : Bool) :
    (memRead s line cls stream).2.2 = { s with mem := (memRead s line cls stream).2.2.mem } := by
  unfold memRead
  split
  · rfl
  · exact bccFill_only ..

/-- A read of a line by its home answers what the home holds. -/
theorem memRead_value (s : State) (line cls : Nat) (stream : Bool) :
    ((memRead s line cls stream).1, (memRead s line cls stream).2.1) = memPeek s.mem line := by
  unfold memRead memPeek
  split <;> rfl

/-- A write of a line by its home keeps the canonical form. -/
theorem memWrite_keeps (s : State) (line : Nat) (mask : Mask) (d : Line) (p : Bool) (cls : Nat) (stream : Bool)
    (h : Memory.wf s.mem.cells = true) : Memory.wf (memWrite s line mask d p cls stream).mem.cells = true := by
  unfold memWrite
  split
  · exact h
  · exact bccFill_keeps _ _ _ _ _ _ _ h

/-- A write of a line by its home changes memory alone. -/
theorem memWrite_only (s : State) (line : Nat) (mask : Mask) (d : Line) (p : Bool) (cls : Nat) (stream : Bool) :
    memWrite s line mask d p cls stream = { s with mem := (memWrite s line mask d p cls stream).mem } := by
  unfold memWrite
  split
  · rfl
  · exact bccFill_only ..

/-- A poison mark changes no byte. -/
@[simp] theorem cells_memPoison (s : State) (line : Nat) : (memPoison s line).mem.cells = s.mem.cells := by
  unfold memPoison
  split
  · rfl
  · exact cells_setPoison ..

/-- A poison mark changes memory alone. -/
theorem memPoison_only (s : State) (line : Nat) : memPoison s line = { s with mem := (memPoison s line).mem } := by
  unfold memPoison; split <;> rfl

/-- Memory at reset has the canonical form and lists nothing. -/
theorem Memory.wf_reset : Memory.wf State.reset.mem.cells = true := rfl

end Sys2Proof.Machine
end

