-- ==== Sys2Proof/Laws/Keeps.lean ====
section
/-! SUPPORT. What every operation keeps: the fuses, the queue, and the canonical form of memory; with the laws that carry it through
folds, conditions and the shared operations on registers and events. -/

namespace Sys2Proof.Machine

/-- From s to t no fuse and no waiting command changes, and memory keeps its canonical form. -/
def Keeps (s t : State) : Prop :=
  t.fuse = s.fuse ∧ t.pending = s.pending ∧ (Memory.wf s.mem.cells = true → Memory.wf t.mem.cells = true)

namespace Keep

theorem refl (s : State) : Keeps s s := ⟨rfl, rfl, id⟩
theorem trans {s t u : State} (h : Keeps s t) (k : Keeps t u) : Keeps s u :=
  ⟨k.1.trans h.1, k.2.1.trans h.2.1, k.2.2 ∘ h.2.2⟩
/-- A change of anything but fuses, queue and memory's bytes. -/
theorem of_eq {s t : State} (hf : t.fuse = s.fuse) (hp : t.pending = s.pending) (hm : t.mem.cells = s.mem.cells) : Keeps s t :=
  ⟨hf, hp, fun h => hm ▸ h⟩
theorem ite {s t u : State} (c : Prop) [Decidable c] (ht : Keeps s t) (hu : Keeps s u) : Keeps s (if c then t else u) := by
  split <;> assumption
theorem cond {s t u : State} (c : Bool) (ht : Keeps s t) (hu : Keeps s u) : Keeps s (if c then t else u) := ite _ ht hu
/-- A fold of steps that each keep. -/
theorem foldl {α : Type} {f : State → α → State} (hf : ∀ s a, Keeps s (f s a)) (l : List α) (s : State) : Keeps s (l.foldl f s) := by
  induction l generalizing s with
  | nil => exact refl s
  | cons a l ih => exact trans (hf s a) (ih (f s a))

section
variable (s : State)
theorem modRegs (f : RegSt → RegSt) : Keeps s (s.modRegs f) := of_eq rfl rfl rfl
theorem modXlt (f : XltSt → XltSt) : Keeps s (s.modXlt f) := of_eq rfl rfl rfl
theorem modDsp (f : DspSt → DspSt) : Keeps s (s.modDsp f) := of_eq rfl rfl rfl
theorem modFab (f : FabSt → FabSt) : Keeps s (s.modFab f) := of_eq rfl rfl rfl
theorem modHpt (f : HptSt → HptSt) : Keeps s (s.modHpt f) := of_eq rfl rfl rfl
theorem modSvp (f : SvpSt → SvpSt) : Keeps s (s.modSvp f) := of_eq rfl rfl rfl
theorem modPwr (f : PwrSt → PwrSt) : Keeps s (s.modPwr f) := of_eq rfl rfl rfl
theorem modFcl (f : FclSt → FclSt) : Keeps s (s.modFcl f) := of_eq rfl rfl rfl
theorem modCal (f : CalSt → CalSt) : Keeps s (s.modCal f) := of_eq rfl rfl rfl
theorem modBoot (f : BootSt → BootSt) : Keeps s (s.modBoot f) := of_eq rfl rfl rfl
theorem modLink (n : Nat) (f : LinkSt → LinkSt) : Keeps s (s.modLink n f) := of_eq rfl rfl rfl
theorem modCore (c : CoreId) (f : CoreSt → CoreSt) : Keeps s (s.modCore c f) := of_eq rfl rfl rfl
theorem modCluster (c : BitVec 6) (f : ClusterSt → ClusterSt) : Keeps s (s.modCluster c f) := of_eq rfl rfl rfl
theorem modHome (h : BitVec 8) (f : HomeSt → HomeSt) : Keeps s (s.modHome h f) := of_eq rfl rfl rfl
theorem modMem {f : MemSt → MemSt} (h : (f s.mem).cells = s.mem.cells) : Keeps s (s.modMem f) := of_eq rfl rfl h
theorem setReg (off : Nat) (v : BitVec 32) : Keeps s (s.setReg off v) := modRegs ..
theorem setFlags (off : Nat) (v : BitVec 16) : Keeps s (s.setFlags off v) := modRegs ..
theorem setFlag (off b : Nat) : Keeps s (s.setFlag off b) := modRegs ..
theorem bumpRaw (lo n : Nat) : Keeps s (s.bumpRaw lo n) := modRegs ..
theorem bccFill (line : Nat) (d : Line) (p dirty : Bool) (cls : Nat) (st : Bool) : Keeps s (bccFill s line d p dirty cls st) := by
  refine ⟨?_, ?_, bccFill_keeps s line d p dirty cls st⟩ <;> rw [bccFill_only]
theorem memWrite (line : Nat) (mask : Mask) (d : Line) (p : Bool) (cls : Nat) (st : Bool) :
    Keeps s (memWrite s line mask d p cls st) := by
  refine ⟨?_, ?_, memWrite_keeps s line mask d p cls st⟩ <;> rw [memWrite_only]
theorem memRead (line cls : Nat) (st : Bool) : Keeps s (memRead s line cls st).2.2 := by
  refine ⟨?_, ?_, memRead_keeps s line cls st⟩ <;> rw [memRead_only]
theorem memPoison (line : Nat) : Keeps s (memPoison s line) := by
  refine of_eq ?_ ?_ (cells_memPoison s line) <;> rw [memPoison_only]

/-! ### Events -/

theorem haltLaunch (id : Nat) (st : BitVec 8) : Keeps s (haltLaunch s id st) := modDsp ..
theorem writeCrumb (src : BitVec 16) (kind cls : Nat) (ctx : Ctx) (n : Nat) (a : BitVec 64) (ts : Stamp) :
    Keeps s (writeCrumb s src kind cls ctx n a ts) := by
  unfold Machine.writeCrumb; simp only; split <;> exact of_eq rfl rfl rfl
theorem isolate (cl : BitVec 6) : Keeps s (isolate s cl) := by
  unfold Machine.isolate
  extract_lets s1 s2 s3
  have h1 : Keeps s s1 := by
    show Keeps s (match (s.cluster cl).run with
      | some r => Machine.haltLaunch s r.id stHalted
      | none => s)
    split
    · exact haltLaunch s _ _
    · exact refl s
  exact trans (trans (trans h1 (modDsp ..)) (modCluster ..)) (modMem _ rfl)
theorem setPme : Keeps s (setPme s) := by unfold Machine.setPme; split <;> exact of_eq rfl rfl rfl
theorem countWindow (src : BitVec 16) : Keeps s (countWindow s src).1 := modFcl ..
theorem firstError (r : Report) (cls : Nat) : Keeps s (firstError s r cls) := by
  unfold Machine.firstError; split
  · exact setFlag ..
  · exact of_eq rfl rfl rfl
/-- Collecting a report. -/
theorem collect0 (r : Report) (form : CrumbForm) : Keeps s (collect0 s r form) := by
  unfold Machine.collect0
  extract_lets ty c0 was
  refine ite _ (refl s) ?_
  have hx : Keeps s (if (decide (c0 ≤ 2) && !was) = true then Machine.countWindow s r.src else (s, false)).1 := by
    split
    · exact countWindow s r.src
    · exact refl s
  generalize (if (decide (c0 ≤ 2) && !was) = true then Machine.countWindow s r.src else (s, false)) = x at hx
  obtain ⟨s1, now⟩ := x
  dsimp -zeta only
  extract_lets cls inSafe react s2 s3 s4 s5 cl s6
  have h2 : Keeps s s2 := trans hx (ite _ (firstError ..) (refl _))
  have h3 : Keeps s s3 := trans h2 (ite _ (writeCrumb ..) (refl _))
  have h4 : Keeps s s4 := trans h3 (ite _ (bumpRaw ..) (refl _))
  have h5 : Keeps s s5 := trans h4 (ite _ (setFlag ..) (refl _))
  have h6 : Keeps s cl := trans h5 (ite _ (setPme _) (refl _))
  refine trans ?_ (ite _ (modFcl ..) (refl _))
  exact trans h6 (ite _ (trans (isolate _ _) (writeCrumb ..)) (refl _))
theorem bump (lo n : Nat) : Keeps s (s.bump lo n) := by
  unfold State.bump; exact trans (bumpRaw s lo n) (ite _ (collect0 ..) (refl _))
theorem countCe (src : BitVec 16) : Keeps s (countCe s src) := by
  unfold Machine.countCe; exact ite _ (bump ..) (refl _)
theorem collect (r : Report) (form : CrumbForm) : Keeps s (collect s r form) := by
  unfold Machine.collect
  exact trans (trans (collect0 s r form) (ite _ (collect0 ..) (refl _))) (countCe _ _)
theorem report (r : Report) (form : CrumbForm) : Keeps s (report s r form) := by
  unfold Machine.report; exact ite _ (modFcl ..) (collect ..)
theorem raiseAt (die inst ty : Nat) (ctx : Ctx) (a : BitVec 64) : Keeps s (raiseAt s die inst ty ctx a) := report ..
theorem raiseAs (die inst ty : Nat) (ctx : Ctx) (a : BitVec 64) (k n : Nat) (ca : BitVec 64) :
    Keeps s (raiseAs s die inst ty ctx a k n ca) := report ..
theorem raise (ty : Nat) : Keeps s (raise s ty) := raiseAt ..
theorem addDrop (cl : BitVec 6) : Keeps s (addDrop s cl) := trans (modCluster ..) (raiseAt ..)

/-! ### Exceptions and issue -/

theorem launchExc (core : CoreId) (id : Nat) (e : Exc) : Keeps s (launchExc s core id e) := by
  unfold Machine.launchExc
  split
  · exact refl s
  · exact trans (modDsp s _) (ite _ (haltLaunch ..) (refl _))
theorem raiseExc (core : CoreId) (code : BitVec 8) (a w : Word) : Keeps s (raiseExc s core code a w) := by
  unfold Machine.raiseExc
  split
  · exact refl s
  · exact trans (modCore ..) (launchExc ..)

/-! ### Registers -/

theorem sendUr : Keeps s (sendUr s) := trans (trans (bump ..) (setFlag ..)) (modHpt ..)
theorem whileRunning {f : State → State} (h : Keeps s (f s)) : Keeps s (whileRunning s f) := ite _ (refl s) h
theorem withReg (ag : RegAgent) (off : Nat) {f : State → State} (h : Keeps s (f s)) : Keeps s (withReg s ag off f) := by
  unfold Machine.withReg
  refine ite _ (refl s) (ite _ (sendUr s) (ite _ (setFlag ..) (ite _ (refl s) h)))
end

end Keep

end Sys2Proof.Machine
end

