-- ==== Sys2Proof/Laws/MemOps.lean ====
section
/-! SUPPORT. One lemma for each operation that the memory, float and engine instructions share, and for the access to a register:
what it does when its conditions hold. -/

namespace Sys2Proof.Machine

variable {s : State} {w : Who}

/-! ### Local store (R74, R88) -/

/-- A local-store access at an aligned offset within 64 KiB. -/
theorem lsOp_of_issues {op : BitVec 6} {d a : BitVec 5} {imm : BitVec 12} {size : Nat} {f : Nat → CoreSt → CoreSt}
    (h : issues s w 4 = true) (ha : ((s.core w.core).rs a + imm.signExtend 64).toNat % size = 0)
    (hr : ((s.core w.core).rs a + imm.signExtend 64).toNat + size ≤ 65536) :
    lsOp s w op d a imm size f =
      s.modCore w.core fun c => (f ((s.core w.core).rs a + imm.signExtend 64).toNat c).adv 4 := by
  unfold lsOp
  rw [issue_of_issues h rfl]
  simp only
  rw [if_neg (by omega), if_neg (by omega)]

/-- A misaligned local-store access raises 0x02. -/
theorem lsOp_misaligned {op : BitVec 6} {d a : BitVec 5} {imm : BitVec 12} {size : Nat} {f : Nat → CoreSt → CoreSt}
    (h : issues s w 4 = true) (ha : ((s.core w.core).rs a + imm.signExtend 64).toNat % size ≠ 0) :
    lsOp s w op d a imm size f =
      raiseExc s w.core excMisaligned ((s.core w.core).rs a + imm.signExtend 64) (encI w op d a imm) := by
  unfold lsOp
  rw [issue_of_issues h rfl]
  simp only
  rw [if_pos ha]

/-- An aligned local-store access beyond 64 KiB raises 0x07. -/
theorem lsOp_range {op : BitVec 6} {d a : BitVec 5} {imm : BitVec 12} {size : Nat} {f : Nat → CoreSt → CoreSt}
    (h : issues s w 4 = true) (ha : ((s.core w.core).rs a + imm.signExtend 64).toNat % size = 0)
    (hr : 65536 < ((s.core w.core).rs a + imm.signExtend 64).toNat + size) :
    lsOp s w op d a imm size f =
      raiseExc s w.core excLsRange ((s.core w.core).rs a + imm.signExtend 64) (encI w op d a imm) := by
  unfold lsOp
  rw [issue_of_issues h rfl]
  simp only
  rw [if_neg (by omega), if_pos hr]

/-! ### Translation, loads and stores -/

/-- An access whose translation is at hand goes on with its leaf. -/
theorem withXlt_of_atHand {core : CoreId} {va : Word} {a : Access} {l : Leaf} {word : Word} {f : Leaf → State → State}
    (h : atHand s core va a l) : withXlt s core va a word f = f l s := by
  unfold atHand at h
  simp only [withXlt, h]

/-- A misaligned load raises 0x02 before its translation. -/
theorem loadBody_misaligned {core : CoreId} {d : BitVec 5} {va : Word} {size : Nat} {x p : Bool} {word : Word}
    (h : va.toNat % size ≠ 0) : loadBody s core d va size x p word = raiseExc s core excMisaligned va word := if_pos h

/-- A misaligned store raises 0x02 before its translation. -/
theorem storeBody_misaligned {core : CoreId} {va : Word} {size n v : Nat} {rel : Bool} {sc : BitVec 2} {word : Word}
    (h : va.toNat % size ≠ 0) : storeBody s core va size n v rel sc word = raiseExc s core excMisaligned va word := if_pos h

/-- Entries that find room, no combining line and no line move enter the store buffer, and the instruction goes on. -/
theorem retire_of_room {core : CoreId} {es : List SbEntry}
    (hc : (es.any fun e => e.kind != .marker && touchesCb (s.core core) e.dest (e.pa / 64)) = false)
    (hn : (s.core core).sb.length + es.length ≤ 8)
    (hm : (es.any fun e => e.kind != .marker && moveOn (s.core core) e.va false) = false)
    (hr : (es.any fun e => e.rel && e.scope != 0) = false) :
    retire s core es = s.modCore core fun c =>
      { c.adv 4 with sb := c.sb ++ es, rsv := if es.all (fun e => isMaint e.kind) then c.rsv else none } := by
  unfold retire
  simp only [hc, hm, hr]
  rw [if_neg (by simp), if_neg (by simp; omega)]
  simp

/-- A full store buffer holds the instruction. -/
theorem retire_of_full {core : CoreId} {es : List SbEntry}
    (hc : (es.any fun e => e.kind != .marker && touchesCb (s.core core) e.dest (e.pa / 64)) = false)
    (hn : 8 < (s.core core).sb.length + es.length) : retire s core es = s := by
  unfold retire
  simp only [hc]
  rw [if_neg (by simp), if_pos (Or.inl hn)]

/-! ### Arithmetic traps (R81, R137) -/

/-- Flags whose enables are clear trap nothing. -/
theorem trapIf_of_clear {core : CoreId} {fl : Flags} {word : Word} (h : fl &&& (s.core core).xcfg = 0) :
    trapIf s core fl word = s := by
  simp [trapIf, h]

/-- A scalar float instruction whose flags are not enabled. -/
theorem fpOp_of_issues {sel : BitVec 4} {d a b : BitVec 5} {q : Bool} {rm : BitVec 2} {legal : Bool} {f : CoreSt → CoreSt × Flags}
    (h : issues s w 4 = true) (hl : legal = true) (hx : (f (s.core w.core)).2 &&& (f (s.core w.core)).1.xcfg = 0) :
    fpOp s w sel d a b q rm legal f = s.modCore w.core fun c => ((f c).1.addFsr (f c).2).adv 4 := by
  unfold fpOp
  rw [issue_of_issues h hl]
  simp only
  rw [trapIf_of_clear (by simpa using hx)]
  simp [State.modCore]

/-- A tile-vector instruction whose flags are not enabled. -/
theorem tvOp_of_issues {op : BitVec 6} {fn : BitVec 8} {f : TvWord} {legal : Bool} {g : CoreSt → CoreSt}
    (h : issues s w 8 = true) (hl : legal = true)
    (hx : ieeeBits (g { s.core w.core with vsw := 0 }).vsw &&& (g { s.core w.core with vsw := 0 }).xcfg = 0) :
    tvOp s w op fn f legal g = s.modCore w.core (engineCore g) := by
  unfold tvOp
  rw [issue_of_issues h hl]
  simp only
  rw [trapIf_of_clear (by simpa using hx)]
  simp [State.modCore, engineCore]

/-! ### Registers -/

/-- A register access that reaches its register. -/
theorem withReg_of_reachable {ag : RegAgent} {off : Nat} {f : State → State} (h : reachable s ag off = true) :
    withReg s ag off f = f s := by
  simp only [reachable, Bool.and_eq_true, Bool.not_eq_true', Bool.or_eq_true, bne_iff_ne, ne_eq, beq_iff_eq] at h
  obtain ⟨⟨⟨h1, h2⟩, h3⟩, h4⟩ := h
  have h3 : dieOfOffset off ∉ s.boot.offDie := by simpa using h3
  unfold withReg
  by_cases hh : ag = .host
  · obtain ⟨⟨hl, hd⟩, hm⟩ := h2.resolve_left (fun e => e hh)
    simp [h1, h3, h4, hh, hl, hd, hm]
  · simp [h1, h3, h4, hh]

/-- A change that the running complex makes. -/
theorem whileRunning_of_running {f : State → State} (h : frozen s = false) : whileRunning s f = f s := by simp [whileRunning, h]
/-- Nothing moves in reset or in the safe state. -/
theorem whileRunning_of_frozen {f : State → State} (h : frozen s = true) : whileRunning s f = s := by simp [whileRunning, h]

end Sys2Proof.Machine
end

