-- ==== Sys2Proof/Tests/Slice0.lean ====
section
/-! SUPPORT. Tests: terms that the well-formedness checks refuse, states that meet the hypotheses of every statement, and single steps
whose results come from the spec's text. -/

namespace Sys2Proof.Tests

open Sys2Proof.Machine

set_option Elab.async false

/-! ### Small states -/

/-- Core 0 of cluster 0, guard p0. -/
def w0 : Who := ⟨⟨0, 0⟩, false, 0⟩
/-- A core at its first instruction, fetched. -/
def core0 : CoreSt := { (default : CoreSt) with st := .running, started := true, fetched := some 0 }
/-- A cluster that runs a launch. -/
def clus0 : ClusterSt := { (default : ClusterSt) with pll := .running, run := some default }
/-- The complex after its boot, in D0, the host link up. -/
def base : State :=
  { State.reset with
    aonUp := true
    boot := { State.reset.boot with inReset := false, step := 10, hostRel := true }
    hpt := { State.reset.hpt with link := .l0, command := 6, good := 0xFF, width := 8 } }
/-- One cluster with one core. -/
def one (c : CoreSt) (k : ClusterSt) : State := { base with cores := [(0, c)], clus := [(0, k)] }
/-- A scalar register set. -/
def withS (c : CoreSt) (r : BitVec 5) (v : Word) : CoreSt := c.setS r v

/-! ### Ill-formed commands are refused -/

theorem test_wf_core : (Instr.add ⟨⟨0, 160⟩, false, 0⟩ 1 2 3).wf = false := by decide
theorem test_wf_core_last : (Instr.add ⟨⟨0, 159⟩, false, 0⟩ 1 2 3).wf = true := by decide
theorem test_wf_core_event : (Instr.coreWake ⟨0, 160⟩).wf = false := by decide
theorem test_wf_move_index : (Instr.lmvComplete ⟨0, 0⟩ 4).wf = false := by decide
theorem test_wf_line : (Instr.scrubRead false (2 ^ 38) .clean).wf = false := by decide
theorem test_wf_fill_line : (Instr.l1Fill ⟨0, 0⟩ (2 ^ 38)).wf = false := by decide
theorem test_wf_fill_core : (Instr.l1Fill ⟨0, 160⟩ 0).wf = false := by decide
theorem test_wf_page : (Instr.biasFlipScan 0 (2 ^ 19)).wf = false := by decide
theorem test_wf_waiter_core : (Instr.xltRequest (.core ⟨0, 160⟩)).wf = false := by decide
theorem test_wf_waiter_move : (Instr.xltRequest (.lmv ⟨0, 0⟩ 4)).wf = false := by decide
theorem test_wf_position : (Instr.coreWarmReset .mgc 0 160).wf = false := by decide
theorem test_wf_port : (Instr.fabWr 12).wf = false := by decide
theorem test_wf_frame : (Instr.fabricFrameRx 0 ⟨true, 0, 0, 0, false, false, 0, 0, 0, List.replicate 126 0⟩).wf = false := by decide +kernel
theorem test_wf_hpa : (Instr.meminv 32).wf = false := by decide
theorem test_wf_write_bytes : (Instr.bar2Access true 0 0 [] false).wf = false := by decide
theorem test_wf_read_bytes : (Instr.bar2Access false 0 0 [0] false).wf = false := by decide
theorem test_wf_offset : (Instr.registerWrite .mgc 2 0).wf = false := by decide
theorem test_wf_link : (Instr.linkHandshake 3).wf = false := by decide
theorem test_wf_attempt : (Instr.handshakeAttempt 0 ⟨List.replicate 97 0, [], true, none, none, [], true⟩).wf = false := by decide +kernel
theorem test_wf_pass : (Instr.powerPass { (default : PassInput) with dieNeed := List.replicate 5 [] }).wf = false := by decide +kernel
theorem test_wf_tick : (Instr.activityModelTick ⟨List.replicate 5 0, [], []⟩).wf = false := by decide +kernel
theorem test_wf_rail : (Instr.telemetryFrame 11 true 0 0 0).wf = false := by decide
theorem test_wf_reset_position : (Instr.warmResetDone 0 true 160).wf = false := by decide

/-! ### States that meet the hypotheses: chapter 03 -/

/-- Core 0, with s2 = 0x1234 and s3 = 8. -/
def intState : State := one (withS (withS core0 2 0x1234) 3 8) clus0

theorem witness_StepTakesFrontCommand : ({ State.reset with pending := [.aonPllLock false] } : State).pending = [.aonPllLock false] := rfl
theorem witness_EmptyQueueStepCountsTime :
    State.reset.pending = [] ∧ State.reset.aonUp = false ∧
    (let s := { State.reset with aonUp := true }
     s.pending = [] ∧ s.aonUp = true ∧ s.tsRate = .nominal ∧ s.tsFrac = 0 ∧ s.boot.inReset = true) ∧
    (let s := { base with fcl := { base.fcl with safe := true } }
     s.pending = [] ∧ s.aonUp = true ∧ s.tsRate = .nominal ∧ s.tsFrac = 0 ∧ s.fcl.safe = true ∧ wdogOn s = false) := by decide +kernel
/-- A step from a canonical memory answers a next state. -/
theorem witness_EveryStepKeepsMemoryCanonical :
    Memory.wf base.mem.cells = true ∧ ∃ t, step { base with pending := [.timeMark false] } = .next t := ⟨rfl, _, rfl⟩
theorem witness_EveryStepKeepsFusesAndTakesOneCommand : ∃ t, step { base with pending := [.timeMark false] } = .next t := ⟨_, rfl⟩
theorem witness_IntegerRegisterOperations : issues intState w0 4 = true := by decide +kernel
theorem witness_ImmediateAndConstantInstructions : issues intState w0 4 = true := by decide +kernel
theorem witness_CompareAndPredicateInstructions : issues intState w0 4 = true := by decide +kernel
theorem witness_BranchesAndJumps :
    issues intState w0 4 = true ∧ ((intState.core w0.core).rs 2).extractLsb' 0 2 = 0 := by decide +kernel
/-- The core of intState with a line move outstanding. -/
def moveState : State := one { core0 with lmv := [(0, some { (default : LineMove) with count := 1 })] } clus0
theorem witness_SystemInstructions :
    issues intState w0 4 = true ∧ noMoves (intState.core w0.core) = true ∧
    issues moveState w0 4 = true ∧ noMoves (moveState.core w0.core) = false ∧
    sysReg intState w0.core (0x002 : BitVec 12).toNat = some 160 := by decide +kernel
theorem witness_SystemRegisterValues : (intState.cluster w0.core.cl).run = some default := by decide +kernel
/-- The guard p1 reads 0. -/
def w1 : Who := ⟨⟨0, 0⟩, false, 1⟩
theorem witness_FalseGuardSkipsTheInstruction :
    reaches intState w1 = true ∧ (w1.n && w1.p == 0) = false ∧ guardOn (intState.core w1.core) w1 = false ∧
    (intState.core w1.core).pc.toNat % 8 = 0 ∧
    (let f := { (default : TvWord) with ty := 8 }; f.sr = false ∧ tvLegal f (tyDefined f.ty) { ta := false } = true) ∧
    (let f := (default : AccWord); accPlain f = true ∧ f.y = 0 ∧ isAcc f.x = true) := by decide +kernel
/-- A core whose pc is 4. -/
def oddState : State := one { core0 with pc := 4 } clus0
theorem witness_UndefinedFieldsRaiseIllegalInstruction :
    reaches intState w0 = true ∧ reaches oddState w0 = true ∧ (oddState.core w0.core).pc.toNat % 8 ≠ 0 ∧
    (let w : Who := ⟨⟨0, 0⟩, true, 0⟩; reaches intState w = true ∧ w.n = true ∧ w.p = 0) ∧
    7 < (8 : BitVec 5).toNat ∧ 3 < (4 : BitVec 5).toNat ∧ (1 : BitVec 5).getLsbD 0 = true := by decide +kernel
/-- A launch that runs with id 0. -/
def launch0 : Launch := { (default : Launch) with phase := .running, mask := 1 }
/-- The core of a running launch, with s2 = 0x1236. -/
def excState0 : State := { one (withS core0 2 0x1236) clus0 with dsp := { base.dsp with launches := [launch0] } }
theorem witness_ExceptionStopsCoreAndIsRecorded :
    issues excState0 w0 4 = true ∧ (excState0.cluster w0.core.cl).run = some default ∧
    excState0.dsp.launches = [launch0] ∧ launch0.id = (default : RunInfo).id ∧ launch0.phase = .running ∧
    launch0.recs.length < 16 ∧ launch0.recs = [] ∧ ((excState0.core w0.core).rs 2).extractLsb' 0 2 ≠ 0 := by decide +kernel
theorem witness_SysregExceptionAndZeroRegisters :
    issues intState w0 4 = true ∧ sysReg intState w0.core (0x00E : BitVec 12).toNat = none ∧ (0x00C : BitVec 12) ≠ 0x00D := by
  decide +kernel

/-! ### Floats -/

/-- s2 = 1.0 and s3 = 0.0 in FP64; every trap enabled. -/
def fpState : State := one { withS (withS core0 2 0x3FF0000000000000) 3 0 with xcfg := 0x1F } clus0
theorem witness_ScalarFloatInstructions :
    issues fpState w0 4 = true ∧
    -- 1.0 / 1.0 raises nothing; 1.0 / 0.0 divides by zero, which is enabled
    (let c := fpState.core w0.core
     let x := valQ false (c.rs 2)
     let y := valQ false (c.rs 3)
     (eqFp x x = true ∧ sigFlag (isSig x || isSig x) &&& c.xcfg = 0) ∧
     (((divFp x y).2 ||| (roundQ false 0 (divFp x y).1).2) &&& c.xcfg ≠ 0)) := by decide +kernel
theorem witness_ScalarFloatSpecialResults : isNan (valQ false 0x7FF8000000000000) = true ∧ isNan (valQ true 0x7FC00000) = true := by
  decide +kernel

/-! ### Local store, loads and stores -/

/-- s2 holds a local-store offset. -/
def lsState (o : Word) : State := one (withS core0 2 o) clus0
theorem witness_LocalStoreInstructions :
    issues (lsState 0) w0 4 = true ∧ Memory.wf ((lsState 0).core w0.core).ls = true ∧
    -- the last places that fit, misaligned ones, and the first beyond 64 KiB
    (65528 % 8 = 0 ∧ 65528 + 8 ≤ 65536) ∧ (65532 % 4 = 0 ∧ 65532 + 4 ≤ 65536) ∧
    issues (lsState 65528) w0 4 = true ∧ (((lsState 65528).core w0.core).rs 2 + (0 : BitVec 12).signExtend 64).toNat = 65528 ∧
    issues (lsState 65532) w0 4 = true ∧ (((lsState 65532).core w0.core).rs 2 + (0 : BitVec 12).signExtend 64).toNat = 65532 ∧
    (65532 % 8 ≠ 0) ∧ (((lsState 65534).core w0.core).rs 2 + (0 : BitVec 12).signExtend 64).toNat % 4 ≠ 0 ∧
    issues (lsState 65534) w0 4 = true ∧
    issues (lsState 65536) w0 4 = true ∧ (((lsState 65536).core w0.core).rs 2 + (0 : BitVec 12).signExtend 64).toNat % 8 = 0 ∧
    65536 < (((lsState 65536).core w0.core).rs 2 + (0 : BitVec 12).signExtend 64).toNat + 4 := by decide +kernel

/-- A leaf for device memory at 0, region 0, every permission. -/
def leaf0 : Leaf := { addr := 0, tgt := 0, rank := 0, region := 0, x := true, w := true, rd := true, big := false }
/-- Translation enabled, region 0 with the given attributes. -/
def mapped (attr : BitVec 32) (s : State) : State := (s.setReg Reg.xltCtxtLo 1).setReg (Reg.xltRegion 0) attr
/-- A cluster whose TLB maps page 0. -/
def clusT : ClusterSt := { clus0 with tlb := [(0, some ⟨0, 0, leaf0⟩)] }
/-- A line of an L1. -/
def l1Line (line : Nat) (p : Bool) : L1Line := ⟨line, 0, BitVec.ofNat 512 0x8070605040302010, p⟩
/-- A core with line 1 in its L1 and s2 = va. -/
def loadState (va : Word) (p : Bool) : State := mapped 0x10 (one { withS core0 2 va with l1 := [(1, some (l1Line 1 p))] } clusT)
theorem witness_LoadsThatHitTheL1 :
    (let s := loadState 64 false
     issues s w0 4 = true ∧ quiet s w0.core = true ∧ destOf leaf0 = .device ∧ aCache (attrOf s leaf0) = true ∧
     mgetD none (s.core w0.core).l1 (physOf leaf0 (64 : Word).toNat / 64 % 512) = some (l1Line 1 false) ∧
     (l1Line 1 false).line = physOf leaf0 (64 : Word).toNat / 64 ∧ (l1Line 1 false).ctx = ctxOf s w0.core ∧
     (s.core w0.core).rs 2 + (0 : BitVec 12).signExtend 64 = 64 ∧ (s.core w0.core).rs 2 = 64 ∧ (64 : Word).toNat % 8 = 0 ∧
     (4 : BitVec 5).getLsbD 0 = false ∧ physOf leaf0 (64 : Word).toNat % 64 < 56 ∧ (s.core w0.core).pairLo = none) := by decide +kernel
theorem witness_LoadsThatHitTheL1_atHand : atHand (loadState 64 false) w0.core 64 .read leaf0 := rfl
/-- A store-buffer entry of 8 bytes at 64. -/
def sb64 : SbEntry := { (default : SbEntry) with kind := .store, dest := .device, pa := 64, va := 64, mask := 0xFF, data := 0x55 }
/-- A core with that entry. -/
def fwdState (va : Word) : State := mapped 0x10 (one { withS core0 2 va with sb := [sb64] } clusT)
theorem witness_LoadForwardsFromStoreBuffer :
    (let s := fwdState 64
     let va := (s.core w0.core).rs 2 + (0 : BitVec 12).signExtend 64
     issues s w0 4 = true ∧ va.toNat % 8 = 0 ∧ destOf leaf0 = .device ∧ aDevo (attrOf s leaf0) = false ∧ (s.core w0.core).cb = [] ∧
     noMoves (s.core w0.core) = true ∧ (s.core w0.core).sb = [] ++ sb64 :: [] ∧ sb64.pa / 64 = physOf leaf0 va.toNat / 64 ∧
     sb64.mask &&& maskAt (physOf leaf0 va.toNat % 64) 8 ≠ 0) := by decide +kernel
theorem witness_LoadForwardsFromStoreBuffer_atHand : atHand (fwdState 64) w0.core 64 .read leaf0 := rfl
theorem witness_LoadPoisonAndMisalignment :
    (issues (loadState 68 true) w0 4 = true ∧
      (((loadState 68 true).core w0.core).rs 2 + (0 : BitVec 12).signExtend 64).toNat % 8 ≠ 0) ∧
    (let s := loadState 64 true
     issues s w0 4 = true ∧ quiet s w0.core = true ∧ aCache (attrOf s leaf0) = true ∧
     mgetD none (s.core w0.core).l1 (physOf leaf0 (64 : Word).toNat / 64 % 512) = some (l1Line 1 true) ∧
     (l1Line 1 true).poison = true ∧ (l1Line 1 true).ctx = ctxOf s w0.core) := by decide +kernel
theorem witness_LoadPoisonAndMisalignment_atHand : atHand (loadState 64 true) w0.core 64 .read leaf0 := rfl
/-- A core with an empty store buffer and s2 = va, in a region of some attributes. -/
def storeState (attr : BitVec 32) (va : Word) : State := mapped attr (one (withS (withS core0 2 va) 4 0x1122334455667788) clusT)
theorem witness_StoresEnterTheStoreBuffer :
    (let s := storeState 0x10 64
     issues s w0 4 = true ∧ (s.core w0.core).sb.length < 8 ∧ (s.core w0.core).cb = [] ∧ noMoves (s.core w0.core) = true ∧
     (s.core w0.core).rs 2 + (0 : BitVec 12).signExtend 64 = 64 ∧ (s.core w0.core).rs 2 = 64 ∧ (64 : Word).toNat % 8 = 0 ∧
     (64 : Word).toNat % 64 ≤ 48 ∧ (4 : BitVec 5).getLsbD 0 = false ∧ destOf leaf0 = .device) ∧
    (let s := storeState 0x30 64
     issues s w0 4 = true ∧ aDevo (attrOf s leaf0) = true) := by decide +kernel
theorem witness_StoresEnterTheStoreBuffer_atHand :
    atHand (storeState 0x10 64) w0.core 64 .write leaf0 ∧ atHand (storeState 0x10 64) w0.core 64 .read leaf0 ∧
    atHand (storeState 0x30 64) w0.core 64 .write leaf0 := ⟨rfl, rfl, rfl⟩
theorem witness_StoreIsSeenByItsOwnCore :
    (let s := storeState 0x10 64
     issues s w0 4 = true ∧ ((s.core w0.core).rs 2 + (0 : BitVec 12).signExtend 64).toNat % 8 = 0 ∧
     physOf leaf0 ((s.core w0.core).rs 2 + (0 : BitVec 12).signExtend 64).toNat % 8 = 0 ∧ destOf leaf0 = .device ∧
     (s.core w0.core).sb.length < 8 ∧ (s.core w0.core).cb = [] ∧ noMoves (s.core w0.core) = true) := by decide +kernel
theorem witness_StoreIsSeenByItsOwnCore_atHand : atHand (storeState 0x10 64) w0.core 64 .write leaf0 := rfl
/-- A combining line. -/
def cbLine (line : Nat) : CbLine := { (default : CbLine) with dest := .device, line := line, mask := 0xFF00 }
/-- A core with combining lines. -/
def ntState (cb : List CbLine) : State := mapped 0x10 (one { withS core0 2 64 with cb := cb } clusT)
theorem witness_NonTemporalStoresCombine :
    (∀ cb ∈ [[], [cbLine 1], [cbLine 2, cbLine 3, cbLine 4, cbLine 5]],
      let s := ntState cb
      issues s w0 4 = true ∧ ((s.core w0.core).rs 2 + (0 : BitVec 12).signExtend 64).toNat % 8 = 0 ∧ aDevo (attrOf s leaf0) = false ∧
      (s.core w0.core).sb = [] ∧ noMoves (s.core w0.core) = true ∧ (s.cluster w0.core.cl).outw = [] ∧ (s.core w0.core).cb = cb) ∧
    (cbLine 1).dest = destOf leaf0 ∧ (cbLine 1).line = physOf leaf0 64 / 64 ∧ (cbLine 1).sent = false ∧
    [cbLine 2, cbLine 3, cbLine 4, cbLine 5].find? (fun x => x.dest == destOf leaf0 && x.line == physOf leaf0 64 / 64) = none := by
  decide +kernel
theorem witness_NonTemporalStoresCombine_atHand :
    atHand (ntState []) w0.core 64 .write leaf0 ∧ atHand (ntState [cbLine 1]) w0.core 64 .write leaf0 ∧
    atHand (ntState [cbLine 2, cbLine 3, cbLine 4, cbLine 5]) w0.core 64 .write leaf0 := ⟨rfl, rfl, rfl⟩

/-! ### Atomics and reservations -/

/-- A way of an L2. -/
def way (st : L2State) (line : Nat) : L2Way := { (default : L2Way) with st := st, line := line, data := 5 }
/-- A core with s2 = 64 whose cluster holds line 1 in a state. -/
def atomState (rsv : Option Nat) (w : L2Way) : State :=
  mapped 0x10 (one { withS (withS core0 2 64) 3 7 with rsv := rsv } { clusT with l2 := [(l2Set 1 * 8, some w)] })
theorem witness_AtomicsReadAndUpdateOwnedLines :
    (let s := atomState none (way .M 1)
     issues s w0 4 = true ∧ ((s.core w0.core).rs 2).toNat % 8 = 0 ∧ destOf leaf0 = .device ∧ aWriteBack (attrOf s leaf0) = true ∧
     quiet s w0.core = true ∧ (way .M 1).poison = false ∧ (way .M 1).line = physOf leaf0 64 / 64) := by decide +kernel
theorem witness_AtomicsReadAndUpdateOwnedLines_atHand :
    atHand (atomState none (way .M 1)) w0.core 64 .rw leaf0 ∧
    l2Own (atomState none (way .M 1)) w0.core (ctxOf (atomState none (way .M 1)) w0.core) 1 false = .hit (l2Set 1 * 8) (way .M 1) :=
  ⟨rfl, rfl⟩
theorem witness_ReservedPairs :
    (∀ r ∈ [none, some 1],
      let s := atomState r (way .E 1)
      issues s w0 4 = true ∧ ((s.core w0.core).rs 2).toNat % 8 = 0 ∧ aCache (attrOf s leaf0) = true ∧
      aWriteBack (attrOf s leaf0) = true ∧ quiet s w0.core = true ∧ (s.core w0.core).rsv = r) := by decide +kernel
theorem witness_ReservedPairs_atHand :
    atHand (atomState none (way .E 1)) w0.core 64 .read leaf0 ∧ atHand (atomState none (way .E 1)) w0.core 64 .rw leaf0 ∧
    atHand (atomState (some 1) (way .E 1)) w0.core 64 .rw leaf0 ∧
    l2Own (atomState (some 1) (way .E 1)) w0.core (ctxOf (atomState (some 1) (way .E 1)) w0.core) 1 false =
      .hit (l2Set 1 * 8) (way .E 1) := ⟨rfl, rfl, rfl, rfl⟩

/-! ### Fences, tokens, streams, line moves, events -/

theorem witness_FencesAndPrefetch :
    (let s := intState
     issues s w0 4 = true ∧ ((List.range 4).all fun i => ((mgetD none (s.core w0.core).lmv i).map (·.out)).getD true) = true ∧
     (s.core w0.core).sb.length < 8 ∧ earlierDone s w0.core 3 = true ∧ quiet s w0.core = true) ∧
    (let s := moveState
     issues s w0 4 = true ∧ ((List.range 4).all fun i => ((mgetD none (s.core w0.core).lmv i).map (·.out)).getD true) = false ∧
     earlierDone s w0.core 1 = false) := by decide +kernel
/-- A launch of one group member on cluster 0; s2 names a token target, s3 its increment. -/
def tokState (target inc k0 : Word) : State :=
  { one { withS (withS core0 2 target) 3 inc with k := (default : CoreSt).k.set 0 k0 }
      { clus0 with run := some { (default : RunInfo) with gsize := 1, nrun := 160 } } with
    dsp := { base.dsp with launches := [launch0] } }
theorem witness_TokenInstructions :
    (let s := tokState 0x10000 1 0   -- group index 1 of 1: outside
     issues s w0 4 = true ∧ 1 ≤ (((s.core w0.core).rs 2).extractLsb' 16 16).toNat) ∧
    (let s := tokState 0 0 0         -- increment 0
     issues s w0 4 = true ∧ (((s.core w0.core).rs 2).extractLsb' 16 16).toNat < 1 ∧ ((s.core w0.core).rs 3).extractLsb' 0 32 = 0) ∧
    (let s := tokState 5 1 1
     issues s w0 4 = true ∧ (((s.core w0.core).rs 2).extractLsb' 16 16).toNat < 1 ∧ ((s.core w0.core).rs 3).extractLsb' 0 32 ≠ 0 ∧
     (s.cluster 0).run = some { (default : RunInfo) with gsize := 1, nrun := 160 } ∧
     s.dsp.launches.find? (fun x => x.id == 0) = some launch0 ∧ (clustersOf launch0.mask)[0]? = some 0 ∧
     pathUp s (dieOfAgent (.cluster 0)) (dieOfAgent (.cluster 0)) = true ∧ quiet s w0.core = true ∧
     ((s.core w0.core).rs 3).toNat ≤ ((s.core w0.core).rk 0).toNat) ∧
    (let s := tokState 5 2 1
     issues s w0 4 = true ∧ ((s.core w0.core).rk 0).toNat < ((s.core w0.core).rs 3).toNat) := by decide +kernel
/-- Two neighbouring cores, with credits and a beat or without. -/
def strState (cr : Nat) (rx : List Line) : State :=
  { one core0 { clus0 with run := some { (default : RunInfo) with nrun := 2 } } with
    cores := [(0, { core0 with crN := cr, crP := cr, rxP := rx, rxN := rx }), (1, core0)] }
theorem witness_StreamInstructions :
    (∀ dir : Bool, let s := strState 1 [7]
     issues s w0 4 = true ∧ ((s.core w0.core).sb.any fun e => e.kind == .marker) = false ∧ (s.core w0.core).strDone = 0 ∧
     neighbour s w0.core dir = ⟨0, 1⟩ ∧ neighbour s w0.core dir ≠ w0.core ∧ (15 : BitVec 5).toNat < 16 ∧
     0 < (if dir then (s.core w0.core).crP else (s.core w0.core).crN) ∧
     (if dir then (s.core w0.core).rxP else (s.core w0.core).rxN) = 7 :: []) ∧
    (∀ dir : Bool, let s := strState 0 []
     issues s w0 4 = true ∧ neighbour s w0.core dir ≠ w0.core ∧ (if dir then (s.core w0.core).crP else (s.core w0.core).crN) = 0 ∧
     (if dir then (s.core w0.core).rxP else (s.core w0.core).rxN) = []) := by decide +kernel
/-- s2 holds a local-store offset and s3 a virtual address. -/
def lmvState (ls va : Word) : State := one (withS (withS core0 2 ls) 3 va) clus0
theorem witness_LineMoves :
    -- 128 lines from the last place that fits; one line beyond it; misaligned addresses
    (let s := lmvState 57344 64
     issues s w0 4 = true ∧ ((s.core w0.core).rs 3).toNat % 64 = 0 ∧ ((s.core w0.core).rs 2).toNat % 64 = 0 ∧
     ((s.core w0.core).rs 2).toNat + 64 * ((127 : BitVec 7).toNat + 1) ≤ 65536 ∧ freeMove (s.core w0.core) = some 0 ∧
     moveClash (s.core w0.core) false 64 128 = false ∧ moveClash (s.core w0.core) true 64 128 = false ∧
     ((s.core w0.core).sb.any fun e => e.kind == .marker) = false) ∧
    (let s := lmvState 57408 64
     issues s w0 4 = true ∧ 65536 < ((s.core w0.core).rs 2).toNat + 64 * ((127 : BitVec 7).toNat + 1)) ∧
    (let s := lmvState 0 65
     issues s w0 4 = true ∧ ((s.core w0.core).rs 3).toNat % 64 ≠ 0) ∧
    (let s := lmvState 65 64
     issues s w0 4 = true ∧ ((s.core w0.core).rs 3).toNat % 64 = 0 ∧ ((s.core w0.core).rs 2).toNat % 64 ≠ 0) ∧
    (let m := some { (default : LineMove) with count := 1 }
     let s := one { core0 with lmv := [(0, m), (1, m), (2, m), (3, m)] } clus0
     issues s w0 4 = true ∧ freeMove (s.core w0.core) = none) := by decide +kernel
/-- Core 0 of cluster 0 in a gated state, with what its events find. -/
def gated (g : Gate) (wake : Bool) : State :=
  one
    { core0 with
      st := .gated g, wake := wake, flyP := [7], flyN := [8], backN := 1, backP := 1
      k := (default : CoreSt).k.set 0 3, lmv := [(0, some { (default : LineMove) with count := 1, done := 1 })] }
    { clus0 with tokq := [⟨0, some 0, 0, 0, 5⟩], run := some { (default : RunInfo) with nrun := 160 } }
/-- A stopped cluster whose core has a wake. -/
def stopped (p : Pll) : State := one { core0 with st := .gated .xlt, wake := true } { (default : ClusterSt) with pll := p }
/-- An idle running cluster whose stop conditions have held since tick 0. -/
def idle : State := { one default { (default : ClusterSt) with pll := .running, idleTs := some 0 } with ts := 40960 }
theorem witness_CoreAndClusterEvents :
    (let s := gated .xlt true
     frozen s = false ∧ (s.core w0.core).st = .gated .xlt ∧ (s.core w0.core).wake = true ∧ (s.cluster 0).pll = .running ∧
     (s.cluster 0).isolated = false ∧ posOf s 0 0 = some 0 ∧ (0 : Nat) < 160 ∧
     ((s.core w0.core).rk 0).toNat + (5 : Word).toNat < 2 ^ 64 - 1 ∧ (s.core w0.core).flyP = [7] ∧ (s.core w0.core).flyN = [8] ∧
     0 < (s.core w0.core).backP ∧ 0 < (s.core w0.core).backN ∧
     (∀ j < 1, (1 : BitVec 128).getLsbD j = true)) ∧
    (let s := gated (.tokWait 0 3) false
     (s.core w0.core).wake = false ∧ (3 : Word).toNat ≤ ((s.core w0.core).rk 0).toNat) ∧
    (let s := stopped .stopped
     frozen s = false ∧ s.boot.offDie.contains (dieCd 0) = false ∧ (s.cluster 0).pll = .stopped ∧ pllWanted s 0 = true) ∧
    (stopped .locking).fcl.safe = false ∧ ((stopped .locking).cluster 0).pll = .locking ∧
    (let s := idle
     frozen s = false ∧ (s.cluster 0).pll = .running ∧ pllIdle s 0 = true ∧ (s.reg Reg.pwrPllStop).getLsbD 16 = false ∧
     (s.cluster 0).idleTs = some 0 ∧ (0 : Stamp).toNat + max (s.fld Reg.pwrPllStop 0 16) 50 * 80 ≤ s.ts.toNat) := by decide +kernel

/-! ### Vector and matrix engines -/

/-- A core with the whole area active. -/
def vecState : State := one { core0 with vl := 64, rl := 16 } clus0
/-- td t3, ta t1, with the type; the other operands as given. -/
def tvw (ty : BitVec 4) (tb tc : BitVec 5) (imm : BitVec 9) : TvWord := { (default : TvWord) with td := 3, ta := 1, tb := tb, tc := tc, ty := ty, imm := imm }
theorem witness_VectorArithmetic :
    issues vecState w0 8 = true ∧
    -- s32 and f32
    (∀ ty ∈ [(4 : BitVec 4), 10],
      let two : TvUse := { tb := true, rm := true, fz := true, sat := true }
      (tvw ty 2 0 0).sr = false ∧ tvLegal (tvw ty 2 0 0) (tyArith ty) two = true ∧
      tvLegal (tvw ty 2 4 0) (tyArith ty) { two with tc := true } = true ∧
      tvLegal (tvw ty 2 0 0) (tyArith ty) { tb := true, fz := true } = true ∧
      tvLegal (tvw ty 0 0 0) (tyArith ty) { fz := true, sat := true } = true) ∧
    tvLegal (tvw 10 2 0 0) (tyFloat 10) { tb := true, rm := true, fz := true } = true ∧
    tvLegal (tvw 10 0 0 0) (tyFloat 10) { rm := true, fz := true } = true := by decide +kernel
theorem witness_VectorBitwiseCompareSelectConvert :
    issues vecState w0 8 = true ∧ (vecState.core w0.core).xcfg = 0 ∧ (tvw 4 2 0 0).sr = false ∧
    tvLegal (tvw 4 2 0 0) (tyInt 4) { tb := true } = true ∧ tvLegal (tvw 10 2 0 0) (tyArith 10) { tb := true, fz := true } = true ∧
    tvLegal (tvw 12 2 4 0) (tyDefined 12) { tb := true, tc := true } = true ∧
    (∀ imm ∈ [(0 : BitVec 9), 1], imm.toNat ≤ 1 ∧ tvLegal { tvw 4 0 0 imm with ta := 0 } (tyInt 4) { ta := false, imm := true } = true) ∧
    -- f32 from s32, and e4m3 from f32 with stochastic rounding
    cvtLegal (tvw 10 0 0 4) = true ∧ cvtLegal { tvw 12 0 0 10 with sr := true } = true := by decide +kernel
theorem witness_VectorPermutations :
    issues vecState w0 8 = true ∧ (tvw 4 2 0 0).sr = false ∧ tvLegal (tvw 4 0 0 0) (tyDefined 4) {} = true ∧
    tvLegal (tvw 4 2 0 0) (tyDefined 4) { tb := true } = true ∧
    (tvLegal (tvw 4 0 0 63) (tyDefined 4) { imm := true } = true ∧ (63 : BitVec 9).toNat < 64) ∧
    (tvLegal (tvw 4 0 0 15) (tyDefined 4) { imm := true } = true ∧ (15 : BitVec 9).toNat < 16) ∧
    tvLegal { tvw 4 0 0 0 with ta := 0 } (tyDefined 4) { ta := false } = true := by decide +kernel
theorem witness_VectorScansReductionsCompaction :
    issues vecState w0 8 = true ∧ (vecState.core w0.core).xcfg = 0 ∧ (tvw 4 0 0 0).sr = false ∧
    (∀ op ∈ [(0 : BitVec 3), 1, 2, 3, 4, 5],
      tvLegal (tvw 4 0 2 0) (scanTypes op 4) { tc := true, rm := op == 0, fz := true, me := false } = true ∧
      tvLegal (tvw 4 0 0 0) (scanTypes op 4) { tc := false, rm := op == 0, fz := true, me := false } = true) ∧
    tvLegal (tvw 4 2 5 0) (tyDefined 4) { tb := true, tc := true, me := false } = true ∧
    tvLegal (tvw 4 0 0 0) (tyInt 4) { tc := false, rm := true, fz := true, me := false } = true := by decide +kernel
/-- One active lane: VL 1, RL 1. -/
def laneState : State := one { core0 with vl := 1, rl := 1 } clus0
theorem witness_VectorLocalStoreAndScalarTransfers :
    (let s := laneState
     let c := s.core w0.core
     issues s w0 8 = true ∧ c.xcfg = 0 ∧
     tvLegal (tvw 4 2 0 1) (tyDefined 4) { tb := true, imm := true } = true ∧
     (c.rs 1 + ((1 : BitVec 9).signExtend 64 <<< 6)).toNat % 4 = 0 ∧ (c.rs 2).toNat % 4 = 0 ∧
     (∀ p ∈ (activeArea c 4).filter fun p => unmasked c (tvw 4 2 0 1) 4 p.1 p.2,
       (c.rs 1 + ((1 : BitVec 9).signExtend 64 <<< 6)).toNat + p.1 * (c.rs 2).toNat + p.2 * 4 + 4 ≤ 65536) ∧
     tvLegal (tvw 4 2 0 0) (tyDefined 4) { tb := true } = true ∧ (c.rs 1).toNat % 4 = 0 ∧
     (∀ p ∈ (activeArea c 4).filter fun p => unmasked c (tvw 4 2 0 0) 4 p.1 p.2,
       (c.rs 1).toNat + laneGet (c.rt 2) 4 p.1 p.2 * 4 + 4 ≤ 65536) ∧
     tvLegal { (default : TvWord) with imm := 1, tb := 1 } true
       { td := false, ta := false, ty := false, me := false, tb := true, imm := true } = true ∧
     tvLegal { (default : TvWord) with imm := 64, tb := 16 } true
       { td := false, ta := false, ty := false, me := false, tb := true, imm := true } = true ∧
     (1 : BitVec 9).toNat = 1 ∧ (64 : BitVec 9).toNat = 64 ∧ (1 : BitVec 5).toNat = 1 ∧ (16 : BitVec 5).toNat = 16 ∧
     tvLegal { (default : TvWord) with ta := 1 } true { td := false, ty := false, me := false } = true ∧
     tvLegal { (default : TvWord) with td := 1 } true { ta := false, ty := false, me := false } = true ∧
     tvLegal (tvw 4 2 0 0) (tyDefined 4) { tb := true, me := false } = true) := by
  repeat' apply And.intro
  all_goals first | rfl | decide +kernel
theorem witness_MatrixInstructions :
    issues vecState w0 8 = true ∧ (vecState.core w0.core).xcfg = 0 ∧
    (∀ fa ∈ [(0xC : BitVec 4), 0xD], mmaLegal { (default : MmaWord) with fa := fa, fb := fa, y := 1, z := 2 } = true) ∧
    mmaLegal { (default : MmaWord) with fa := 1, fb := 1, y := 1, z := 2 } = true ∧
    (let f := { (default : AccWord) with x := 3 }; accPlain f = true ∧ isAcc f.x = true ∧ f.y = 0 ∧ f.y.getLsbD 0 = false) ∧
    (∀ fd ∈ [(1 : BitVec 4), 2, 3, 4, 5], accStLegal { (default : AccWord) with x := 2, y := 1, fd := fd } = true) ∧
    accStLegal { (default : AccWord) with x := 2, y := 1, fd := 2, sr := true } = true ∧
    (∀ fd ∈ [(6 : BitVec 4), 7, 8, 9, 10, 11], mqLegal { (default : MqWord) with x := 2, y := 1, fd := fd } = true) :=
  ⟨by decide +kernel, by decide +kernel, by decide +kernel, by decide +kernel, by decide +kernel, by decide +kernel,
    by decide +kernel, by decide +kernel⟩

/-! ### Launches and buffers -/

/-- A launch on cluster 0 in a phase. -/
def launchIn (p : LaunchPhase) (recs : List ExcRec) : Launch := { (default : Launch) with phase := p, mask := 1, recs := recs, entry := 0x1000 }
/-- That launch, with cluster 0 as given and a core 0 as given. -/
def launchState (p : LaunchPhase) (recs : List ExcRec) (k : ClusterSt) (c : CoreSt) : State :=
  { one c k with dsp := { base.dsp with launches := [launchIn p recs] }, ts := 16000 }
theorem witness_LaunchPhases :
    (let s := launchState .queued [] { (default : ClusterSt) with pll := .running } default
     dspStopped s = false ∧ findLaunch s 0 = some (launchIn .queued []) ∧ (launchIn .queued []).id = 0 ∧
     ((clustersOf (launchIn .queued []).mask).any fun c => (s.cluster c).isolated) = false ∧
     (∀ c ∈ clustersOf (launchIn .queued []).mask, clusterFree s c = true) ∧ firstInLine s (launchIn .queued []) = true) ∧
    (let s := launchState .prepare [] { (default : ClusterSt) with pll := .running, prep := .clearing 0 } default
     findLaunch s 0 = some (launchIn .prepare []) ∧ (s.cluster 0).prep = .clearing 0 ∧ (s.cluster 0).pll = .running ∧
     enabledPos s 0 159 = true) ∧
    (let s := launchState .prepare [] { (default : ClusterSt) with pll := .running, prep := .ready 0 } default
     (launchIn .prepare []).phase = .prepare ∧ (launchIn .prepare []).status = stOK ∧
     (∀ c ∈ clustersOf (launchIn .prepare []).mask, (s.cluster c).prep = .ready 0 ∧ (s.cluster c).tokHeld = []) ∧
     (clustersOf (launchIn .prepare []).mask)[0]? = some 0 ∧ (159 : Nat) < enabledCount s 0 ∧ (enabledList s 0)[159]? = some 159) ∧
    (let s := launchState .running [] clus0 { core0 with st := .idle }
     (launchIn .running []).recs = [] ∧ (launchIn .running []).excWait = [] ∧
     (∀ c ∈ clustersOf (launchIn .running []).mask, clusterDone s false 0 c = true) ∧
     ((s.cluster 0).run.map (·.id)) = some 0) := by decide +kernel
theorem witness_LaunchHaltAndControl :
    (let s := launchState .halting [] clus0 core0
     frozen s = false ∧ findLaunch s 0 = some (launchIn .halting []) ∧ (launchIn .halting []).phase = .halting) ∧
    -- a record is written from 16,000 ticks after its opening
    (let s := launchState .running [default] clus0 core0
     (launchIn .running [default]).recs[0]? = some default ∧ (default : ExcRec).opened.toNat + 16000 ≤ s.ts.toNat) ∧
    (let s := launchState .running [] clus0 { core0 with st := .waiting }
     reachable s .host Reg.dspLaunchCmd = true ∧ launchOn s 0 0 = some (launchIn .running []) ∧ (s.core ⟨0, 0⟩).st = .waiting ∧
     enabledPos s 0 0 = true ∧ recordPending (launchIn .running []) ⟨0, 0⟩ = false ∧ launchOn s 1 0 = none ∧
     (launchIn .running []).id = 0 ∧ s.dsp.launches = [launchIn .running []]) := by decide +kernel

/-- A store-buffer entry of line 1 with attributes. -/
def sbOf (attr : BitVec 8) (k : SbKind) : SbEntry := { sb64 with attr := attr, kind := k }
/-- A core with that entry at the head of its buffer, and line 1 in its L2 where asked. -/
def drainState (attr : BitVec 8) (k : SbKind) (l2 : Bool) : State :=
  one { core0 with sb := [sbOf attr k] } { clus0 with l2 := if l2 then [(l2Set 1 * 8, some (way .M 1))] else [] }
/-- A load that waits for line 1. -/
def pend1 : PendLoad := { (default : PendLoad) with pa := 64, size := 8, d := 4, alloc := true, nopf := true }
theorem witness_BuffersDrain :
    -- write-back store of a held line
    (let s := drainState 0x10 .store true
     canDrain s ⟨0, 0⟩ = true ∧ (s.core ⟨0, 0⟩).sb = [sbOf 0x10 .store] ∧ (s.core ⟨0, 0⟩).cb = [] ∧ aDevo (0x10 : BitVec 8) = false ∧
     aWriteBack (0x10 : BitVec 8) = true) ∧
    -- a marker
    (let s := drainState 0x10 .marker false
     canDrain s ⟨0, 0⟩ = true ∧ relGo s ⟨0, 0⟩ (sbOf 0x10 .marker) = true) ∧
    -- a write-around store that no one holds
    (let s := drainState 0x58 .store false
     canDrain s ⟨0, 0⟩ = true ∧ aDevo (0x58 : BitVec 8) = false ∧ aWriteBack (0x58 : BitVec 8) = false ∧
     aWriteThrough (0x58 : BitVec 8) = false ∧ aEwa (0x58 : BitVec 8) = true ∧ inTransit (s.cluster 0) 1 = false ∧
     outOnLine s ⟨0, 0⟩ .device 1 = false ∧ l2Find (s.cluster 0) 1 = none) ∧
    -- the first line of a combining buffer
    (let s := one { core0 with cb := [cbLine 2] } clus0
     canDrain s ⟨0, 0⟩ = true ∧ (s.core ⟨0, 0⟩).cb[0]? = some (cbLine 2) ∧ (cbLine 2).sent = false ∧ (cbLine 2).dest = .device ∧
     inTransit (s.cluster 0) 2 = false ∧ l2Find (s.cluster 0) 2 = none) ∧
    -- a stalled load whose line has come, and a held way
    (let s := one { core0 with pend := some pend1 } { clus0 with l2 := [(l2Set 1 * 8, some (way .M 1))] }
     canDrain s ⟨0, 0⟩ = true ∧ pend1.pa / 64 = 1 ∧ lookL1 1 pend1.ctx (s.core ⟨0, 0⟩) = none ∧
     l2Find (s.cluster 0) 1 = some (l2Set 1 * 8, way .M 1)) := by decide +kernel
theorem witness_BuffersDrain_hits :
    l2Own (drainState 0x10 .store true) ⟨0, 0⟩ 0 1 false = .hit (l2Set 1 * 8) (way .M 1) ∧
    ∃ y, l2Read (one { core0 with pend := some pend1 } { clus0 with l2 := [(l2Set 1 * 8, some (way .M 1))] }) ⟨0, 0⟩ 0 1 true false false =
      .hit (l2Set 1 * 8) y ∧ y.poison = false := ⟨rfl, _, rfl, rfl⟩

/-! ### Coherence -/

/-- The die links up. -/
def linked : State := { base with d2d := (List.range 3).map fun n => (n, { (default : LinkSt) with st := .up }) }
/-- Clusters 0 and 1 run; some messages in flight. -/
def netState (net : List Msg) : State :=
  { linked with net := net, clus := [(0, { (default : ClusterSt) with pll := .running }), (1, { (default : ClusterSt) with pll := .running })] }
/-- A request of an agent for line 1, whose home is slice 0. -/
def req (k : MsgKind) (src : Agent) : Msg := { msg k src (.home 0) 1 0 with mask := 0xFF, data := 0x1234 }
/-- Line 1 is owned by cluster 0 in the directory. -/
def owned (s : State) : State :=
  s.modMem fun m => { m with dir := [(dirBase m 1, some { (default : DirEntry) with cst := .X, line := 1, sharers := 1 })] }
/-- Line 1 waits at the head of its home's queue. -/
def queued (k : MsgKind) (line : Nat) : State :=
  (netState []).modHome (homeOf base.mem line) fun x => { x with queue := [⟨{ req k (.cluster 0) with line := line }, true⟩] }
/-- A packed line, which no request may write. -/
def packedLine : Nat := 0x1000000000
theorem witness_HomesTakeRequestsAndVictims_queues :
    (∀ p ∈ [(MsgKind.rds, Agent.cluster 0), (.rdx, .cluster 0), (.rdc, .loupe), (.wrp, .dsp), (.red, .cluster 0), (.rdh, .hpt), (.wrh, .hpt)],
      let s := netState [req p.1 p.2]
      frozen s = false ∧ homeHeld s 0 = false ∧ (takeMsg s p.2 (.home 0) p.1).map (·.1) = some (req p.1 p.2) ∧
      (s.home 0).granted = [] ∧ sharedUsed (s.home 0) < 64 ∧ (s.cluster 0).isolated = false) := by decide +kernel
theorem witness_HomesTakeRequestsAndVictims_accepts :
    (let s := queued .rdx packedLine
     let m := { req .rdx (.cluster 0) with line := packedLine }
     (s.home (homeOf base.mem packedLine)).queue = [⟨m, true⟩] ∧ lineBusy s (homeOf base.mem packedLine) packedLine = false ∧
     refuses { s with snooped := s.snooped.filter (·.2 != packedLine) } m = true ∧ m.kind ≠ .red) ∧
    (let s := queued .rdx 1
     lineBusy s 0 1 = false ∧ (s.home 0).retry = [] ∧ refuses { s with snooped := s.snooped.filter (·.2 != 1) } (req .rdx (.cluster 0)) = false ∧
     dirFind s.mem 1 = none ∧ entryWay s 0 1 = some (dirBase s.mem 1, none) ∧ isPacked 1 = false) ∧
    (let s := queued .wrp 1
     refuses { s with snooped := s.snooped.filter (·.2 != 1) } (req .wrp (.cluster 0)) = false ∧ (req .wrp (.cluster 0)).k = false ∧
     dirFind s.mem 1 = none ∧ (s.home 0).txns = [] ∧ (s.home 0).vic = [] ∧ Memory.wf s.mem.cells = true) := by decide +kernel
theorem witness_HomesTakeRequestsAndVictims_victims :
    (∀ k ∈ [MsgKind.vcd, .vck, .vcn],
      let s := owned (netState [req k (.cluster 0)])
      (takeMsg s (.cluster 0) (.home 0) k).map (·.1) = some (req k (.cluster 0)) ∧ txnOf s 0 1 = none ∧ (s.home 0).vic = [] ∧
      (dirGet s.mem 1).cst = .X ∧ (dirGet s.mem 1).sharers = clBit 0 ∧ (dirFind s.mem 1).isSome = true ∧
      Memory.wf s.mem.cells = true) ∧
    (dirGet (netState []).mem 1).sharers.getLsbD 0 = false := by decide +kernel
/-- One directory way: no second one names line 1. -/
theorem witness_HomesTakeRequestsAndVictims_oneEntry (m : List Msg) : oneEntry (owned (netState m)).mem 1 := by
  intro i j e f hi hj _ _
  have key : ∀ k g, mgetD none (owned (netState m)).mem.dir k = some g → k = dirBase (netState m).mem 1 := by
    intro k g h
    simp only [owned, State.modMem, mgetD] at h
    split at h
    · rename_i he; exact he.symm
    · cases h
  rw [key i e hi, key j f hj]

/-- A message of home 0 to cluster 0 about line 1. -/
def toCl (k : MsgKind) : Msg := { msg k (.home 0) (.cluster 0) 1 0 with req := .cluster 1 }
/-- That message in flight, with cluster 0 as given. -/
def clState (m : Msg) (k : ClusterSt) : State := { one { core0 with pend := some pend1 } { k with pll := .running } with net := [m] }
/-- Line 1 in the L2. -/
def holds (st : L2State) : ClusterSt := { (default : ClusterSt) with l2 := [(l2Set 1 * 8, some (way st 1))] }
theorem witness_ClustersAnswerForwardsAndGrants_forwards :
    (∀ k ∈ [MsgKind.fsh, .fex, .frc, .inv],
      (∀ c ∈ [({ (default : ClusterSt) with wb := [⟨1, 0, false⟩] } : ClusterSt), default, holds .E, holds .M, holds .S, holds .UP],
        let s := clState (toCl k) c
        frozen s = false ∧ (s.cluster 0).isolated = false ∧ (takeMsg s (.home 0) (.cluster 0) k).map (·.1) = some (toCl k))) ∧
    ((clState (toCl .fsh) { (default : ClusterSt) with wb := [⟨1, 0, false⟩] }).cluster 0).wb.any (fun x => x.line == 1) = true ∧
    l2Find ((clState (toCl .fsh) default).cluster 0) 1 = none ∧
    (∀ st ∈ [L2State.E, .M, .S, .UP],
      let s := clState (toCl .fsh) (holds st)
      l2Find (s.cluster 0) 1 = some (l2Set 1 * 8, way st 1) ∧ holder s 0 (way st 1) = none) ∧ (toCl .fsh).orig ≠ .rdh := by decide +kernel
/-- A miss on line 1. -/
def miss1 (k : MissKind) : Miss := { (default : Miss) with kind := k, line := 1 }
theorem witness_ClustersAnswerForwardsAndGrants_answers :
    (let s := clState (toCl .dat) { (default : ClusterSt) with miss := [miss1 .rdx] }
     (takeMsg s (.home 0) (.cluster 0) .dat).map (·.1) = some (toCl .dat) ∧
     (s.cluster 0).miss.find? (fun y => y.line == 1) = some (miss1 .rdx) ∧ l2Find (s.cluster 0) 1 = none ∧
     fillWay s 0 1 = some (l2Set 1 * 8) ∧ mgetD none (s.cluster 0).l2 (l2Set 1 * 8) = none) ∧
    (let s := clState (toCl .gnt) (holds .UP)
     (takeMsg s (.home 0) (.cluster 0) .gnt).map (·.1) = some (toCl .gnt) ∧ l2Find (s.cluster 0) 1 = some (l2Set 1 * 8, way .UP 1)) ∧
    (let m := { toCl .cmp with flag := true, orig := .vcd, tag := .vic }
     let s := clState m { (default : ClusterSt) with wb := [⟨1, 0, false⟩] }
     (takeMsg s (.home 0) (.cluster 0) .cmp).map (·.1) = some m ∧ (s.cluster 0).wb = [⟨1, 0, false⟩]) ∧
    (let m := { toCl .cmp with tag := .write 7 }
     let o := { (default : OutWrite) with tag := 7 }
     let s := clState m { (default : ClusterSt) with outw := [o] }
     (takeMsg s (.home 0) (.cluster 0) .cmp).map (·.1) = some m ∧ m.flag = false ∧ o.keep = false) ∧
    (let m := { toCl .ncx with tag := .miss }
     let s := clState m { (default : ClusterSt) with miss := [miss1 .rds], run := some default }
     (takeMsg s (.home 0) (.cluster 0) .ncx).map (·.1) = some m ∧
     (s.cluster 0).miss.find? (fun y => y.line == 1) = some (miss1 .rds) ∧ (s.core ⟨0, 0⟩).pend = some pend1 ∧
     pend1.dest = .device ∧ pend1.pa / 64 = 1 ∧ (s.cluster 0).run = some default) ∧
    (let s := clState { toCl .rty with orig := .rds } default
     (takeMsg s (.home 0) (.cluster 0) .rty).isSome = true) ∧
    (let s := { clState (toCl .crg) default with retried := [req .rds (.cluster 0)] }
     (takeMsg s (.home 0) (.cluster 0) .crg).isSome = true ∧ s.retried = [req .rds (.cluster 0)]) := by decide +kernel

/-- A transaction on line 1 at slice 0. -/
def txn (ph : Phase) (wait : List (BitVec 6)) : Txn :=
  { (default : Txn) with line := 1, req := req .rdc (.cluster 0), phase := ph, wait := wait, entry := true }
/-- That transaction, and messages in flight. -/
def txnState (t : Txn) (net : List Msg) : State := ((netState net).modHome 0 fun x => { x with txns := [t] })
theorem witness_HomesTakeResponsesAndScan_responses :
    (∀ k ∈ [MsgKind.fak, .iak, .npr, .npd, .vpd, .fdt],
      let s := txnState (txn .snoop [0, 1]) [req k (.cluster 0)]
      frozen s = false ∧ (takeMsg s (.cluster 0) (.home 0) k).map (·.1) = some (req k (.cluster 0)) ∧
      txnOf s 0 1 = some (txn .snoop [0, 1]) ∧ (req k (.cluster 0)).flag = false ∧ (dirGet s.mem 1).cst ≠ .X ∧ (s.home 0).vic = [] ∧
      Memory.wf s.mem.cells = true) ∧
    (let s := txnState (txn .ack []) [req .ack (.cluster 0)]
     (takeMsg s (.cluster 0) (.home 0) .ack).map (·.1) = some (req .ack (.cluster 0)) ∧ (s.home 0).txns = [txn .ack []] ∧
     (txn .ack []).req.src = .cluster 0 ∧ (txn .ack []).old = none ∧ (s.home 0).retry = []) ∧
    (let m := { msg .bis (.home 0) .hpt 1 0 with bis := .inv }
     let s := netState [m]
     (takeMsg s (.home 0) .hpt .bis).map (·.1) = some m ∧ s.hpt.dead = false ∧ s.hpt.link = .l0 ∧ s.hpt.bis.length < 512) ∧
    (let m := { msg .hdt .hpt (.home 0) 1 0 with mask := 0xFF }
     (takeMsg (netState [m]) .hpt (.home 0) .hdt).map (·.1) = some m ∧ m.tag = .none) ∧ (0 : BitVec 6) ≠ 1 := by decide +kernel
/-- A BISnpInv that waits for the host's answer. -/
def bisState : State :=
  (owned (txnState { txn .snoop [1] with bis := some .inv } [])).modHpt fun p =>
    { p with bis := [{ (default : BisOut) with line := 1, hdt := true }] }
theorem witness_HomesTakeResponsesAndScan_scans :
    (bisState.hpt.bis = [{ (default : BisOut) with line := 1, hdt := true }] ∧ homeOf bisState.mem 1 = 0 ∧
     (bisState.net.any fun x => x.kind == .hdt && x.line == 1) = false ∧
     txnOf bisState 0 1 = some { txn .snoop [1] with bis := some .inv }) ∧
    (let s := { txnState (txn .snoop [0, 1]) [] with ts := 10000000 }
     txnOf s 0 1 = some (txn .snoop [0, 1]) ∧ (txn .snoop [0, 1]).wait.contains 0 = true ∧
     (txn .snoop [0, 1]).fwdTs.toNat + max (s.fld (homeReg 0 Reg.homeFwdTmo) 0 16) 50 * 80 ≤ s.ts.toNat ∧
     pathUp s (dieOfAgent (.home 0)) (dieOfAgent (.cluster 0)) = true ∧ (s.cluster 0).isolated = false) ∧
    (let s := (netState []).modHome 0 fun x => { x with reclaim := [(0, true)], hostReclaim := true }
     (s.home 0).reclaim = [(0, true)] ∧ (s.home 0).queue = [] ∧ (s.home 0).vic = [] ∧ s.net = [] ∧ s.mem.dir = [] ∧
     (s.home 0).hostReclaim = true) ∧
    (let s := (netState []).modMem fun m => { m with flipping := [(3, [1])] }
     s.mem.flipping = [(3, [1])] ∧ ([1] : List (BitVec 8)).contains 0 = false ∧ s.mem.dir = [] ∧ (s.home 0).txns = []) := by decide +kernel
theorem witness_HomesTakeResponsesAndScan_oneEntry : oneEntry bisState.mem 1 := by
  intro i j e f hi hj _ _
  have key : ∀ k g, mgetD none bisState.mem.dir k = some g → k = dirBase bisState.mem 1 := by
    intro k g h
    simp only [bisState, owned, State.modMem, State.modHpt, mgetD] at h
    split at h
    · rename_i he; exact he.symm
    · cases h
  rw [key i e hi, key j f hj]

/-! ### Packed space, adds, maintenance, scrub -/

/-- A read of the first packed line waits for its decompressor. -/
def dcxState (exp : List (Nat × List Line)) : State :=
  let t := { txn .expand [] with line := packedLine, req := { req .rdc (.cluster 0) with line := packedLine } }
  ((netState []).modHome (homeOf base.mem packedLine) fun x => { x with txns := [t] }).modMem fun m =>
    { m with dcx := [((dcxOfLine base.mem packedLine).toNat, { (default : DcxSt) with exp := exp })] }
theorem witness_PackedReadsAddsAndMaintenance_reads :
    (∀ exp ∈ [[], [(0, List.replicate 64 (7 : Line))]],
      let s := dcxState exp
      let h := homeOf base.mem packedLine
      frozen s = false ∧ Memory.wf s.mem.cells = true ∧ homeOf s.mem packedLine = h ∧ ((s.home h).txns.map (·.line)) = [packedLine] ∧
      ((s.home h).txns.map (·.phase)) = [.expand] ∧ (s.home h).vic = [] ∧ (s.home h).retry = [] ∧
      dcxOfLine s.mem packedLine = dcxOfLine base.mem packedLine ∧ (dcxOf s (dcxOfLine s.mem packedLine)).exp = exp ∧
      (s.reg (Reg.mbd (dcxDie (dcxOfLine s.mem packedLine)) Reg.dcxPptLo)).getLsbD 0 = false) ∧
    (granuleOf base.mem packedLine).1 = 0 := by decide +kernel
/-- A directory-free slice with one dirty base-cache way, and range engine 32 of MBD0 over line 1. -/
def rmState (op : RmOp) : State :=
  (netState []).modMem fun m => { m with
    rm := [(32, some ⟨op, 64, 64, none, []⟩)]
    bcc := [(bccBase m 1, some ⟨1, true, 1, 7, false⟩)] }
/-- The cluster engine of cluster 0 invalidates line 1, held in E. -/
def rmClState : State :=
  { netState [] with clus := [(0, { holds .E with pll := .running })], mem := { base.mem with rm := [(0, some ⟨.invalidate, 64, 64, none, []⟩)] } }
theorem witness_PackedReadsAddsAndMaintenance_engines :
    (reachable linked .mgc (Reg.mbd false Reg.dcxCtrl) = true ∧ reachable linked .mgc (Reg.mbd true Reg.dcxCtrl) = true) ∧
    (let s := txnState { txn .nmu [] with req := { req .red (.cluster 0) with red := .i32, off := 4 } } []
     homeOf s.mem 1 = 0 ∧ ((s.home 0).txns.map (·.phase)) = [.nmu] ∧ (s.home 0).vic = [] ∧ (s.home 0).retry = []) ∧
    (∀ n ∈ [(0 : BitVec 6), 32],
      n.toNat ≤ 32 ∧ reachable linked .mgc (rmReg false n.toNat 0x10) = true ∧
      -- length 0; then 64 bytes at 64
      regPair linked (rmReg false n.toNat 0x08) = 0 ∧ mgetD none linked.mem.rm (rmKeyOf false n.toNat) = none ∧
      (let s := (linked.setReg (rmReg false n.toNat 0x00) 64).setReg (rmReg false n.toNat 0x08) 64
       regPair s (rmReg false n.toNat 0x00) = 64 ∧ regPair s (rmReg false n.toNat 0x08) = 64 ∧
       reachable s .mgc (rmReg false n.toNat 0x10) = true)) ∧
    (∀ op ∈ [RmOp.clean, .invalidate, .cleanInvalidate],
      let s := rmState op
      (mgetD none s.mem.rm (rmKeyOf false 32)).isSome = true ∧ dieOfHome (BitVec.ofNat 8 (bccBase base.mem 1 / 65536)) = false ∧
      inRange ⟨op, 64, 64, none, []⟩ 1 = true ∧ reachable s .mgc (rmReg false 32 0x10) = true) ∧
    (let s := rmClState
     mgetD none s.mem.rm (rmKeyOf false 0) = some ⟨.invalidate, 64, 64, none, []⟩ ∧ (s.cluster 0).pll = .running ∧
     (s.cluster 0).isolated = false ∧ l2Find (s.cluster 0) 1 = some (l2Set 1 * 8, way .E 1) ∧ holder s 0 (way .E 1) = none ∧
     inTransit (s.cluster 0) 1 = false ∧ vicSlot s 0 1 = true) ∧
    (let s := netState []
     (scrubPlace s.mem 1).isSome = true ∧ dieOfHome (homeOf s.mem 1) = false ∧
     ((s.setReg (Reg.mbd false Reg.scrCtl) 1).reg (Reg.mbd false Reg.scrCtl)).getLsbD 0 = true ∧ lineBusy s 0 1 = false) := by decide +kernel

/-! ### Translation -/

/-- A table for context 0: the context entry at 0, tables at 4 KiB, 8 KiB and 12 KiB, page 0 at device address 0. -/
def tables : State :=
  { linked.setReg Reg.xltCtxtLo 1 with
    mem := { linked.mem with cells := [(0, 0x01), (1, 0x10), (0x1000, 0x01), (0x1001, 0x20), (0x2000, 0x01), (0x2001, 0x30), (0x3000, 0x1F)] } }
/-- A core gated on page 0 asks for it. -/
def xreq : XltReq := ⟨.core ⟨0, 0⟩, 0, 64, .read, false⟩
/-- Requests, walks, stalled requests and records of the block. -/
def xltState (reqs walks stalled : List XltReq) (recs : List FaultRec) : State :=
  { tables with
    cores := [(0, { core0 with st := .gated .xlt, xwait := some default })], clus := [(0, clus0)]
    xlt := { tables.xlt with reqs := reqs, walks := walks, stalled := stalled, recs := recs }
    ts := 16000 }
/-- A fault record of page 0. -/
def frec (delivered inBatch ovt : Bool) : FaultRec :=
  { (default : FaultRec) with delivered := delivered, inBatch := inBatch, ovt := ovt, waiters := [.core ⟨0, 0⟩] }
theorem witness_WalksOpenRecordsAndBatchesAreWritten :
    (∀ recs ∈ [[], [frec false false false]],
      let s := xltState [xreq] [] [] recs
      frozen s = false ∧ s.xlt.stalled = [] ∧ takeFirst (fun q : XltReq => q.wt == .core ⟨0, 0⟩) s.xlt.reqs = some (xreq, []) ∧
      pageHeld s 0 64 = false ∧ openRec s 0 64 = recs.head?) ∧
    (let s := xltState [] [] [xreq] []
     takeFirst (fun q : XltReq => q.wt == .core ⟨0, 0⟩) s.xlt.stalled = some (xreq, []) ∧ (ovtRecs s).length < 256 ∧ openRec s 0 64 = none) ∧
    (let s := xltState [] [xreq] [] []
     s.xlt.walks = [xreq] ∧ vpnOf xreq.va.toNat = (0 : BitVec 27).toNat ∧ (s.core ⟨0, 0⟩).st = .gated .xlt) ∧
    (let q : XltReq := { xreq with va := 0x10000000000000 }
     let s := (xltState [] [q] [] []).setReg Reg.xltFqLo 1
     q.va.extractLsb' 52 12 ≠ 0 ∧ vpnOf q.va.toNat = (0 : BitVec 27).toNat ∧ s.xlt.batch = none ∧ 0 < fqRoom s ∧ q.pf = false) ∧
    (let s := (xltState [] [] [] [frec false false true]).setReg Reg.xltFqLo 1
     s.xlt.recs = [frec false false true] ∧ s.xlt.batch = none ∧ 0 < fqRoom s) ∧
    reachable linked .mgc Reg.xltFqRd = true ∧ reachable linked .mgc Reg.xltOwnTag = true ∧
    (locate linked.mem (linked.fld Reg.xltOwnPage 0 18 * 2 ^ 25)).isSome = true ∧
    (locate linked.mem ((linked.setReg Reg.xltOwnPage 0x6000).fld Reg.xltOwnPage 0 18 * 2 ^ 25)).isNone = true := by decide +kernel
/-- The walk of page 0 finds a leaf. -/
theorem witness_WalksOpenRecordsAndBatchesAreWritten_walk :
    (match walk (xltState [] [xreq] [] []) 0 64 .read with
      | .ok l _ _ => l == leafOf 0x1F false
      | _ => false) = true := by decide +kernel
/-- A closed batch of one record can be written. -/
theorem witness_WalksOpenRecordsAndBatchesAreWritten_batch :
    (let s := { xltState [] [] [] [frec false true false] with xlt := { tables.xlt with recs := [frec false true false], batch := some (0, false) } }
     frozen s = false ∧ s.xlt.batch = some (0, false) ∧ s.xlt.writing = 0 ∧ (0 : Stamp).toNat + 16000 ≤ s.ts.toNat ∧
     (match writeRecs s (s.reg Reg.xltFqWr).toNat [frec false true false] with
       | .ok _ => true
       | .error _ => false) = true) := by decide +kernel
/-- A delivered record of page 0 whose waiter is core 0. -/
def rsvState : State := xltState [] [] [] [frec true false false]
/-- An invalidation of context 0 runs; nothing uses it. -/
def invState : State := { tables with xlt := { tables.xlt with inv := some (true, 0, 0, 0) } }
/-- A paused DMA of no remaining line, at GEN 0. -/
def pausedState : State := { tables with dsp := { tables.dsp with dma := [(0, [{ (default : Dma) with paused := true }])] } }
theorem witness_ResolvesReleaseWaitersAndInvalidationsDrop :
    (let s := rsvState
     frozen s = false ∧ reachable s .mgc Reg.xltRsvCmd = true ∧ s.xlt.recs = [frec true false false] ∧
     rsvKey s = ((frec true false false).ctx, (frec true false false).vpn) ∧ (s.core ⟨0, 0⟩).st = .gated .xlt ∧
     (s.core ⟨0, 0⟩).xwait = some default ∧ (s.cluster 0).run = some default) ∧
    linked.xlt.recs = [] ∧ reachable linked .mgc Reg.xltRsvCmd = true ∧ reachable linked .mgc Reg.xltInvCmd = true ∧
    linked.xlt.inv = none ∧ invCover linked true = some ⟨0, true, 0, 0⟩ ∧ invCover linked false = none ∧
    invCover (linked.setReg Reg.xltInvPages 1) false = some ⟨0, false, 0, 1⟩ ∧ invState.xlt.inv.isSome = true ∧
    reachable invState .mgc Reg.xltInvCmd = true ∧ invQuiet invState ⟨0, true, 0, 0⟩ = true ∧
    (match genAdvance invState 0 with
      | .ok _ => true
      | .error _ => false) = true ∧
    (let s := { invState with regs := linked.regs }
     (s.reg Reg.xltCtxtLo).getLsbD 0 = false ∧ invQuiet s ⟨0, true, 0, 0⟩ = true) ∧
    (let s := pausedState
     frozen s = false ∧ dmaHead s 0 = some { (default : Dma) with paused := true } ∧
     (match readGen s 0 with
       | .ok (g, _) => g == 0
       | .error _ => false) = true ∧ ((dmaPages { (default : Dma) with paused := true }).all fun _ => false) = true) := by decide +kernel

/-! ### The dispatcher -/

/-- An agent's access is answered, with a result of which p holds. -/
def okAg {α : Type} (r : AgRes α) (p : α → Bool) : Bool :=
  match r with
  | .ok v => p v
  | _ => false
/-- A read is answered, with a result of which p holds. -/
def okEx {α : Type} (r : Except Ask α) (p : α → Bool) : Bool :=
  match r with
  | .ok v => p v
  | .error _ => false

/-- The dispatcher may act: D0, out of reset. -/
def dspState (r : RingSt) : State :=
  { linked with dsp := { linked.dsp with rings := [(5, r)] }, ts := 16000 }
/-- A ring of 64 slots that is on. -/
def ringOn : RingSt := { (default : RingSt) with on := true, base := 0x100000, log2 := 12, ctx := 7 }
/-- A command of ring 5, context 7, with a body. -/
def cmdK (k : BitVec 8) (body : BitVec 256) : Cmd :=
  { (default : Cmd) with ring := 5, ctx := 7, opc := k, body := body }
/-- Ring 5 holds a command whose gate is met. -/
def holdsCmd (c : Cmd) (started : Bool) : State :=
  dspState { ringOn with held := some { (default : HeldCmd) with cmd := c, gateMet := true, started := started } }
/-- The held command. -/
def heldOf (s : State) : HeldCmd := ((s.ring 5).held).getD default
/-- The ring table at 0x10000: entry 5 at 0x10140, base 0x100000, LOG2SIZE 12, CTX 7, event ring 0. -/
def ringTable : State :=
  { (dspState default).setReg Reg.dspRtabLo 0x10000 with
    mem := { linked.mem with cells := [(0x10140, 12), (0x10142, 0x10), (0x10148, 7)] } }
theorem witness_RingsTakeAndStartCommands_doors :
    reachable linked .mgc Reg.dspDb = true ∧ reachable linked .mgc Reg.dspRingCtl = true ∧
    (let s := dspState ringOn
     reachable s .mgc Reg.dspRingCtl = true ∧ frozen s = false ∧ (s.ring 5).on = true ∧ (s.ring 5).held = none ∧
     (s.ring 5).active = [] ∧ (s.ring 5).step = none ∧
     -- 64 slots: a doorbell of 65 claims too many, one of 64 does not
     slotsOf (s.ring 5).log2 < ((65 : BitVec 32) - (s.ring 5).rd).toNat ∧ ¬ slotsOf (s.ring 5).log2 < ((64 : BitVec 32) - (s.ring 5).rd).toNat) ∧
    (let s := dspState { ringOn with active := [(0, none)] }
     reachable s .mgc Reg.dspRingCtl = true ∧ frozen s = false ∧ (s.ring 5).on = true ∧ (s.ring 5).active ≠ []) := by decide +kernel
theorem witness_RingsTakeAndStartCommands_enable :
    (let s := ringTable.modEv 0 fun e => { e with bound := true }
     reachable s .mgc Reg.dspRingCtl = true ∧ dspStopped s = false ∧ (s.ring 5).on = false ∧
     okAg (agentWord s .dsp 0 (ringEntry s 5) 64) (fun (v, p, _) =>
       (s.ctxSlot (BitVec.ofNat 20 (bitsN v 64 20))).isNone && !p && ringEntryOk v && decide (slotsUsed s < 256) &&
         (s.ev (BitVec.ofNat 8 (bitsN v 112 8))).bound) = true) ∧
    -- an entry of zeros has no legal size
    (let s := dspState default
     okAg (agentWord s .dsp 0 (ringEntry s 5) 64) (fun (v, p, _) =>
       (s.ctxSlot (BitVec.ofNat 20 (bitsN v 64 20))).isNone && !p && !ringEntryOk v) = true) := by decide +kernel
/-- Ring 5 is due. -/
def dueState (cells : List Host.Cell) : State :=
  let s := (dspState ringOn).setReg (Reg.dspDb + 4 * 5) 1
  { s with mem := { s.mem with cells := cells } }
theorem witness_RingsTakeAndStartCommands_take :
    (∀ cells ∈ ([[], [(0x100001, 0x80)]] : List (List Host.Cell)),
      let s := dueState cells
      dspStopped s = false ∧ pickRing s = some 5 ∧ (s.ring 5).on = true ∧ (s.ring 5).closing = false ∧
      okAg (agentRead s .dsp 0 0 (((s.ring 5).base + 64 * ((s.ring 5).rd.toNat % slotsOf (s.ring 5).log2)) / 64) false) (fun (d, p, s1) =>
        let c := cmdOf 5 (s.ring 5).ctx (s.ring 5).rd (s.ring 5).step d
        !p && okAg (agentPut s1 .dsp 0 (ringEntry s1 5 + 0x10) 4 ((s.ring 5).rd + 1).toNat) (fun _ => true) &&
          -- a slot of zeros is a NOP; a reserved header bit is refused
          (if cells = [] then headerOk c d && bodyOk c && c.opc == 0 && !c.wait else !headerOk c d)) = true) := by decide +kernel
/-- A NOP that waits for the word at 0, its page translated to device address 0, the page owned by context 7. -/
def gateHeld (ts : Stamp) : State :=
  let s := dspState { ringOn with held := some { (default : HeldCmd) with
    cmd := { cmdK 0 0 with wait := true, waitVal := 0 }, gateTs := ts, pages := [((0, .read), leafOf 0x1F false)] } }
  { s with mem := { s.mem with owner := [(0, 7)] } }
theorem witness_RingsTakeAndStartCommands_gate :
    let s := gateHeld 0
    let h := heldOf s
    dspStopped s = false ∧ (s.ring 5).held = some h ∧ (s.ring 5).closing = false ∧ h.cmd.ring = 5 ∧ h.cmd.wait = true ∧
    h.gateMet = false ∧ h.gateWait = false ∧ h.gateTs = 0 ∧
    ((cmdPages s h.cmd).all fun q => h.pages.any (·.1 == q)) = true ∧
    leafFor h.pages h.cmd.waitAddr.toNat .read = some (leafOf 0x1F false) ∧ destOf (leafOf 0x1F false) = .device ∧
    okAg (agentReadAny s .dsp 0 h.cmd.ctx (physOf (leafOf 0x1F false) h.cmd.waitAddr.toNat / 64) false) (fun (_, p, _) => !p) = true := by
  decide +kernel
/-- The same gate on a poisoned line. -/
theorem witness_RingsTakeAndStartCommands_gatePoison :
    let s := (gateHeld 0).modMem fun m => { m with poison := [0] }
    okAg (agentReadAny s .dsp 0 7 (physOf (leafOf 0x1F false) 0 / 64) false) (fun (_, p, _) => p) = true := by decide +kernel
theorem witness_RingsTakeAndStartCommands_start :
    (let s := holdsCmd (cmdK 0 0) false
     let h := heldOf s
     dspStopped s = false ∧ (s.ring 5).held = some h ∧ h.started = false ∧ h.gateMet = true ∧ kindReady s h = true ∧
     h.cmd.opc ≠ 2 ∧ cmdPages s h.cmd = []) ∧
    (let s := (gateHeld 0).modRing 5 fun x => { x with held := x.held.map fun h => { h with gateMet := true } }
     let h := heldOf s
     dspStopped s = false ∧ (s.ring 5).held = some h ∧ h.started = false ∧ h.gateMet = true ∧ kindReady s h = true ∧
     h.cmd.opc ≠ 2 ∧ ((cmdPages s h.cmd).all fun q => h.pages.any (·.1 == q)) = true ∧
     okEx (readGen s h.cmd.ctx) (fun (g, _) => h.gen == g) = true) := by decide +kernel

/-- Context 7 has a slot with these steps. -/
def ctxState (s : State) (next : Option (BitVec 16)) (steps : List Step) : State :=
  { s with dsp := { s.dsp with ctxs := [(7, some ⟨0, false, [5], 5, next, steps⟩)] } }
/-- A step of ring 5. -/
def step1 (started : Bool) : Step := ⟨1, 5, 0, 0, started, 0⟩
/-- A marker of a FENCE or STEP_END of ring 5. -/
def markState (k : BitVec 8) (body : BitVec 256) : State :=
  let s := dspState ringOn
  { s with dsp := { s.dsp with markers := [{ (default : Marker) with cmd := cmdK k body }] } }
/-- One page job whose pages are done. -/
def jobState (k : BitVec 8) : State :=
  let s := dspState ringOn
  { s with dsp := { s.dsp with jobs := [{ (default : PageJob) with cmd := cmdK k 0 }] } }
/-- A two-line DMA in queue 3 that has read its last line. -/
def dmaState : State :=
  let s := dspState ringOn
  let x : Dma := { (default : Dma) with
    cmd := cmdK 2 0, dst := 0x1000, lines := 2, next := 1, buf := some (5, false), pages := [((0, .write), leafOf 0x1F false)] }
  { s with dsp := { s.dsp with dma := [(3, [x])] }, mem := { s.mem with owner := [(0, 7)] } }
theorem witness_CommandsRunAndComplete_started :
    ∀ k ∈ [(0 : BitVec 8), 1, 2, 4, 8, 10],
      let s := holdsCmd (cmdK k 0) true
      let h := heldOf s
      dspStopped s = false ∧ startedCmd s 5 k = some h ∧ h.cmd.ring = 5 ∧ (s.ring 5).closing = false ∧ h.cmd.norec = false ∧
      (s.ring 5).step ≠ some (BitVec.ofNat 16 (bodyNat h.cmd 0x10 2)) := by decide +kernel
theorem witness_CommandsRunAndComplete_norec :
    let s := holdsCmd { cmdK 8 0 with norec := true } true
    let h := heldOf s
    dspStopped s = false ∧ startedCmd s 5 8 = some h ∧ h.cmd.ring = 5 ∧ (s.ring 5).closing = false ∧ h.cmd.norec = true := by decide +kernel
theorem witness_CommandsRunAndComplete_dma :
    let s := dmaState
    let x := (dmaHead s 3).getD default
    dspStopped s = false ∧ dmaHead s 3 = some x ∧ 0 < x.next ∧ x.lines = x.next + 1 ∧ x.waiting = false ∧ x.paused = false ∧
    x.buf = some (5, false) ∧ x.status = stOK ∧ (s.ring x.cmd.ring).closing = false ∧ x.cmd.norec = false ∧
    leafFor x.pages (x.dst.toNat + 64 * x.next) .write = some (leafOf 0x1F false) ∧
    okAg (agentWrite s .dsp 0 x.cmd.ctx (physOf (leafOf 0x1F false) (x.dst.toNat + 64 * x.next) / 64) Mask.full 5 false x.stream)
      (fun _ => true) = true := by decide +kernel
theorem witness_CommandsRunAndComplete_markers :
    (let s := markState 4 0
     dspStopped s = false ∧ findMarker s 5 0 4 = some { (default : Marker) with cmd := cmdK 4 0 } ∧ (s.ring 5).closing = false) ∧
    (let c := cmdK 10 (0x10000)
     let s := markState 10 (0x10000)
     dspStopped s = false ∧ findMarker s 5 0 10 = some { (default : Marker) with cmd := c } ∧ bodyNat c 0x12 1 = 1 ∧
     (s.ring 5).closing = false ∧ c.norec = false ∧ c.ring = 5) ∧
    -- STEP_END of the step open on its ring
    (let s := (holdsCmd (cmdK 10 1) true).modRing 5 fun x => { x with step := some 1 }
     startedCmd s 5 10 = some (heldOf s) ∧ (s.ring 5).step = some (BitVec.ofNat 16 (bodyNat (heldOf s).cmd 0x10 2))) := by decide +kernel
theorem witness_CommandsRunAndComplete_pages :
    (let s := holdsCmd (cmdK 5 (1 * 2 ^ 64 + 2 ^ 80)) true
     let c := (heldOf s).cmd
     startedCmd s 5 5 = some (heldOf s) ∧ c.ring = 5 ∧ c.norec = false ∧ s.dsp.jobs = [] ∧ s.mem.flipping = [] ∧
     bodyNat c 0x1A 1 % 2 = 1 ∧ biasPages c = [0]) ∧
    (∀ k ∈ [(6 : BitVec 8), 7],
      let s := jobState k
      ∃ j ∈ s.dsp.jobs, s.dsp.jobs = [j] ∧ j.pages = [] ∧ j.cmd.ring = 5 ∧ j.cmd.norec = false ∧ (s.ring 5).closing = false ∧
        (s.ring 5).held = none ∧ j.cmd.opc = k ∧ j.skipped = []) := by decide +kernel
theorem witness_CommandsRunAndComplete_steps :
    (let s := ctxState (holdsCmd (cmdK 9 1) false) none []
     let c := (heldOf s).cmd
     dspStopped s = false ∧ (s.ring 5).held = some (heldOf s) ∧ c.opc = 9 ∧ c.ring = 5 ∧ c.step = none ∧ (s.ring 5).step = none ∧
     s.ctxSlot c.ctx = some ⟨0, false, [5], 5, none, []⟩) ∧
    (let s := ctxState (holdsCmd { cmdK 9 1 with step := some 1 } false) (some 2) [step1 false]
     let h := heldOf s
     dspStopped s = false ∧ (s.ring 5).held = some h ∧ h.cmd.opc = 9 ∧ h.cmd.ring = 5 ∧ h.cmd.wait = false ∧ h.gateMet = true ∧
     h.cmd.step = some 1 ∧ s.ctxSlot h.cmd.ctx = some ⟨0, false, [5], 5, some 2, [step1 false]⟩ ∧ (s.ring 5).closing = false ∧
     h.cmd.norec = false ∧ ([step1 false].find? fun t => t.num == 1 && t.ring == 5 && !t.started) = some (step1 false) ∧
     ∀ v ∈ [step1 false], earlier v.num 1 = true → traysMeet (step1 false) v = false) := by decide +kernel
/-- An event ring with a record to write. -/
def evState : State :=
  (dspState ringOn).modEv 9 fun e => { e with bound := true, base := 0x200000, log2 := 12, recs := [7] }
theorem witness_CommandsRunAndComplete_events :
    (let s := evState
     (s.ev 9).recs = [7] ∧ (s.ev 9).bound = true ∧
     ((s.ev 9).wr - s.reg (Reg.dspEvRd + 4 * 9)).toNat ≠ slotsOf (s.ev 9).log2 ∧
     okAg (agentWrite s .dsp 0 0 (((s.ev 9).base + 64 * ((s.ev 9).wr.toNat % slotsOf (s.ev 9).log2)) / 64) Mask.full 7 false false)
       (fun s1 => okAg (agentPut s1 .dsp 0 (evEntry s1 9 + 8) 4 ((s.ev 9).wr + 1).toNat) (fun _ => true)) = true) ∧
    reachable linked .mgc Reg.dspEvRd = true ∧
    (let x : CtxSt := ⟨0, false, [], 5, none, []⟩
     let s := { dspState ringOn with dsp := { linked.dsp with ctxs := [(7, some x)] } }
     s.ctxSlot 7 = some x ∧ x.rings = [] ∧ dspStopped s = false) := by decide +kernel

/-! ### The fabric -/

/-- A port that is up, with credits, and these packets received. -/
def upPort (rx : List Packet) : PortSt := { (default : PortSt) with st := .up, crRsp := 512, crCtl := 128, crReq := 1536, rx := rx }
/-- Port 2 is up; this complex is rank 3 at address 0; every address is reached by port 2; context 7 owns page 0. -/
def fabState (rx : List Packet) : State :=
  { linked.setReg Reg.fabMyrank 0x80000003 with
    fab := { linked.fab with
      ports := [(2, upPort rx)]
      rankTab := [(3, some 0x80000009)]
      routeTab := [(routeIndex 0 9, some 4)] }
    mem := { linked.mem with owner := [(0, 7)] }
    ts := 40000000 }
/-- A packet of a type and class from address 9 for rank 3, the first of flow 1. -/
def pkt (ty : BitVec 8) (cls : BitVec 2) (pay : List Line) : Packet :=
  { (default : Packet) with ty := ty, cls := cls, src := 9, drank := 3, flow := 1, ctx := 7, arg := 64, pay := pay }
/-- A frame. -/
def frame (good null : Bool) (fsn : BitVec 16) (words : List (BitVec 128)) : Frame :=
  ⟨good, 0, fsn, 0, false, null, 1, 1, 1, words⟩
/-- One port in a state. -/
def portState (x : PortSt) : State := { fabState [] with fab := { (fabState []).fab with ports := [(2, x)] } }
theorem witness_FabricFramesPortsAndTime_frames :
    (let s := fabState []
     frozen s = false ∧ (s.port 2).st = .up ∧ (s.port 2).await = false ∧ (frame false false 0 []).good = false ∧
     (frame true false 5 []).fsn ≠ (s.port 2).rxFsn + 1 ∧ (frame true true 0 []).null = true ∧
     -- a header word of ACK for address 0, class RSP: one packet of three words and nothing over
     (let f := frame true false ((s.port 2).rxFsn + 1) [0x10, 0, 0, 0]
      let c := cutPackets ((s.port 2).part ++ f.words).length ((s.port 2).part ++ f.words)
      c = ([(c.1[0]?).getD default], []) ∧ typeClass ((c.1[0]?).getD default).ty = some ((c.1[0]?).getD default).cls ∧
      ((c.1[0]?).getD default).dst = (s.reg Reg.fabMyaddr).extractLsb' 0 16)) ∧
    (let s := fabState []
     let f := frame true false ((s.port 2).rxFsn + 1) [0x7F, 0, 0, 0]
     let c := cutPackets ((s.port 2).part ++ f.words).length ((s.port 2).part ++ f.words)
     c = ([(c.1[0]?).getD default], []) ∧ typeClass ((c.1[0]?).getD default).ty ≠ some ((c.1[0]?).getD default).cls) := by decide +kernel
theorem witness_FabricFramesPortsAndTime_ports :
    (let s := portState { upPort [] with unacked := [(4, 8)] }
     frozen s = false ∧ (s.port 2).st = .up ∧ (s.port 2).unacked = (4, 8) :: []) ∧
    (∀ k ∈ [0, 1, 2],
      let s := portState { upPort [] with st := .training, fails := k }
      frozen s = false ∧ (s.port 2).st = .training ∧ (s.port 2).fresh = false ∧ (s.port 2).fails = k) ∧
    (∀ st ∈ [PortState.off, .training, .up, .failed],
      let s := portState { upPort [] with st := st }
      reachable s .mgc (Reg.fabPort (2 : BitVec 4).toNat 0) = true ∧ (s.port 2).st = st) ∧
    (let s := portState { upPort [] with st := .training, fresh := true }
     (s.port 2).st = .training ∧ (s.port 2).fresh = true) ∧
    reachable linked .mgc Reg.fabTabCtl = true ∧ reachable linked .mgc Reg.fabDeadClr = true := by decide +kernel
/-- A follower with parent port 2. -/
def follower (rx : List Packet) : State := (fabState rx).setReg Reg.fabTsCtl 0x12
/-- A TSY answer whose four times are a, b, b and TS64. -/
def tsyAnswer (a b : Stamp) : Packet := { tsyPacket 0 0 a b b true with src := 9 }
theorem witness_FabricFramesPortsAndTime_time :
    (let s := follower []
     tsRole s = 1 ∧ portReady (s.port (BitVec.ofNat 4 (s.fld Reg.fabTsCtl 0 4))) (tsyPacket 0 0 s.ts 0 0 false) = true ∧
     s.fab.tsyTs.toNat + 20000000 ≤ s.ts.toNat) ∧
    (let p := { tsyPacket 0 0 0 0 0 false with src := 9 }
     let s := follower [p]
     (rxTake s 2 0x30).map (·.1) = some p ∧ p.body.getLsbD 192 = false ∧ tsRole s ≠ 0 ∧
     portReady ((((rxTake s 2 0x30).map (·.2)).getD s).port 2) (tsyPacket p.src p.arg 0 0 0 true) = true) ∧
    tsRole (follower [tsyAnswer 40000000 40400000]) = 1 ∧ (tsyAnswer 40000000 40400000).body.getLsbD 192 = true ∧
    -- no offset; 100 us behind; 100 us ahead (a stamp is 250 ps)
    offsetOf 40000000 40000000 40000000 40000000 0 = 0 ∧ offsetOf 40000000 40400000 40400000 40000000 0 = 100000000 ∧
    offsetOf 40000000 39600000 39600000 40000000 0 = -100000000 := by decide +kernel
/-- The answers of these offsets are taken from the port. -/
theorem witness_FabricFramesPortsAndTime_answer (b : Stamp) :
    (rxTake (follower [tsyAnswer 40000000 b]) 2 0x30).map (·.1) = some (tsyAnswer 40000000 b) := rfl
/-- A request of a flow may be performed now. -/
def mayPerform (s : State) (p : Packet) (lines : Nat) : Prop :=
  frozen s = false ∧ Memory.wf s.mem.cells = true ∧ s.prz.out = [] ∧ s.fab.flows = [] ∧ p.fseq = p.base ∧
    (s.reg Reg.fabMyrank).getLsbD 31 = true ∧ (s.reg Reg.fabMyrank).extractLsb' 0 16 = p.drank ∧ takesLine s .fab p.ctx (pktLine p) = true ∧
    s.fab.dead.contains p.src = false ∧
    choosePort s 4 { (default : Packet) with cls := 0, pay := List.replicate lines 0 } = some 2
theorem witness_FabricPacketsArePerformedAnsweredAndResent_requests :
    (let p := pkt 0x01 2 [5]
     mayPerform (fabState [p]) p 0 ∧ (rxTake (fabState [p]) 2 0x01).map (·.1) = some p) ∧
    (let p := pkt 0x02 2 [5, 0xFF]
     mayPerform (fabState [p]) p 0 ∧ (rxTake (fabState [p]) 2 0x02).map (·.1) = some p ∧
     (dirGet (fabState [p]).mem (pktLine p)).sharers = 0) ∧
    (let p := pkt 0x03 2 []
     mayPerform (fabState [p]) p 1 ∧ (rxTake (fabState [p]) 2 0x03).map (·.1) = some p ∧
     (dirGet (fabState [p]).mem (pktLine p)).cst ≠ .X ∧ p.arg.extractLsb' 48 6 = 0) ∧
    mgetD none (fabState []).fab.routeTab (routeIndex (((fabState []).reg Reg.fabMyaddr).extractLsb' 0 16) 9) = some 4 ∧
    (∀ ty ∈ [(0x01 : BitVec 8), 0x02, 0x03, 0x08],
      let p := { pkt ty 2 [5] with drank := 4 }
      let s := fabState [p]
      (rxTake s 2 ty).map (·.1) = some p ∧ (s.reg Reg.fabMyrank).extractLsb' 0 16 ≠ p.drank) := by
  unfold mayPerform
  decide +kernel
/-- A packet that awaits its answer, for a source of this complex. -/
def sentOf (ty : BitVec 8) (src : PktSrc) (nak : Option Stamp) : SentPkt :=
  ⟨{ pkt ty 2 [5] with dst := 9 }, 2, 0, 0, nak, [src], 0⟩
/-- Core 0 of cluster 0 waits for a line of rank 3; its cluster has one outstanding write. -/
def waitState (rx : List Packet) (e : SentPkt) : State :=
  let s := fabState rx
  { s with
    fab := { s.fab with sent := [e] }
    cores := [(0, { core0 with pend := some { (default : PendLoad) with dest := .fabric 3, pa := 64 } })]
    clus := [(0, { clus0 with outw := [{ (default : OutWrite) with tag := 1 }] })] }
/-- An ACK, the data of a read, and a NAK with a reason. -/
def ackPkt : Packet := pkt 0x10 0 []
def rddPkt : Packet := { pkt 0x11 0 [5] with arg := 0 }
def nakPkt (a : BitVec 64) : Packet := { pkt 0x12 0 [] with arg := a }
theorem witness_FabricPacketsArePerformedAnsweredAndResent_taken :
    (∀ e, (rxTake (waitState [ackPkt] e) 2 0x10).map (·.1) = some ackPkt) ∧ (∀ e, (rxTake (waitState [rddPkt] e) 2 0x11).map (·.1) = some rddPkt) ∧
    ∀ e a, (rxTake (waitState [nakPkt a] e) 2 0x12).map (·.1) = some (nakPkt a) := ⟨fun _ => rfl, fun _ => rfl, fun _ _ => rfl⟩
theorem witness_FabricPacketsArePerformedAnsweredAndResent_sent (rx : List Packet) (e : SentPkt) :
    (waitState rx e).fab.sent = [e] ∧ ((waitState rx e).cluster 0).outw = [{ (default : OutWrite) with tag := 1 }] ∧
    ((waitState rx e).core ⟨0, 0⟩).pend = some { (default : PendLoad) with dest := .fabric 3, pa := 64 } ∧
    ((waitState rx e).cluster 0).run = some default := ⟨rfl, rfl, rfl, rfl⟩
theorem witness_FabricPacketsArePerformedAnsweredAndResent_answers :
    (let e := sentOf 0x01 (.store ⟨0, 0⟩ 1) none
     e.pkt.dst = ackPkt.src ∧ e.pkt.flow = ackPkt.flow ∧ e.pkt.ty = 0x01 ∧ seqBefore ackPkt.fseq e.pkt.fseq = false ∧
     (nakPkt 2).arg.extractLsb' 0 8 = 2 ∧ (nakPkt 3).arg.extractLsb' 0 8 = 3 ∧
     e.pkt.dst = (nakPkt 2).src ∧ e.pkt.flow = (nakPkt 2).flow ∧ e.pkt.fseq = (nakPkt 2).fseq) ∧
    (∀ p ∈ [rddPkt, nakPkt 1],
      let e := sentOf 0x03 (.load ⟨0, 0⟩) none
      e.pkt.dst = p.src ∧ e.pkt.flow = p.flow ∧ e.pkt.fseq = p.fseq ∧ (3 : BitVec 16) = e.pkt.drank ∧
      64 / 64 = (e.pkt.arg.extractLsb' 0 44).toNat / 64 ∧ (default : PendLoad).ifetch = false) ∧
    rddPkt.arg.getLsbD 0 = false ∧ (nakPkt 1).arg.extractLsb' 0 8 = 1 := by decide +kernel
theorem witness_FabricPacketsArePerformedAnsweredAndResent_timers :
    (let e := sentOf 0x01 (.store ⟨0, 0⟩ 1) (some 0)
     let s := waitState [] e
     frozen s = false ∧ Memory.wf s.mem.cells = true ∧ s.prz.out = [] ∧ s.fab.sent = [e] ∧
     mgetD none s.fab.routeTab (routeIndex ((s.reg Reg.fabMyaddr).extractLsb' 0 16) e.pkt.dst) = some 4 ∧
     nextPort s 4 e.pkt e.port = some 2 ∧ e.last.toNat + ackTmo s ≤ s.ts.toNat ∧ (0 : Stamp).toNat + 4000 ≤ s.ts.toNat ∧
     e.first.toNat + 9 * ackTmo s ≤ s.ts.toNat) ∧
    (let c : Combine := ⟨pkt 0x01 2 [5], 0, [.store ⟨0, 0⟩ 1]⟩
     let s := (fabState []).setReg Reg.fabRetx 1
     let t := { s with fab := { s.fab with comb := [c] } }
     t.fab.comb = [c] ∧ t.fab.sent = [] ∧ c.ts.toNat + 2000 ≤ t.ts.toNat ∧ (t.reg Reg.fabRetx).getLsbD 0 = true ∧ c.pkt.cls = 2 ∧
     mgetD none t.fab.rankTab c.pkt.drank.toNat = some 0x80000009 ∧ (0x80000009 : BitVec 32).getLsbD 31 = true ∧
     c.pkt.pay.length ≤ 64 ∧ t.fab.dead.contains ((0x80000009 : BitVec 32).extractLsb' 0 16) = false ∧
     choosePort t 4 { (default : Packet) with cls := 2, pay := [0] } = some 2) ∧
    (let f : RxFlow := ⟨9, 1, 5, [], 0, 0, 7⟩
     let s := (fabState []).modFab fun b => { b with flows := [f] }
     s.fab.flows = [f] ∧ f.waiting = [] ∧ f.unacked = 0 ∧ f.last.toNat + 2000000 ≤ s.ts.toNat) ∧
    (let s := fabState []
     reachable s .mgc Reg.fabDrained = true ∧ s.fab.comb = [] ∧ s.fab.sent = [] ∧ s.fab.drained.toNat ≤ s.ts.toNat) := by decide +kernel

/-! ### Prism -/

/-- A child of rank 9, index 2. -/
def kidA : Child := { (default : Child) with rank := 9, idx := 2, hi := 2, live := true }
/-- A running collective. -/
def coll (op : Nat) (kids : List Child) : Coll := { (default : Coll) with op := op, seq := 1, len := 1, kids := kids, parentRank := 9 }
/-- A tree with its collective: member 1 of 3, parent and alternate of rank 9. -/
def tree (root : Bool) (c : Option Coll) : Tree :=
  { (default : Tree) with own := 1, hi := 2, n := 3, root := root, parent := 9, alt := 9, ctx := 7, seq := 1, coll := c }
/-- Tree 4 of a member of rank 3 whose neighbour has rank 9 at address 9, its COLLECTIVE on ring 5. -/
def przState (root : Bool) (c : Option Coll) (rx : List Packet) : State :=
  let s := fabState rx
  { s with
    prz := { s.prz with trees := [(4, some (tree root c))] }
    fab := { s.fab with rankTab := [(9, some 0x80000009)] }
    dsp := { s.dsp with rings := [(5, ringOn)], colls := [(4, c.map fun _ => cmdK 3 0)] } }
/-- A Prism packet of tree 4 with SEQ 1. -/
def przPkt (ty : BitVec 8) (cls : BitVec 2) (pay : List Line) : Packet :=
  { pkt ty cls pay with arg := 0x110000000, flow := 2 }
theorem witness_PrismMembersFollowTheirTree_trees :
    reachable (przState false none []) .mgc Reg.przTreeCtl = true ∧
    collOf (przState false none []) 4 = none ∧ treeOf (przState false none []) 4 = some (tree false none) ∧
    (collOf (przState true (some (coll 3 [])) []) 4).isSome = true ∧
    -- an entry of a tree of three members
    okAg (agentWord { linked.setReg Reg.przTtabLo 0x1000 with mem := { linked.mem with cells := [(0x1104, 3)] } } .dsp 0
      (baseOf (linked.setReg Reg.przTtabLo 0x1000) Reg.przTtabLo 12 + 64 * (4 : BitVec 6).toNat) 64)
      (fun (v, p, _) => !p && (treeOfEntry v).isSome) = true := by decide +kernel
theorem witness_PrismMembersFollowTheirTree_collOf (root : Bool) (c : Coll) (rx : List Packet) :
    treeOf (przState root (some c) rx) 4 = some (tree root (some c)) ∧ (tree root (some c)).coll = some c ∧
    (tree root (some c)).root = root ∧ collCmd (przState root (some c) rx) 4 (cmdK 3 0) ∧ frozen (przState root (some c) rx) = false ∧
    (przState root (some c) rx).prz.out = [] := ⟨rfl, rfl, rfl, ⟨rfl, rfl, rfl⟩, by cases root <;> rfl, rfl⟩
/-- A COLLECTIVE for a barrier on tree 4 is started on ring 5. -/
theorem witness_PrismMembersFollowTheirTree_start :
    let s := przState false none []
    let t := { s with dsp := { s.dsp with rings := [(5, { ringOn with held := some { (default : HeldCmd) with
      cmd := cmdK 3 (4 * 2 ^ 160 + 3 * 2 ^ 168), gateMet := true, started := true } })] } }
    let h := heldOf t
    dspStopped t = false ∧ startedCmd t 5 3 = some h ∧ h.cmd.ring = 5 ∧ collTree h.cmd = 4 ∧ bodyNat h.cmd 0x25 1 = 3 ∧
    (treeOf t 4).isSome = true ∧ (tree false none).ctx = h.cmd.ctx ∧ okEx (readGen t h.cmd.ctx) (fun (g, _) => g == h.gen) = true := by
  decide +kernel
/-- A packet of the neighbour is taken whatever the collective. -/
theorem witness_PrismMembersFollowTheirTree_from :
    ∀ tc ∈ [((0x08 : BitVec 8), (2 : BitVec 2)), (0x20, 1), (0x21, 1), (0x22, 1), (0x23, 1), (0x24, 1), (0x25, 1), (0x26, 1), (0x27, 1),
        (0x28, 1)],
      ∀ root ∈ [false, true],
      let p := przPkt tc.1 tc.2 [5]
      let s := przState root (some (coll 3 [kidA])) [p]
      (rxTake s 2 tc.1).isSome = true ∧ s.fab.flows = [] ∧ p.fseq = p.base ∧ (s.reg Reg.fabMyrank).getLsbD 31 = true ∧
      (s.reg Reg.fabMyrank).extractLsb' 0 16 = p.drank ∧ p.arg.extractLsb' 26 6 = 4 ∧ (tree root none).ctx = p.ctx ∧
      (coll 3 [kidA]).seq = p.arg.extractLsb' 32 32 ∧ neighbourOf s (tree root (some (coll 3 [kidA]))) p.src = some 9 ∧
      p.arg.extractLsb' 0 20 = 0 ∧ p.arg.getLsbD 25 = false ∧ p.arg.extractLsb' 0 18 = 0 := by decide +kernel
theorem witness_PrismMembersFollowTheirTree_taken (root : Bool) (c : Option Coll) :
    (rxTake (przState root c [przPkt 0x21 1 []]) 2 0x21).map (·.1) = some (przPkt 0x21 1 []) := rfl
/-- The collectives that the packets' clauses speak of. -/
theorem witness_PrismMembersFollowTheirTree_colls :
    barrierOpen (coll 3 [kidA]) ∧ notSettling (tree false none) (coll 3 [kidA]) ∧ notSettling (tree true none) (coll 3 [kidA]) ∧
    (coll 3 [kidA]).kids = [kidA] ∧ kidA.live = true ∧ kidA.done = false ∧ kidA.rank = 9 ∧ (coll 3 [kidA]).wrote = [] ∧
    ({ coll 3 [kidA] with joining := some 0 }).joining = some 0 ∧ ({ coll 3 [kidA] with parentRank := 8 }).parentRank ≠ 9 ∧
    -- a chunk of a broadcast of one line from the parent
    (let c := { coll 0 [] with pages := [((0, .write), leafOf 0x1F false)], dst := 0x40 }
     let s := przState false (some c) [przPkt 0x08 2 [5]]
     c.op = 0 ∧ c.summary = none ∧ c.inq = [] ∧ c.paused = false ∧ c.parentRank = 9 ∧ c.len = 1 ∧ c.wrote = [] ∧
     leafFor c.pages c.dst.toNat .write = some (leafOf 0x1F false) ∧ destOf (leafOf 0x1F false) = .device ∧
     takesLine s .dsp 7 (physOf (leafOf 0x1F false) c.dst.toNat / 64) = true ∧ Memory.wf s.mem.cells = true) := by
  refine ⟨⟨rfl, rfl, rfl, rfl⟩, .inl rfl, .inr ⟨rfl, kidA, ?_, rfl⟩, rfl, rfl, rfl, rfl, rfl, rfl, ?_, ?_⟩
  · decide +kernel
  · decide
  · decide +kernel
theorem witness_PrismMembersFollowTheirTree_timers :
    (let c := coll 3 [kidA]
     let s := przState false (some c) []
     neighbourTs (tree false (some c)) c 9 = some (0, 0) ∧ (0 : Stamp).toNat + 40000 ≤ s.ts.toNat ∧
     mgetD none s.fab.rankTab (9 : BitVec 16).toNat = some 0x80000009 ∧ (0x80000009 : BitVec 32).getLsbD 31 = true ∧
     s.fab.dead.contains ((0x80000009 : BitVec 32).extractLsb' 0 16) = false ∧
     mgetD none s.fab.routeTab (routeIndex ((s.reg Reg.fabMyaddr).extractLsb' 0 16) 9) = some 4 ∧
     choosePort s 4 { (default : Packet) with cls := 1, pay := [] } = some 2 ∧ kidA.lastRx.toNat + 200000 ≤ s.ts.toNat ∧
     (0 : Stamp).toNat + 8000 ≤ s.ts.toNat ∧ c.eventTs.toNat + 400000 ≤ s.ts.toNat ∧ c.sentDone = false ∧ kidA.ready = false) ∧
    -- every index reached: the root covers 0 to 2
    (let c := { coll 3 [] with covered := [(0, 2)] }
     barrierOpen c ∧ unreached (tree true none) c = [] ∧ c.kids = []) := by
  unfold barrierOpen
  decide +kernel
/-- The rest of the timers' collectives. -/
theorem witness_PrismMembersFollowTheirTree_reissue :
    (let c := { coll 0 [kidA] with adopts := some 0 }
     c.adopts = some 0 ∧ c.reissuing = false ∧ c.summary = none ∧ c.op = 0 ∧ c.inq = [] ∧ c.kids = [kidA] ∧ c.sentDone = false) ∧
    (let c := { coll 3 [] with summary := some 0 }
     c.op = 3 ∧ c.inq = [] ∧ c.paused = false ∧ c.summary = some 0 ∧ c.wrote = []) := by decide +kernel

/-! ### The host port -/

/-- The host link is up; decoder 0 covers its first 64 GiB. -/
def hostState : State :=
  let s := linked
  { s with
    hpt := { s.hpt with hdm := [(0, { (default : Hdm) with size := 2 ^ 36, committed := true }), (1, { (default : Hdm) with base := 2 ^ 36, size := 2 ^ 28 })] }
    regs := { s.regs with winEn := tri 1 }
    ts := 400000000 }
/-- Requests of the host that are open. -/
def hostOpen (rs : List HostReq) : State := { hostState with hpt := { hostState.hpt with reqs := rs } }
theorem witness_HostRequestsGoHomeAndAreAnswered_requests :
    (let s := hostState
     s.boot.inReset = false ∧ linkUp s = true ∧ s.fcl.safe = false ∧ (paOfHpa s 0x40).isSome = true ∧ paOfHpa s 0x2000000000 = none ∧
     openReads s < 256 ∧ openWrites s < 128 ∧ s.hpt.conflicts = [] ∧ memEnabled s = true ∧ s.hpt.dstate = .d0 ∧ s.hpt.hwin = none) ∧
    (let s := { hostState with fcl := { hostState.fcl with safe := true } }
     s.boot.inReset = false ∧ linkUp s = true ∧ s.fcl.safe = true) ∧
    256 ≤ openReads (hostOpen (List.replicate 256 ⟨0, 0x40, 1, true, false⟩)) ∧
    (∃ r ∈ (hostOpen [⟨0, 0x40, 1, true, false⟩]).hpt.reqs, some r.line = (paOfHpa (hostOpen []) 0x40).map (· / 64)) ∧
    (∀ r ∈ (hostOpen [⟨0, 0x80, 2, true, false⟩]).hpt.reqs, some r.line ≠ (paOfHpa (hostOpen []) 0x40).map (· / 64)) := by
  decide +kernel
theorem witness_HostRequestsGoHomeAndAreAnswered_decoders :
    let s := hostState
    (hdmAt s 0).committed = true ∧ (hdmAt s 1).committed = false ∧ (hdmAt s 1).ways = 0 ∧ (hdmAt s 1).base % 2 ^ 28 = 0 ∧
    (hdmAt s 1).size % 2 ^ 28 = 0 ∧ (hdmAt s 1).size ≠ 0 ∧
    (hdmAt s 0).dpa + (hdmAt s 0).size + (hdmAt s 1).skip + (hdmAt s 1).size ≤ tierLimit s.mem .near + tierLimit s.mem .far ∧
    (hdmAt s 0).base + (hdmAt s 0).size ≤ (hdmAt s 1).base ∧ (hdmAt s 2).committed = false ∧ (hdmAt s 3).committed = false ∧
    -- decoder 2 has no range: it does not commit
    (hdmAt s 2).size = 0 := by decide +kernel
theorem witness_HostRequestsGoHomeAndAreAnswered_windows :
    (let s := hostState
     winOn s 0 = true ∧ 0x40 < winSize s 0 ∧ winBase s 0 = 0 ∧ 0x40 / (bar2Size s / 4) = 0 ∧ winWr s 0 = false ∧
     takesLine s .hpt 0 1 = true ∧ (dirGet s.mem 1).cst ≠ .X ∧ (dirGet s.mem 1).sharers = 0 ∧ Memory.wf s.mem.cells = true ∧
     0x40 % 64 + 4 ≤ 64 ∧ (s.cnt Reg.hptUr).toNat + 1 < 2 ^ 64 - 1) ∧
    (let s := hostState.setReg (Reg.apwWin 0 0x10) 0x1000000
     winWr s 0 = true ∧ winOn s 0 = true ∧ takesLine s .hpt 0 1 = true) ∧
    winOn hostState 1 = false := by decide +kernel
/-- A bias command of two pages from page 3000 on. -/
def biasState : State := hostState.setReg Reg.hptBiasPage 3000
theorem witness_HostRequestsGoHomeAndAreAnswered_bias :
    (let s := biasState
     reachable s .mgc Reg.hptBiasCmd = true ∧ s.fcl.safe = false ∧ s.fld Reg.hptBiasPage 0 17 = 3000 ∧ s.hpt.biasJob.isSome = false ∧
     ¬ (2 : BitVec 9) = 0 ∧ ¬ 256 < (2 : BitVec 9).toNat ∧ ¬ (tierLimit s.mem .near + tierLimit s.mem .far) / 2 ^ 25 < 3000 + 2 ∧
     2048 ≤ s.fld Reg.hptBiasPage 0 17 ∧ isFlipping s.mem (paOfDpa s.mem (3000 * 2 ^ 25) / 2 ^ 25) = false ∧
     isFlipping s.mem (paOfDpa s.mem (3001 * 2 ^ 25) / 2 ^ 25) = false) ∧
    -- 257 pages are too many
    256 < (257 : BitVec 9).toNat ∧ hostState.fld Reg.hptBiasPage 0 17 < 2048 := by decide +kernel
/-- A host-window transfer of one line. -/
def hwin1 (lines : Nat) : Hwin := { (default : Hwin) with toDev := true, dpa := 0x40, hpa := 0x40, lines := lines }
theorem witness_HostRequestsGoHomeAndAreAnswered_hwin :
    (let s := hostState.setReg Reg.hptHwinLen 64
     reachable s .mgc Reg.hptHwinCmd = true ∧ s.hpt.hwin = none ∧ s.fld Reg.hptHwinLen 0 13 = 64 ∧ isReserved s.mem 0 = false ∧
     isPacked 0 = false ∧ takesLine s .hpt 0 0 = true ∧ (dirGet s.mem 0).cst ≠ .X ∧ s.fcl.safe = false) ∧
    hostState.fld Reg.hptHwinLen 0 13 = 0 ∧
    (∀ n ∈ [1, 2],
      let s := { hostState with hpt := { hostState.hpt with hwin := some (hwin1 n) } }
      s.boot.inReset = false ∧ linkUp s = true ∧ s.hpt.hwin = some (hwin1 n) ∧ s.fcl.safe = false ∧ (hwin1 n).got = [] ∧
      Memory.wf s.mem.cells = true ∧ takesLine s .hpt 0 ((hwin1 n).dpa / 64) = true ∧ (dirGet s.mem ((hwin1 n).dpa / 64)).sharers = 0 ∧
      (hwin1 n).ts.toNat + 50 * Config.msTicks ≤ s.ts.toNat) := by decide +kernel
/-- The host link's states. -/
def linkState (l : LinkState) (cfg : BitVec 32) : State :=
  { hostState with hpt := { hostState.hpt with link := l, cfg := [(cfgLinkCtl, cfg)], retrainTs := some 0 } }
/-- A device state; one cluster, idle, with one dirty line. -/
def d3State (d : DState) : State :=
  { hostState with
    clus := [(0, { (default : ClusterSt) with pll := .running, l2 := [(8, some (way .M 1))] })]
    hpt := { hostState.hpt with dstate := d } }
theorem witness_HostLinkAndDeviceStates_devices :
    (let s := d3State .d0
     s.boot.inReset = false ∧ linkUp s = true ∧ s.hpt.dstate = .d0 ∧ dspIdle s = true ∧ s.fcl.safe = false ∧ pllIdle s 0 = true) ∧
    (let s := d3State .d3hot
     s.hpt.dstate = .d3hot ∧ dspIdle s = true ∧ diesQuiet s = true ∧ s.fcl.safe = false ∧ (way .M 1).st = .M ∧
     Memory.wf s.mem.cells = true) ∧
    (d3State .d3cold).hpt.dstate = .d3cold ∧
    -- a ring's command is active: not idle
    dspIdle (dspState { ringOn with active := [(0, none)] }) = false ∧
    (let s := (d3State .d3cold).setReg (Reg.fabPort (2 : BitVec 4).toNat 0) 1
     (s.reg (Reg.fabPort (2 : BitVec 4).toNat 0)).getLsbD 0 = true ∧ (s.port 2).st = .off) := by decide +kernel
theorem witness_HostLinkAndDeviceStates_link :
    (∀ l ∈ [LinkState.l0, .l0s, .l1],
      let s := linkState l 3
      s.boot.inReset = false ∧ s.hpt.link = l ∧ aspmBit s 0 = true ∧ aspmBit s 1 = true ∧ linkUp s = true ∧ s.hpt.retrainTs = some 0) ∧
    (aspmBit hostState 0 = false ∧ aspmBit hostState 1 = false) ∧
    (let s := { hostState with hpt := { hostState.hpt with lossTs := some 0 } }
     s.hpt.lossTs = some 0 ∧ s.hpt.dead = false ∧ (0 : Stamp).toNat + biTmo s ≤ s.ts.toNat) ∧
    (let s := { base with hpt := { base.hpt with lossTs := some 0 } }
     s.ts.toNat < (0 : Stamp).toNat + biTmo s ∧ bisLate s = false) ∧
    (let s := { hostState with hpt := { hostState.hpt with dead := true, link := .held } }
     s.hpt.dead = true ∧ (∀ h ∈ s.mem.homes, h.2.hostReclaim = false) ∧
     ∃ h ∈ (s.modHome 0 fun x => { x with hostReclaim := true }).mem.homes, h.2.hostReclaim = true) ∧
    (linkState .training 0).hpt.link = .training ∧ (linkState .training 0).boot.inReset = false := by decide +kernel
theorem witness_HostLinkAndDeviceStates_interrupt :
    (let s := (hostState.setReg Reg.hptInten 0x10).setFlag Reg.hptStat 0
     linkUp s = true ∧ intLine s = true ∧ s.hpt.inta = false ∧ s.hpt.deassertTs = none) ∧
    (let s := { hostState with hpt := { hostState.hpt with inta := true } }
     intLine s = false ∧ s.hpt.inta = true ∧ linkUp s = true) ∧ intLine hostState = false := by decide +kernel

/-! ### The service port -/

/-- The port with a device present and its link up, and these requests below it. -/
def svpState (reqs : List SvpReq) : State :=
  { hostState.setReg Reg.svpSlotCtl 0 with
    svp := { hostState.svp with present := true, up := true, pwrGood := true, perst := false, reqs := reqs, nextReq := 9 }
    cores := [(0, { core0 with pend := some { (default : PendLoad) with dest := .bus, pa := 64 } })]
    clus := [(0, { clus0 with outw := [{ (default : OutWrite) with tag := 1 }] })] }
/-- A posted write, a read and a flush read. -/
def svpWr : SvpReq := ⟨1, false, false, 64, 7, 4, some (.store ⟨0, 0⟩ 1)⟩
def svpRd : SvpReq := ⟨2, true, false, 64, 7, 0, some (.load ⟨0, 0⟩)⟩
def svpFl : SvpReq := ⟨2, true, true, 0, 0, 0, none⟩
theorem witness_ServicePortSlotAndDevices_slot :
    (∀ r ∈ [Reg.svpCfgAddr, Reg.svpSlotCtl, Reg.svpDrained], reachable hostState .mgc r = true) ∧
    hostState.svp.cfg = none ∧ hostState.svp.present = false ∧
    (∀ wr ∈ [false, true],
      ({ hostState with svp := { hostState.svp with cfg := some wr } }).svp.cfg = some wr) ∧
    (let s := svpState [svpWr]
     slotClosed s = false ∧ s.svp.removed = false ∧ s.svp.present = true ∧ s.svp.up = true ∧ s.svp.reqs = [svpWr] ∧
     svpWr.read = false ∧ slotBit s 1 = false) ∧
    slotBit hostState 1 = true ∧
    (let s := { hostState with svp := { hostState.svp with pwrTs := some 0 } }
     s.svp.pwrTs = some 0 ∧ s.svp.pwrGood = false ∧ (0 : Stamp).toNat + 100 * Config.msTicks ≤ s.ts.toNat) ∧
    (let s := { hostState with svp := { hostState.svp with goodTs := some 0, pwrGood := true } }
     s.svp.goodTs = some 0 ∧ s.svp.pwrGood = true ∧ (0 : Stamp).toNat + 100 * Config.msTicks ≤ s.ts.toNat) ∧
    (let s := { svpState [] with svp := { hostState.svp with present := true, pwrGood := true, perst := false } }
     slotClosed s = false ∧ s.svp.present = true ∧ s.svp.pwrGood = true ∧ s.svp.perst = false ∧ s.svp.up = false) := by decide +kernel
theorem witness_ServicePortSlotAndDevices_dead :
    (let s := svpState [svpRd]
     s.fcl.safe = false ∧ s.svp.dead = false ∧ s.svp.removed = false ∧
     ∃ r ∈ s.svp.reqs, r.read = true ∧ r.ts.toNat + 200 * Config.usTicks ≤ s.ts.toNat) ∧
    (let s := { svpState [] with svp := { hostState.svp with downTs := some 0 } }
     slotClosed s = false ∧ s.svp.downTs = some 0 ∧ (0 : Stamp).toNat + 200 * Config.usTicks ≤ s.ts.toNat) := by decide +kernel
/-- Window 0 of the bus gives device memory from 0 on, for context 7, which owns it. -/
def winState (ctl : BitVec 32) : State :=
  let s := (svpState []).setReg (Reg.apwWin 0 0x10) ctl
  { s with mem := { s.mem with owner := [(0, 7)] } }
theorem witness_ServicePortSlotAndDevices_windows :
    (∀ wr ∈ [false, true],
      let s := winState (if wr then 0x1000007 else 7)
      s.svp.up = true ∧ s.fcl.safe = false ∧ winOf s 0x40 = some 0 ∧ winBase s 0 = 0 ∧ winBus s 0 = 0 ∧ winCtx s 0 = 7 ∧
      0x40 % 64 + 4 ≤ 64 ∧ 0x40 + 4 ≤ winBus s 0 + winSize s 0 ∧ takesLine s .svp 7 1 = true ∧ (dirGet s.mem 1).cst ≠ .X ∧
      (dirGet s.mem 1).sharers = 0 ∧ Memory.wf s.mem.cells = true) ∧
    winWr (winState 0x7) 0 = false ∧ winWr (winState 0x1000007) 0 = true ∧ winOf (winState 7) 0x1000000000 = none ∧
    ctxPasses (winState 7).mem (winCtx (winState 8) 0) 1 = false := by decide +kernel
theorem witness_ServicePortSlotAndDevices_completions :
    (let s := svpState [svpRd]
     s.svp.reqs.find? (fun r => r.id == 2 && r.read) = some svpRd ∧ svpRd.flush = false ∧ svpRd.src = some (.load ⟨0, 0⟩) ∧
     ((s.core ⟨0, 0⟩).pend.map (·.dest)) = some .bus ∧ ((s.core ⟨0, 0⟩).pend.map (·.pa)) = some 64 ∧ 64 / 64 = svpRd.bus / 64 ∧
     ((s.core ⟨0, 0⟩).pend.map (·.ifetch)) = some false ∧ s.svp.dead = false ∧ s.svp.removed = false) ∧
    (let s := svpState [svpWr, svpFl]
     s.svp.reqs.find? (fun r => r.id == 2 && r.read) = some svpFl ∧ svpFl.flush = true ∧ s.svp.reqs = [svpWr, svpFl] ∧
     svpWr.read = false ∧ svpWr.id < 2 ∧ ((s.cluster 0).outw.map (·.tag)) = [1] ∧ s.svp.drained.toNat ≤ s.ts.toNat) ∧
    (let s := svpState [svpWr]
     svpWrites s = [svpWr] ∧ s.svp.up = true ∧ s.svp.reqs.all (fun r => !r.flush) = true ∧
     svpWr.ts.toNat + Config.usTicks ≤ s.ts.toNat ∧ s.svp.drained.toNat < svpWr.ts.toNat ∧ s.svp.reqs = [svpWr]) ∧
    svpWrites (svpState []) = [] ∧ (svpState []).svp.drained.toNat ≤ (svpState []).ts.toNat := by decide +kernel

/-! ### Registers -/

/-- The registers in a state. -/
def regState (f : RegSt → RegSt) : State := { linked with regs := f linked.regs, ts := 400000000 }
/-- A G1 sequence or a G2 lock of the management core. -/
def guardState (g : Guard) : State := setGuard (regState id) .mgc g
theorem witness_RegistersPendGuardClearAndShadow_kinds :
    (linked.boot.inReset = false ∧ linkUp linked = true ∧ linked.boot.offDie.contains (dieOfOffset 0x100000) = false) ∧
    ({ linked with boot := { linked.boot with offDie := [1] } }.boot.offDie.contains (dieOfOffset 0x100000) = true) ∧
    State.reset.boot.inReset = true ∧ ({ linked with hpt := { linked.hpt with command := 0 } } |> memEnabled) = false ∧
    -- sequence clear, RW, RWP, G1, the second word of a pair, G2, a counter and its high word
    (∀ o ∈ [Reg.gctlStat, Reg.fabStat, Reg.hptInten, Reg.pwrLimSust, Reg.pwrPrio, Reg.fclSafeEn, Reg.fclSafeEn + 4, Reg.calCmd, Reg.xltOwnTag,
        Reg.fabDiscard, Reg.fabDiscard + 4], reachable linked .mgc o = true ∧ o % 4 = 0 ∧ (regInfo o).isSome = true) ∧
    ((regInfo Reg.gctlStat).map (·.sqc)) = some true ∧ ((regInfo Reg.fabStat).map (·.sqc)) = some true ∧
    ((regInfo Reg.hptInten).map fun i => !i.sqc && !i.g1 && !i.g2 && i.rwp == 0 && i.rw != 0) = some true ∧
    g1Second Reg.hptInten = false ∧ (cmdWrite linked .mgc Reg.hptInten 1).isNone = true ∧
    ((regInfo Reg.pwrPrio).map fun i => !i.sqc && !i.g1 && !i.g2 && i.rw == 0 && i.rwp != 0) = some true ∧
    g1Second Reg.pwrPrio = false ∧ (cmdWrite linked .mgc Reg.pwrPrio 1).isNone = true ∧
    ((regInfo Reg.pwrLimSust).map fun i => !i.sqc && !i.g1 && i.g2 && i.rw == 0 && i.rwp != 0) = some true ∧
    g1Second Reg.pwrLimSust = false ∧ Reg.pwrLimSust ≠ Reg.gctlColdRst ∧ Reg.pwrLimSust ≠ Reg.calCmd ∧
    ((regInfo Reg.pwrLimSust).map (·.strobe)) = some 4 ∧
    ((regInfo Reg.fclSafeEn).map fun i => !i.sqc && i.g1) = some true ∧
    ((regInfo (Reg.fclSafeEn + 4)).map fun i => !i.sqc && !i.g1) = some true ∧ g1Second (Reg.fclSafeEn + 4) = true ∧
    ((regInfo Reg.calCmd).map fun i => !i.sqc && !i.g1 && i.g2) = some true ∧ g1Second Reg.calCmd = false ∧
    ((regInfo Reg.fabDiscard).map (·.cnt)) = some 1 ∧
    ((regInfo (Reg.fabDiscard + 4)).map fun i => i.cnt == 2 && i.pair == 0) = some true := by decide +kernel
theorem witness_RegistersPendGuardClearAndShadow_clear :
    (let s := regState fun r => { r with val := [(Reg.fabStat, some 0x00030002)] }
     (0x00030002 : BitVec 32).extractLsb' 16 16 = (s.reg Reg.fabStat).extractLsb' 16 16 ∧
     (0x00020002 : BitVec 32).extractLsb' 16 16 ≠ (s.reg Reg.fabStat).extractLsb' 16 16 ∧
     (s.cnt Reg.gctlStaleClr).toNat + 1 < 2 ^ 64 - 1) := by decide +kernel
/-- Strobes that pend. -/
theorem witness_RegistersPendGuardClearAndShadow_strobes :
    strobeWaits linked 4 = false ∧ strobeWaits (regState fun r => { r with strobes := [1#16 <<< 4] }) 4 = true ∧
    reachable linked .mgc (Reg.gctlStrobe + 4 * (4 : BitVec 4).toNat) = true ∧ reachable linked .mgc Reg.gctlStrobeSet = true ∧
    (3#16 &&& 0x7FFF) ≠ 0 ∧
    (let s := regState fun r => { r with strobes := [1#16 <<< 4], pend := [(Reg.pwrLimSust, some 7)] }
     s.boot.inReset = false ∧ s.regs.strobes = [1#16 <<< (4 : BitVec 4).toNat] ∧ s.regs.late = [] ∧
     s.regs.pend = [(Reg.pwrLimSust, some 7)]) ∧
    -- a plain register of strobe 4
    (let s := regState fun r => { r with strobes := [1#16 <<< 4], pend := [(Reg.pwrProof, some 1)] }
     s.regs.strobes = [1#16 <<< (4 : BitVec 4).toNat] ∧ s.regs.late = [] ∧ s.regs.pend = [(Reg.pwrProof, some 1)] ∧
     ((regInfo Reg.pwrProof).map fun i => i.strobe == 4 && i.rwp != 0) = some true ∧
     Reg.pwrProof ∉ [Reg.pwrLimSust, Reg.pwrLimPeak, Reg.apwWinEn, Reg.pwrPrio] ∧ barRow Reg.pwrProof ≠ some 11) ∧
    (let s := { dspState ringOn with regs := { linked.regs with strobes := [1#16 <<< 8] } }
     s.regs.strobes = [1#16 <<< (8 : BitVec 4).toNat] ∧ s.regs.late = [] ∧ ∃ r ∈ s.dsp.rings, r.2.on = true) ∧
    (let s := regState fun r => { r with strobes := [1#16 <<< 12], pend := [(Reg.apwWinEn, some 0)] }
     s.regs.strobes = [1#16 <<< (12 : BitVec 4).toNat] ∧ s.regs.late = [] ∧ s.regs.pend = [(Reg.apwWinEn, some 0)]) ∧
    -- two windows over the same bus range
    (let s := regState fun r => { r with strobes := [1#16 <<< 12], pend := [(Reg.apwWinEn, some 3)] }
     (pendingOf s 12).isEmpty = false ∧ winsOk (applyAll s 12) = false) := by decide +kernel
theorem witness_RegistersPendGuardClearAndShadow_guards :
    (guardOf linked .mgc).g1 = none ∧ reachable linked .mgc Reg.gctlCntReset = true ∧ reachable linked .mgc Reg.gctlUnlock = true ∧
    (0x5A17 : BitVec 16) = 0x5A17 ∧
    (let s := guardState ⟨some (Reg.fclSafeEn, 1, 0), some 0⟩
     ((guardOf s .mgc).g1.map (·.1)) = some Reg.fclSafeEn ∧ (0 : Stamp).toNat + 64 * Config.slowTicks ≤ s.ts.toNat ∧
     (0 : Stamp).toNat + 1024 * Config.slowTicks ≤ s.ts.toNat ∧ lockOpen s .mgc = false) ∧
    (let s := { guardState ⟨some (Reg.fclSafeEn, 1, 0), some 0⟩ with ts := 0 }
     ((guardOf s .mgc).g1.map (·.1)) = some Reg.fclSafeEn ∧ s.ts.toNat ≤ (0 : Stamp).toNat + 64 * Config.slowTicks ∧
     s.ts.toNat < (0 : Stamp).toNat + 1024 * Config.slowTicks ∧ lockOpen s .mgc = true) := by decide +kernel
theorem witness_RegistersPendGuardClearAndShadow_g1 :
    (guardOf (guardState ⟨some (Reg.fclSafeEn, 1, 0), some 0⟩) .mgc).g1 = some (Reg.fclSafeEn, 1, 0) := rfl
theorem witness_RegistersPendGuardClearAndShadow_votes :
    (regState fun r => { r with safeEn := tri 0x1F, limSust := tri 2400, limPeak := tri 3000, winEn := tri 1, guard := tri default }).regs.winEn =
      tri 1 ∧ (1 : BitVec 32) ≠ 0 ∧ (linked.cnt Reg.gctlVote).toNat + 1 < 2 ^ 64 - 1 := ⟨rfl, by decide, by decide +kernel⟩

/-! ### Die links -/

/-- Link 0 in a state, its register enabled. -/
def d2dState (l : LinkSt) : State :=
  { linked.setReg (Reg.d2d 0 0) 1 with d2d := [(0, l), (1, { (default : LinkSt) with st := .up }), (2, { (default : LinkSt) with st := .up })] }
/-- A flit that is good after count 0. -/
def flit (ch : BitVec 4) (check : BitVec 16) : Flit := ⟨true, 1, ch, 0, 0, false, 0, check⟩
/-- A report of lanes that all work. -/
def lanes (n : Nat) (near far : Option (BitVec 16)) (ok : Bool) : LaneReport :=
  ⟨List.replicate n 0x3FFFF, List.replicate n 0x3FFFF, true, near, far, [], ok⟩
theorem witness_DieLinksTrainHoldAndReplay_states :
    (∀ st ∈ [D2dState.down, .training, .up, .held],
      let s := d2dState { (default : LinkSt) with st := st, attempt := if st = .training then 1 else 0 }
      s.boot.inReset = false ∧ (s.link 0).st = st ∧ (s.reg (Reg.d2d 0 0)).getLsbD 0 = true ∧ (s.link 0).a.test = 0 ∧ (s.link 0).b.test = 0 ∧
      (∀ d ∈ linkDies 0, dieOff s d = false ∧ heldBy s 0 d = false) ∧ reachable s .mgc (Reg.d2d 0 0) = true ∧
      reachable s .mgc (linkReg 0 false 0) = true ∧ reachable s .mgc (Reg.d2d 0 0x0C) = true ∧
      reachable s .mgc (linkReg 0 false 0x60) = true) ∧
    3 ≤ ((d2dState { (default : LinkSt) with st := .training, attempt := 3 }).link 0).attempt ∧
    dieOfHome (homeOf linked.mem (0 / 64)) ∈ linkDies 0 ∧ Memory.wf linked.mem.cells = true := by decide +kernel
theorem witness_DieLinksTrainHoldAndReplay_flits :
    (let e := endAt ({ (default : LinkSt) with st := .up }) true
     (flit 1 0).crcOk = true ∧ (flit 1 0).ch.toNat ≤ 8 ∧ (flit 1 0).count = e.rxCount + 1 ∧ (flit 1 0).ch ≠ 0 ∧ e.sinceAck + 1 < 32 ∧
     (flit 0 0).mapCheck = ({ (default : LinkSt) with st := .up }).near ∧ (flit 0 0).nak = false ∧
     (flit 0 1).mapCheck ≠ ({ (default : LinkSt) with st := .up }).near ∧ (flit 9 0).ch.toNat > 8) ∧
    (let e := endAt ({ (default : LinkSt) with st := .up, a := { (default : LinkEnd) with sinceAck := 31 }, b := { (default : LinkEnd) with sinceAck := 31 } }) true
     32 ≤ e.sinceAck + 1) := by decide +kernel
theorem witness_DieLinksTrainHoldAndReplay_attempts :
    let s := d2dState { (default : LinkSt) with st := .training, attempt := 1 }
    let use := fun m : LaneReport => (List.range (linkBundles 0)).filter fun i => decide (16 ≤ lanesOf m.down i) && decide (16 ≤ lanesOf m.up i) &&
      !(s.link 0).skip.contains i && !boff s 0 i
    16 ≤ (use (lanes (linkBundles 0) (some 5) (some 5) true)).length ∧ (use (lanes 15 none none true)).length < 16 ∧
    (lanes (linkBundles 0) (some 5) (some 5) true).answered = true ∧ (lanes (linkBundles 0) (some 5) (some 5) true).testBad = [] ∧
    (5 : BitVec 16) ≠ 6 ∧ (lanes (linkBundles 0) (some 5) (some 5) false).testOk = false ∧ (1 : BitVec 4) ≠ 0 := by decide +kernel
theorem witness_DieLinksTrainHoldAndReplay_others :
    (∃ cl : BitVec 6, dieOfCluster cl ∈ linkDies 0 ∧ dieOff linked (dieOfCluster cl) = false) ∧ linked.fcl.broken = [] ∧
    linked.fcl.safe = false ∧ linked.fcl.safeSrc = none ∧
    (let s := linked.setReg Reg.fclReact 0x800
     (s.reg Reg.fclReact).getLsbD 11 = true) ∧ linked.aonUp = true := by
  refine ⟨⟨0, ?_⟩, ?_⟩ <;> decide +kernel
/-- The class of the bond's parity errors can be 3. -/
theorem witness_DieLinksTrainHoldAndReplay_class : ∃ s : State, classOf s 0x12 = 3 :=
  ⟨linked.setReg (Reg.fclType 0x12) 3, by decide +kernel⟩

/-! ### Power -/

/-- The power manager in a state; clusters 0 and 1 run. -/
def pwrState (f : PwrSt → PwrSt) : State :=
  { linked with
    pwr := f linked.pwr
    ts := 400000000
    clus := [(0, { (default : ClusterSt) with pll := .running }), (1, { (default : ClusterSt) with pll := .running })] }
/-- Compute die 0 has one enabled core, which is barrier-idle. -/
def idleDie : State :=
  let s := pwrState fun p => { p with cur := [(0, 0, 5000, 6000)] }
  { s.setReg Reg.pwrProof 0x13200 with
    fuse := { s.fuse with off := (0, ~~~1#160) :: (List.range 15).map fun i => (i + 1, BitVec.allOnes 160) }
    cores := [(0, { core0 with st := .gated (.strGet false) })] }
theorem witness_PowerIsSharedLimitedAndProtected_pass :
    (let s := pwrState id
     frozen s = false ∧ s.pwr.forced = false ∧ pllRuns s 0 = true ∧ pllRuns s 2 = false ∧ proofing s (cdOf 0) = false ∧
     s.pwr.alert = false ∧ s.pwr.sagIn = false ∧ s.pwr.flowLow = false) ∧
    (let s := pwrState fun p => { p with forced := true, alert := true }
     frozen s = false ∧ s.pwr.forced = true ∧ s.pwr.alert = true) ∧
    (let s := pwrState fun p => { p with proof := [(0, some ⟨7, 0⟩)] }
     proofing s (cdOf 0) = true ∧ (s.cluster 0).throttled = false ∧ (s.cluster 5).throttled = false ∧
     (0 : Stamp).toNat + fadeTicks s ≤ s.ts.toNat) ∧
    (let s := pwrState fun p => { p with railTo := [(0, some (1, 0))], want := [(0, some 1)] }
     ((mgetD none s.pwr.railTo (0 : BitVec 2).toNat).map (·.1)) = some 1 ∧
     (0 : Stamp).toNat + slewTicks s 0 (railOf s 0) 1 ≤ s.ts.toNat ∧ mgetD none s.pwr.want (0 : BitVec 6).toNat = some 1 ∧ 1 ≤ 1 ∧
     pllRuns s 0 = true ∧ cdOf 0 = 0) := by decide +kernel
theorem witness_PowerIsSharedLimitedAndProtected_telemetry :
    (0 : BitVec 5).toNat < 11 ∧ (10 : BitVec 5).toNat < 11 ∧
    -- 20 A reported, 20 A modelled, 100 A rated; then a negative reading, one above 3/2 of the rating, and one above twice the model
    ¬ ((20000 : Int) < 0 ∨ 3 * 100000 < 2 * (20000 : Int) ∨ 2 * (20000 : Int) < 20000) ∧ (-1 : Int) < 0 ∧
    3 * (100000 : Int) < 2 * 150001 ∧ 2 * (9999 : Int) < 20000 ∧ (linked.cnt Reg.pwrTeldrop).toNat + 1 < 2 ^ 64 - 1 ∧
    (let s := pwrState fun p => { p with calibrated := true, telTs := [(0, some 0)] }
     s.pwr.calibrated = true ∧ mgetD none s.pwr.telTs 1 = none ∧ (0 : Stamp).toNat + 10 * Config.msTicks ≤ s.ts.toNat) ∧
    (pwrState id).pwr.calibrated = false := by decide +kernel
theorem witness_PowerIsSharedLimitedAndProtected_proofing :
    (let s := idleDie
     frozen s = false ∧ proofing s 0 = false ∧ s.pwr.forced = false ∧ (s.reg Reg.pwrProof).getLsbD 16 = true ∧
     idleOfDie s 0 = (1, 1) ∧ 1 < 4 * 1 ∧ 5000 < (mgetD (0, 0, 0) s.pwr.cur 0).2.2) ∧
    reachable linked .mgc Reg.pwrProof = true := by decide +kernel
theorem witness_PowerIsSharedLimitedAndProtected_thermal :
    (let s := pwrState id
     (s.cnt Reg.pwrDroop).toNat + 1 < 2 ^ 64 - 1 ∧ thermThreshold s false < 9900 ∧ thermThreshold s true < 10400 ∧
     ¬ thermThreshold s false < 2000 ∧ 2000 ≤ thermThreshold s false - 300 ∧ 2000 ≤ thermThreshold s true - 300 ∧
     (s.cluster 0).thermTs = none ∧ s.fcl.broken = [] ∧ (1000 : BitVec 16).toNat ≤ 2000) ∧
    (let s := { pwrState id with clus := [(0, { (default : ClusterSt) with droop := true, droopTs := some 0, thermTs := some 0 })] }
     (s.cluster 0).droop = true ∧ (s.cluster 0).droopTs = some 0 ∧ (0 : Stamp).toNat + 200 ≤ s.ts.toNat ∧
     (0 : Stamp).toNat + 100 * Config.usTicks ≤ s.ts.toNat) ∧
    (let s := (pwrState id).setReg Reg.pwrFlow 0x1F40000
     (400 : BitVec 16).toNat < s.fld Reg.pwrFlow 16 16 ∧ s.fld Reg.pwrFlow 16 16 ≤ (500 : BitVec 16).toNat) ∧
    (∀ b ∈ [false, true],
      let s := (pwrState fun p => { p with service := b }).setReg Reg.pwrCtl (if b then 1 else 0)
      s.pwr.service = b ∧ fwctl s = b ∧ s.pwr.alert = false) ∧
    (let s := { pwrState id with cal := { linked.cal with busy := some true } }
     s.pwr.sagIn = false ∧ s.cal.busy = some true) := by decide +kernel

/-! ### The fault collector and the calibration store -/

/-- The collector in a state. -/
def fclState (f : FclSt → FclSt) : State := { linked with fcl := f linked.fcl, ts := 8000000000 }
/-- A report of type 0x12 of cluster 5, and one of a source with a type beyond the table. -/
def report (ty inst : Nat) : Report := { (default : Report) with src := srcId 1 inst ty }
theorem witness_FaultsAreClassedAndCalibrationKept_reports :
    (let s := fclState fun f => { f with broken := [(report 0x12 5).src] }
     s.boot.inReset = false ∧ s.fcl.broken.contains (report 0x12 5).src = true) ∧
    srcTy (report 0x34 0).src = 0x34 ∧ srcTy (report 0 0).src = 0 ∧
    (let s := fclState id
     s.fcl.broken.contains (report 0x12 5).src = false ∧ srcTy (report 0x12 5).src = 0x12 ∧ srcInst (report 0x12 5).src = 5 ∧
     clusterType 0x12 5 = true ∧ s.fcl.promoted.contains (report 0x12 5).src = false ∧ s.fcl.windows = [] ∧ s.fcl.safe = false ∧
     s.fcl.safeSrc = none ∧ s.flag Reg.fclFirstStat 0 = false ∧
     (s.cnt (Reg.fclCnt 0x12)).toNat + 1 < 2 ^ 64 - 1 ∧ (s.cnt Reg.fclCrumbLost).toNat + 2 < 2 ^ 64 - 1 ∧
     (s.cnt (Reg.clg 5 0x10)).toNat + 1 < 2 ^ 64 - 1) ∧
    -- FCL_TYPE of the type: class 3; then class 0 with N 2; and N 1 and 0
    classOf ((fclState id).setReg (Reg.fclType 0x12) 3) 0x12 = 3 ∧
    (∃ ty ∈ List.range 0x34, classOf ((fclState id).setReg (Reg.fclType ty) 0x200) ty ≤ 2 ∧
      ((fclState id).setReg (Reg.fclType ty) 0x200).fld (Reg.fclType ty) 8 8 = 2) ∧
    (let s := (fclState id).setReg Reg.fclReact 0xFFFFFFFF
     (s.fld Reg.fclReact 9 3).testBit 0 = true ∧ (s.fld Reg.fclReact 9 3).testBit 1 = true ∧ (s.fld Reg.fclReact 9 3).testBit 2 = true) ∧
    ((fclState id).setFlag Reg.fclFirstStat 0).flag Reg.fclFirstStat 0 = true := by decide +kernel
theorem witness_FaultsAreClassedAndCalibrationKept_windows :
    (let src := (report 0x12 5).src
     let s := fclState fun f => { f with windows := [⟨src, 0, 1⟩], behind := [report 0x12 5] }
     s.fcl.windows = [⟨src, 0, 1⟩] ∧ (0 : Stamp).toNat + windowTicks s src ≤ s.ts.toNat ∧
     ({ s with ts := 4 }).ts.toNat < (0 : Stamp).toNat + windowTicks s src ∧ (s.fcl.behind.map (·.src)) = [src]) ∧
    reachable linked .mgc Reg.fclDemote = true ∧ reachable linked .mgc Reg.fclCrumbRd = true ∧ (fclState id).fcl.behind = [] ∧
    (fclState id).fcl.safeSrc = none ∧
    (let s := fclState fun f => { f with safeSrc := some (0x12, 3) }
     s.fcl.safeSrc = some (0x12, 3) ∧ s.fcl.safe = false) ∧
    (let s := fclState fun f => { f with any := true, newest := 3 }
     ((4 : BitVec 16) - (s.reg Reg.fclCrumbRd).extractLsb' 0 16).toNat ≤ unreadCrumbs s ∧
     unreadCrumbs s < ((5 : BitVec 16) - (s.reg Reg.fclCrumbRd).extractLsb' 0 16).toNat) := by decide +kernel
/-- The Loupe is on with a ring of 1,024 slots at 0x10000. -/
def lpState (wr : BitVec 32) : State :=
  (((fclState id).setReg Reg.fclLpCtl 0x10000).setReg Reg.fclLpBaseLo 0x10010).setReg Reg.fclLpWr wr
theorem witness_FaultsAreClassedAndCalibrationKept_loupe :
    (((fclState id).setReg Reg.fclLpCtl 100).reg Reg.fclLpCtl).getLsbD 16 = false ∧
    (let s := lpState 0
     (s.reg Reg.fclLpCtl).getLsbD 16 = true ∧ (allStacks.all fun e => (pressure s e.1 e.2).isNone) = true ∧ lpSlots s = 1024 ∧
     lpBase s = 0x10000 ∧ (s.reg Reg.fclLpWr - s.reg Reg.fclLpRd).toNat < lpSlots s ∧ takesLine s .loupe 0 (0x10000 / 64) = true ∧
     (dirGet s.mem (0x10000 / 64)).sharers = 0 ∧ Memory.wf s.mem.cells = true ∧ s.fcl.safe = false ∧
     (s.cnt Reg.fclLpLost).toNat + 1 < 2 ^ 64 - 1) ∧
    (let s := lpState 1024
     lpSlots s ≠ 0 ∧ lpSlots s ≤ (s.reg Reg.fclLpWr - s.reg Reg.fclLpRd).toNat) := by decide +kernel
/-- The calibration store in a state; the management core's lock is open. -/
def calState (f : CalSt → CalSt) : State := { setGuard linked .mgc ⟨none, some 0⟩ with cal := f linked.cal }
theorem witness_FaultsAreClassedAndCalibrationKept_store :
    reachable (calState id) .mgc Reg.calCmd = true ∧ reachable (calState id) .mgc Reg.calWinData = true ∧
    lockOpen (calState id) .mgc = true ∧ lockOpen linked .mgc = false ∧
    (let s := calState id
     s.cal.busy = none ∧ s.cal.waiting = false ∧ s.pwr.sagIn = false ∧ s.pwr.sagAon = false ∧ s.cal.erasing = none ∧
     winSel s = false ∧ winSel (s.setReg Reg.calWinAddr 0x10000) = true) ∧
    (let s := { calState id with pwr := { linked.pwr with sagIn := true } }
     s.pwr.sagIn = true ∧ s.cal.busy = none) ∧
    (let s := calState fun c => { c with busy := some true, slots := [(0, some [(0, 1)])] }
     s.cal.busy = some true ∧ committedSet s = some [(0, 1)]) ∧
    (let s := calState fun c => { c with busy := some false, slots := [(0, some [(0, 1)])] }
     s.cal.busy = some false ∧ committedSet s = some [(0, 1)]) ∧
    (let s := calState fun c => { c with erasing := some 2, waiting := true }
     s.cal.erasing = some 2 ∧ s.cal.waiting = true ∧ s.cal.busy = none ∧ s.pwr.sagIn = false ∧ s.pwr.sagAon = false) := by decide +kernel

/-! ### Bring-up and resets -/

/-- The boot in a step. -/
def bootState (n : Nat) (f : BootSt → BootSt) : State :=
  { linked with boot := f { linked.boot with step := n }, ts := 400000000 * 4 }
theorem witness_ResetsAndBringUpFollowTheirSteps_resets :
    linked.boot.inReset = false ∧ State.reset.boot.inReset = true ∧ ({ State.reset with aonUp := true }).aonUp = true ∧
    State.reset.aonUp = false ∧ reachable (calState id) .mgc Reg.gctlColdRst = true ∧ lockOpen (calState id) .mgc = true ∧
    reachable linked .mgc Reg.gctlColdRst = true ∧ lockOpen linked .mgc = false ∧ booting State.reset = false := by decide +kernel
theorem witness_ResetsAndBringUpFollowTheirSteps_steps :
    (∀ n ∈ [1, 2, 4, 5, 6, 7, 8, 9],
      let s := bootState n id
      booting s = true ∧ s.boot.step = n ∧ s.boot.i3cUp = false ∧ s.boot.stepTs.toNat + stepLimit n ≤ s.ts.toNat ∧
      ({ s with ts := 0 }).ts.toNat < s.boot.stepTs.toNat + stepLimit n) ∧
    (let s := bootState 3 fun b => { b with trying := true }
     booting s = true ∧ s.boot.step = 3 ∧ s.boot.image ≠ 3 ∧ s.boot.trying = true ∧ s.boot.stepTs.toNat + stepLimit 3 ≤ s.ts.toNat) ∧
    -- step 4: a slot that the loader takes, a link to train
    (let s := { (bootState 4 id).setReg (Reg.d2d 0 0) 1 with
      cal := { linked.cal with slots := [(2, some [(0, calMagic), (1, 7)])] }
      d2d := [] }
     bestSlot s = some 2 ∧ (s.link 0).st = .down ∧ (s.reg (Reg.d2d 0 0)).getLsbD 0 = true ∧ (s.link 0).a.test = 0 ∧ (s.link 0).b.test = 0) ∧
    bestSlot (bootState 4 id) = none ∧ linksDone (bootState 5 id) = true ∧
    (let s := { bootState 5 id with d2d := [] }
     (s.link 0).st ≠ .up ∧ linksDone s = false) ∧
    tierModeOf (bootState 8 id).mem.nearGood ≠ 3 ∧ tierModeOf (0x77 : BitVec 8) = 3 ∧ mgetD none (bootState 8 id).mem.bias 5 = none ∧
    ({ linked with hpt := { linked.hpt with link := .training } }).hpt.link = .training ∧ linkUp (bootState 9 id) = true ∧
    (hdmAt { bootState 9 id with hpt := hostState.hpt } 0).committed = true ∧ linkUp { bootState 9 id with hpt := hostState.hpt } = true ∧
    (hdmAt (bootState 9 id) 0).committed = false := by decide +kernel
theorem witness_ResetsAndBringUpFollowTheirSteps_images :
    (∀ img ∈ [(0 : BitVec 2), 3],
      let s := bootState 3 fun b => { b with rom := true, image := img }
      s.boot.inReset = false ∧ s.boot.rom = true ∧ s.boot.image = img ∧ s.boot.minVer ≤ 0 ∧ s.fcl.safe = false) ∧
    linked.boot.rom = false ∧ reachable linked .mgc Reg.gctlWdogKick = true ∧
    (let s := linked.setReg Reg.gctlWdog 0x80000064
     wdogOn s = true ∧ s.boot.wdog = 0 ∧ s.boot.inReset = false) ∧ wdogOn linked = false := by decide +kernel
/-- Core 0 of cluster 0 in a warm reset from 0 on, with a store that has not drained. -/
def rstState (sb : List SbEntry) (net : List Msg) (iso : Bool) : State :=
  { linked with
    ts := 400000000
    cores := [(0, { core0 with rst := some 0, sb := sb })]
    clus := [(0, { (default : ClusterSt) with pll := .running, rst := some 0, isolated := iso, l2 := [(8, some (way .M 1))] })]
    net := net }
theorem witness_ResetsAndBringUpFollowTheirSteps_warm :
    (let s := linked
     reachable s .mgc Reg.gctlRstCluster = true ∧ reachable s .mgc Reg.gctlRstCore = true ∧ dieLives s 0 = true ∧
     (s.cluster 0).rst = none ∧ (s.core ⟨0, 0⟩).rst = none ∧ enabledPos s 0 (0 : BitVec 8).toNat = true) ∧
    (let s := rstState [default] [] false
     (s.cluster 0).rst.isSome = true ∧ (s.core ⟨0, 0⟩).rst.isSome = true ∧ frozen s = false ∧
     resetFor s ⟨0, 0⟩ (2 * Config.usTicks) = true ∧ (s.cluster 0).isolated = false ∧ (unacked (s.core ⟨0, 0⟩)).isEmpty = false ∧
     drainedCore (s.core ⟨0, 0⟩) = false ∧ (s.cluster 0).pll = .running) ∧
    resetFor linked ⟨0, 0⟩ (2 * Config.usTicks) = false ∧
    (let s := rstState [] [] false
     drainedCore (s.core ⟨0, 0⟩) = true ∧ clusterSettled s 0 = true ∧ (s.cluster 0).rst = some 0 ∧ (s.cluster 0).isolated = false ∧
     (s.cluster 0).pll = .running ∧ (enabledList s 0).all (fun p => drainedCore (s.core ⟨0, p⟩)) = true ∧ (way .M 1).st = .M ∧
     Memory.wf s.mem.cells = true) ∧
    (let s := rstState [] [msg .rds (.cluster 0) (.home 0) 1 0] false
     clusterSettled s 0 = false ∧ (0 : Stamp).toNat + 4 * Config.usTicks ≤ s.ts.toNat ∧
     (enabledList s 0).all (fun p => drainedCore (s.core ⟨0, p⟩)) = true) ∧
    (let s := rstState [] [] true
     (s.cluster 0).isolated = true ∧ (∀ h ∈ s.mem.homes, ∀ e ∈ h.2.reclaim, e.1 ≠ 0) ∧ s.fcl.broken = [] ∧ s.fcl.promoted = [] ∧
     ∃ h ∈ (s.modHome 0 fun x => { x with reclaim := [(0, true)] }).mem.homes, ∃ e ∈ h.2.reclaim, e.1 = 0) ∧
    (let s := (linked.setReg Reg.fclReact 0).setReg (Reg.fclType 0x33) 0
     classOf s 0x33 = 0 ∧ (s.reg Reg.fclReact).getLsbD 2 = false ∧ s.fld (Reg.fclType 0x33) 8 8 = 0) := by decide +kernel
theorem witness_ResetsAndBringUpFollowTheirSteps_i3c :
    linked.boot.refLost = false ∧ linked.boot.phyLost = false ∧ linked.boot.i3cUp = false ∧
    ({ linked with boot := { linked.boot with i3cUp := true } }).boot.i3cUp = true ∧ ((0x40000 : BitVec 26).toNat % 4 = 0) ∧
    ({ linked with regs := { linked.regs with i3cOff := some ((4 : BitVec 26).setWidth 32) } }).regs.i3cOff = some ((4 : BitVec 26).setWidth 32) := by
  decide +kernel

/-! ### Single steps: results from the spec's text -/

/-- The core after a command with s2 = a and s3 = b. -/
def after (i : Instr) (a b : Word) : Option CoreSt :=
  match exec i (one (withS (withS core0 2 a) 3 b) clus0) with
  | .next t => some (t.core ⟨0, 0⟩)
  | _ => none
/-- s4 after a command. -/
def gives (i : Instr) (a b r : Word) : Bool := ((after i a b).map (·.rs 4)) == some r
/-- p4 after a command. -/
def givesP (i : Instr) (a b : Word) (r : Bool) : Bool := ((after i a b).map fun c => c.p.getLsbD 4) == some r

/- Chapter 03: wrapping, the amount modulo 64, the corner of signed division, division by zero. -/
theorem test_add_wraps : gives (.add w0 4 2 3) 0xFFFFFFFFFFFFFFFF 2 1 = true := by decide +kernel
theorem test_sub_order : gives (.sub w0 4 2 3) 5 7 0xFFFFFFFFFFFFFFFE = true := by decide +kernel
theorem test_andn_complements_b : gives (.andn w0 4 2 3) 0xFF 0x0F 0xF0 = true := by decide +kernel
theorem test_sll_modulo : gives (.sll w0 4 2 3) 1 65 2 = true := by decide +kernel
theorem test_sra_sign : gives (.sra w0 4 2 3) 0x8000000000000000 63 0xFFFFFFFFFFFFFFFF = true := by decide +kernel
theorem test_srl_zero : gives (.srl w0 4 2 3) 0x8000000000000000 63 1 = true := by decide +kernel
theorem test_min_signed : gives (.min w0 4 2 3) 0xFFFFFFFFFFFFFFFF 1 0xFFFFFFFFFFFFFFFF = true := by decide +kernel
theorem test_minu_unsigned : gives (.minu w0 4 2 3) 0xFFFFFFFFFFFFFFFF 1 1 = true := by decide +kernel
theorem test_mulh_signed : gives (.mulh w0 4 2 3) 0xFFFFFFFFFFFFFFFF 0xFFFFFFFFFFFFFFFF 0 = true := by decide +kernel
theorem test_mulhu_unsigned : gives (.mulhu w0 4 2 3) 0xFFFFFFFFFFFFFFFF 0xFFFFFFFFFFFFFFFF 0xFFFFFFFFFFFFFFFE = true := by decide +kernel
theorem test_rem_sign : gives (.rem w0 4 2 3) 0xFFFFFFFFFFFFFFF9 2 0xFFFFFFFFFFFFFFFF = true := by decide +kernel
theorem test_clz_one : gives (.clz w0 4 2 0) 1 0 63 = true := by decide +kernel
theorem test_ctz_top : gives (.ctz w0 4 2 0) 0x8000000000000000 0 63 = true := by decide +kernel
theorem test_popc : gives (.popc w0 4 2 0) 0xF0F0 0 8 = true := by decide +kernel
theorem test_sext8 : gives (.sext8 w0 4 2 0) 0x180 0 0xFFFFFFFFFFFFFF80 = true := by decide +kernel
theorem test_zext32 : gives (.zext32 w0 4 2 0) 0xFFFFFFFF80000000 0 0x80000000 = true := by decide +kernel
/- Chapter 03: immediates are signed; MOVK keeps the other bits. -/
theorem test_addi_signed : gives (.addi w0 4 2 0xFFF) 5 0 4 = true := by decide +kernel
theorem test_movi_signed : gives (.movi w0 4 0x1FFFF) 0 0 0xFFFFFFFFFFFFFFFF = true := by decide +kernel
theorem test_s0_reads_zero : gives (.add w0 4 0 3) 9 7 7 = true := by decide +kernel
theorem test_s0_discards : ((after (.add w0 0 2 3) 1 2).map (·.rs 0)) = some 0 := by decide +kernel
theorem test_pc_advances : ((after (.add w0 4 2 3) 1 2).map (·.pc)) = some 4 := by decide +kernel
/- Chapter 03: signed and unsigned compares. -/
theorem test_cmplt_signed : givesP (.cmpLt w0 4 2 3) 0xFFFFFFFFFFFFFFFF 0 true = true := by decide +kernel
theorem test_cmpltu_unsigned : givesP (.cmpLtu w0 4 2 3) 0xFFFFFFFFFFFFFFFF 0 false = true := by decide +kernel
/- Chapter 03 floats: 1.5 + 2.25 = 3.75 and 0.1 + 0.2 in FP64; 1/3 rounds to nearest even. -/
theorem test_fadd_exact : gives (.fadd w0 4 2 3 false 0) 0x3FF8000000000000 0x4002000000000000 0x400E000000000000 = true := by decide +kernel
theorem test_fadd_rounds : gives (.fadd w0 4 2 3 false 0) 0x3FB999999999999A 0x3FC999999999999A 0x3FD3333333333334 = true := by decide +kernel
theorem test_fdiv_third : gives (.fdiv w0 4 2 3 false 0) 0x3FF0000000000000 0x4008000000000000 0x3FD5555555555555 = true := by decide +kernel
theorem test_fsqrt_two : gives (.fsqrt w0 4 2 0 false 0) 0x4000000000000000 0 0x3FF6A09E667F3BCD = true := by decide +kernel
theorem test_fcmp_unordered : givesP (.fcmpUn w0 4 2 3 false 0) 0x7FF8000000000000 0 true = true := by decide +kernel
/- R83: a branch is relative to its own address in words of 4 bytes; jr goes to a register's value. -/
theorem test_br_forward : ((after (.br w0 3) 0 0).map (·.pc)) = some 12 := by decide +kernel
theorem test_jr_target : ((after (.jr w0 0 2 0) 0x40 0).map (·.pc)) = some 0x40 := by decide +kernel
/-- A guard that reads 0: the instruction only moves on (R35). -/
theorem test_guard_skips : ((after (.add w1 4 2 3) 1 2).map fun c => (c.rs 4, c.pc)) = some (0, 4) := by decide +kernel
/-- A local store is little-endian: s2 goes to the address in s3 (R88). -/
theorem test_local_store : ((after (.lsSt64 w0 2 3 0) 0x1122334455667788 8).map fun c => (rdByte c.ls 8, rdByte c.ls 15)) = some (0x88, 0x11) := by
  decide +kernel

/-! ### Single steps: the other families -/

/-- A doorbell that claims 65 commands in a ring of 64 slots (R327). -/
theorem test_doorbell_full : (match exec (.doorbell .mgc 5 65) (dspState ringOn) with
    | .next t => t.flag Reg.dspStat 1 && t.reg (Reg.dspDb + 20) == 0
    | _ => false) = true := by decide +kernel
/-- A NOP of a ring's slot is taken, and RD moves on (R331). -/
theorem test_take_nop : (match exec .commandTake (dueState []) with
    | .next t => (t.ring 5).rd == 1 && (t.ring 5).held.isSome
    | _ => false) = true := by decide +kernel
/-- FAB_WR writes its line (R365). -/
theorem test_fabric_write : (match exec (.fabWr 2) (fabState [pkt 0x01 2 [5]]) with
    | .next t => (memPeek t.mem 1).1 == 5 && t.fab.tx.length == 1
    | _ => false) = true := by decide +kernel
/-- A packet of another rank is refused (R365). -/
theorem test_fabric_wrong_rank : (match exec (.fabWr 2) (fabState [{ pkt 0x01 2 [5] with drank := 4 }]) with
    | .next t => (memPeek t.mem 1).1 == 0 && (t.fab.tx.map fun x => x.2.ty) == [0x12]
    | _ => false) = true := by decide +kernel
/-- A host read goes to its home (R410). -/
theorem test_host_read : (match exec (.memrd 0x40 .I) hostState with
    | .next t => (t.net.map fun m => (m.kind, m.line)) == [(.rdh, 1)]
    | _ => false) = true := by decide +kernel
/-- BAR2 write through a window (R402, R431). -/
theorem test_bar2_write : (match exec (.bar2Access true 0x40 0 [1, 2] false) (hostState.setReg (Reg.apwWin 0 0x10) 0x1000000) with
    | .next t => (memPeek t.mem 1).1 == 0x0201
    | _ => false) = true := by decide +kernel
/-- The key opens a lock; another key is refused (R447). -/
theorem test_unlock_key : (match exec (.gctlUnlock .mgc 0x5A17) linked, exec (.gctlUnlock .mgc 0x5A18) linked with
    | .next t, .next u => lockOpen t .mgc && !lockOpen u .mgc && u.flag Reg.gctlStat 1
    | _, _ => false) = true := by decide +kernel
/-- 100.00 °C trips a compute-die sensor, 99.99 °C does not (R494). -/
theorem test_trip : (match exec (.thermalTrip false 0 10000) (pwrState id), exec (.thermalTrip false 0 9999) (pwrState id) with
    | .next t, .next u => t.boot.trip && !u.boot.trip
    | _, _ => false) = true := by decide +kernel
/-- Image A with a wrong signature: image B is next (R533). -/
theorem test_image_refused : (match exec (.imageVerify false true false true 0) (bootState 3 fun b => { b with rom := true }) with
    | .next t => t.boot.trying && t.boot.image == 0
    | _ => false) = true := by decide +kernel
/-- The watchdog's key belongs to the management core (R541). -/
theorem test_wdog_kick : (match exec (.wdogKick .mgc 1) (linked.setReg Reg.gctlWdog 0x80000064), exec (.wdogKick .i3c 1) (linked.setReg Reg.gctlWdog 0x80000064) with
    | .next t, .next u => t.boot.wdog == 50000 && u.boot.wdog == 0
    | _, _ => false) = true := by decide +kernel

end Sys2Proof.Tests
end

section
/-! PROOFS. The matrix instructions (R142 to R172): the elements of an accumulator, the effect of mma and of the accumulator moves,
and the issue of a matrix instruction whose traps are not enabled. -/

namespace Sys2Proof.Machine

/-! ### Elements of an accumulator (R142) -/

/-- The first bit of element j of row i in a view of n-bit elements. -/
def accBit (n i j : Nat) : Nat := 1024 * i + n * j

/-- A position of a view: one of 16 rows, and an element within its 1,024 bits. -/
def accPos (n : Nat) (p : Nat × Nat) : Prop := p.1 < 16 ∧ n * p.2 + n ≤ 1024

theorem accGet_eq_extractLsb' (a : Acc) (n i j : Nat) : accGet a n i j = (a.extractLsb' (accBit n i j) n).toNat := by
  rw [accGet, BitVec.extractLsb'_toNat, Nat.shiftRight_eq_div_pow, accBit]

theorem laneGet_eq_extractLsb' (t : Tile) (e r j : Nat) :
    laneGet t e r j = (t.extractLsb' (512 * r + 8 * e * j) (8 * e)).toNat := by
  rw [laneGet, BitVec.extractLsb'_toNat, Nat.shiftRight_eq_div_pow]

theorem accSet_eq (a : Acc) (n i j v : Nat) :
    accSet a n i j v = (a &&& ~~~(BitVec.ofNat 16384 ((2 ^ n - 1) * 2 ^ accBit n i j))) |||
      BitVec.ofNat 16384 (v % 2 ^ n * 2 ^ accBit n i j) := rfl

/-- A write of an element replaces the bits of that element. -/
theorem getLsbD_accSet (a : Acc) {n i j b : Nat} (v : Nat) (hb : b < 16384) :
    (accSet a n i j v).getLsbD b =
      if accBit n i j ≤ b ∧ b < accBit n i j + n then v.testBit (b - accBit n i j) else a.getLsbD b := by
  simp only [accSet_eq, BitVec.getLsbD_or, BitVec.getLsbD_and, BitVec.getLsbD_not, BitVec.getLsbD_ofNat,
    Nat.testBit_mul_two_pow, Nat.testBit_two_pow_sub_one, Nat.testBit_mod_two_pow, hb, decide_true, Bool.true_and]
  by_cases hl : accBit n i j ≤ b
  · by_cases hu : b < accBit n i j + n
    · have : b - accBit n i j < n := by omega
      simp [hl, hu, this]
    · have : ¬ b - accBit n i j < n := by omega
      simp [hu, this]
  · simp [hl]

/-- An element reads the low bits of what was last written to it. -/
theorem accGet_accSet_self (a : Acc) {n i j : Nat} (v : Nat) (h : accPos n (i, j)) :
    accGet (accSet a n i j v) n i j = v % 2 ^ n := by
  obtain ⟨hi, hj⟩ : i < 16 ∧ n * j + n ≤ 1024 := h
  have hx : (accSet a n i j v).extractLsb' (accBit n i j) n = BitVec.ofNat n v := by
    refine BitVec.eq_of_getLsbD_eq fun b hb => ?_
    have hlt : accBit n i j + b < 16384 := by unfold accBit; omega
    rw [BitVec.getLsbD_extractLsb', getLsbD_accSet a v hlt, if_pos (by omega), BitVec.getLsbD_ofNat]
    simp [hb]
  rw [accGet_eq_extractLsb', hx, BitVec.toNat_ofNat]

/-- Elements at different positions of a view share no bit. -/
theorem accBit_disjoint {n i j i' j' : Nat} (h : accPos n (i, j)) (h' : accPos n (i', j')) (hne : (i', j') ≠ (i, j)) :
    accBit n i' j' + n ≤ accBit n i j ∨ accBit n i j + n ≤ accBit n i' j' := by
  obtain ⟨-, hj⟩ : i < 16 ∧ n * j + n ≤ 1024 := h
  obtain ⟨-, hj'⟩ : i' < 16 ∧ n * j' + n ≤ 1024 := h'
  unfold accBit
  rcases Nat.lt_trichotomy i i' with hi | rfl | hi
  · omega
  · have hmul : ∀ {x y : Nat}, x < y → n * x + n ≤ n * y := fun hxy => Nat.mul_succ n _ ▸ Nat.mul_le_mul_left n hxy
    rcases Nat.lt_or_gt_of_ne fun e : j' = j => hne (by rw [e]) with hlt | hlt
    · exact Or.inl (by have := hmul hlt; omega)
    · exact Or.inr (by have := hmul hlt; omega)
  · omega

/-- A write of an element leaves every other element alone. -/
theorem accGet_accSet_of_ne (a : Acc) {n i j i' j' : Nat} (v : Nat) (h : accPos n (i, j)) (h' : accPos n (i', j'))
    (hne : (i', j') ≠ (i, j)) : accGet (accSet a n i j v) n i' j' = accGet a n i' j' := by
  have hd := accBit_disjoint h h' hne
  obtain ⟨hi', hj'⟩ : i' < 16 ∧ n * j' + n ≤ 1024 := h'
  have hx : (accSet a n i j v).extractLsb' (accBit n i' j') n = a.extractLsb' (accBit n i' j') n := by
    refine BitVec.eq_of_getLsbD_eq fun b hb => ?_
    have hlt : accBit n i' j' + b < 16384 := by unfold accBit; omega
    rw [BitVec.getLsbD_extractLsb', BitVec.getLsbD_extractLsb', getLsbD_accSet a v hlt, if_neg (by omega)]
  rw [accGet_eq_extractLsb', accGet_eq_extractLsb', hx]

/-- Write one element with its value and join its flags. -/
def putElem (n : Nat) (v : Nat × Nat → Nat × BitVec 8) (st : Acc × BitVec 8) (p : Nat × Nat) : Acc × BitVec 8 :=
  (accSet st.1 n p.1 p.2 (v p).1, st.2 ||| (v p).2)

/-- A written element reads its own value, any other is as before. -/
theorem accGet_putElem {n : Nat} (v : Nat × Nat → Nat × BitVec 8) (st : Acc × BitVec 8) {p q : Nat × Nat} (hp : accPos n p)
    (hq : accPos n q) : accGet (putElem n v st q).1 n p.1 p.2 = if p = q then (v p).1 % 2 ^ n else accGet st.1 n p.1 p.2 := by
  split
  · next heq => subst heq; exact accGet_accSet_self st.1 (v p).1 hp
  · next hne => exact accGet_accSet_of_ne st.1 (v q).1 hq hp hne

/-- After a walk over some positions each of them holds its own value, and every other position is as before. -/
theorem accGet_foldl_putElem {n : Nat} (v : Nat × Nat → Nat × BitVec 8) {p : Nat × Nat} (hp : accPos n p) :
    ∀ (l : List (Nat × Nat)), (∀ q ∈ l, accPos n q) → ∀ st : Acc × BitVec 8,
      accGet (l.foldl (putElem n v) st).1 n p.1 p.2 = if p ∈ l then (v p).1 % 2 ^ n else accGet st.1 n p.1 p.2
  | [], _, _ => rfl
  | q :: l, hl, st => by
    have ih := accGet_foldl_putElem v hp l (fun x hx => hl x (List.mem_cons_of_mem q hx)) (putElem n v st q)
    rw [List.foldl_cons, ih, accGet_putElem v st hp (hl q List.mem_cons_self)]
    by_cases hpl : p ∈ l
    · rw [if_pos hpl, if_pos (List.mem_cons_of_mem q hpl)]
    · rw [if_neg hpl]
      simp only [List.mem_cons, hpl, or_false]

/-! ### acc.ld: two tiles side by side (R166) -/

/-- Bit b of two tiles whose rows stand side by side, row i of each in row i. -/
def sideBySide (t u : Tile) (b : Nat) : Bool :=
  if b % 1024 < 512 then t.getLsbD (512 * (b / 1024) + b % 1024) else u.getLsbD (512 * (b / 1024) + (b % 1024 - 512))

/-- A row of a tile, placed from bit k of an accumulator on. -/
theorem getLsbD_rowAt (t : Tile) (i k : Nat) {b : Nat} (hb : b < 16384) :
    ((t.extractLsb' (512 * i) 512).setWidth 16384 <<< k).getLsbD b =
      (decide (k ≤ b ∧ b < k + 512) && t.getLsbD (512 * i + (b - k))) := by
  simp only [BitVec.getLsbD_shiftLeft, BitVec.getLsbD_setWidth, BitVec.getLsbD_extractLsb', hb, decide_true, Bool.true_and]
  by_cases hk : k ≤ b
  · have : b - k < 16384 := by omega
    simp [this, Nat.not_lt.mpr hk, show (b - k < 512 ↔ b < k + 512) by omega, hk]
  · simp [hk, Nat.lt_of_not_le hk]

/-- The two placed rows hold the bits of their row of the accumulator and no other bit. -/
theorem getLsbD_rowPair (t u : Tile) (i : Nat) {b : Nat} (hb : b < 16384) :
    (((t.extractLsb' (512 * i) 512).setWidth 16384 <<< (1024 * i)).getLsbD b ||
      ((u.extractLsb' (512 * i) 512).setWidth 16384 <<< (1024 * i + 512)).getLsbD b) =
      (decide (b / 1024 = i) && sideBySide t u b) := by
  rw [getLsbD_rowAt t i _ hb, getLsbD_rowAt u i _ hb, sideBySide]
  by_cases hi : b / 1024 = i
  · subst hi
    by_cases hlow : b % 1024 < 512
    · rw [decide_eq_true (by omega), decide_eq_false (by omega), if_pos hlow, show b - 1024 * (b / 1024) = b % 1024 by omega]
      simp
    · rw [decide_eq_false (by omega), decide_eq_true (by omega), if_neg hlow,
        show b - (1024 * (b / 1024) + 512) = b % 1024 - 512 by omega]
      simp
  · rw [decide_eq_false (by omega), decide_eq_false (by omega), decide_eq_false hi]
    rfl

theorem getLsbD_accOfTiles (t u : Tile) {b : Nat} (hb : b < 16384) : (accOfTiles t u).getLsbD b = sideBySide t u b := by
  have key : ∀ m, ((List.range m).foldl (fun (a : Acc) i =>
      a ||| ((t.extractLsb' (512 * i) 512).setWidth 16384 <<< (1024 * i)) |||
        ((u.extractLsb' (512 * i) 512).setWidth 16384 <<< (1024 * i + 512))) 0).getLsbD b =
      (decide (b / 1024 < m) && sideBySide t u b) := by
    intro m
    induction m with
    | zero => simp
    | succ m ih =>
      rw [List.range_succ, List.foldl_append, List.foldl_cons, List.foldl_nil, BitVec.getLsbD_or, BitVec.getLsbD_or, ih,
        Bool.or_assoc, getLsbD_rowPair t u m hb, ← Bool.and_or_distrib_right, ← Bool.decide_or]
      simp only [Nat.lt_succ_iff_lt_or_eq]
  rw [accOfTiles, key, decide_eq_true (by omega), Bool.true_and]

/-- Columns 0 to 15 of the accumulator are the lanes of the first tile, columns 16 to 31 those of the second. -/
theorem accGet_accOfTiles (t u : Tile) {i j : Nat} (hi : i < 16) (hj : j < 32) :
    accGet (accOfTiles t u) 32 i j = if j < 16 then laneGet t 4 i j else laneGet u 4 i (j - 16) := by
  simp only [accGet_eq_extractLsb', laneGet_eq_extractLsb']
  have hbit : ∀ b, b < 32 → ((accOfTiles t u).extractLsb' (accBit 32 i j) 32).getLsbD b =
      sideBySide t u (1024 * i + 32 * j + b) := by
    intro b hb
    rw [BitVec.getLsbD_extractLsb', decide_eq_true hb, Bool.true_and, accBit, getLsbD_accOfTiles t u (by omega)]
  split
  · refine congrArg BitVec.toNat (BitVec.eq_of_getLsbD_eq fun b hb => ?_)
    rw [hbit b hb, sideBySide, if_pos (by omega), BitVec.getLsbD_extractLsb', decide_eq_true hb, Bool.true_and]
    exact congrArg t.getLsbD (by omega)
  · refine congrArg BitVec.toNat (BitVec.eq_of_getLsbD_eq fun b hb => ?_)
    rw [hbit b hb, sideBySide, if_neg (by omega), BitVec.getLsbD_extractLsb', decide_eq_true hb, Bool.true_and]
    exact congrArg u.getLsbD (by omega)

/-! ### Integer results (R122, R160) -/

theorem wrapTo_lt (ty : BitVec 4) (v : Int) : wrapTo ty v < 2 ^ tyBits ty := by
  have hpos : (0 : Int) < 2 ^ tyBits ty := Int.pow_pos (by decide)
  have hn : 0 ≤ v % 2 ^ tyBits ty := Int.emod_nonneg v (Int.ne_of_gt hpos)
  have hlt : v % 2 ^ tyBits ty < ((2 ^ tyBits ty : Nat) : Int) := by
    rw [Int.natCast_pow]
    exact Int.emod_lt_of_pos v hpos
  exact (Int.toNat_lt hn).mpr hlt

/-- An integer result fits its type. -/
theorem intResult_lt (ty : BitVec 4) (sat : Bool) (v : Int) : (intResult ty sat v).1 < 2 ^ tyBits ty := by
  unfold intResult
  split
  · split
    · exact wrapTo_lt ..
    · split <;> exact wrapTo_lt ..
  · exact wrapTo_lt ..

/-! ### mma (R147, R148) -/

/-- Bits of an element, and elements in a row, of the view that an mma writes. -/
def mmaBits (f : MmaWord) : Nat := if f.fa = 0 then 64 else 32
def mmaCols (f : MmaWord) : Nat := if f.fa = 0 then 16 else 32

/-- The rows of an mma's view fill the accumulator's. -/
theorem mmaBits_mul_mmaCols (f : MmaWord) : mmaBits f * mmaCols f = 1024 := by
  unfold mmaBits mmaCols
  split <;> rfl

/-- The positions of the view of an mma. -/
def mmaPositions (f : MmaWord) : List (Nat × Nat) :=
  (List.range 16).flatMap fun i => (List.range (mmaCols f)).map fun j => (i, j)

/-- The new value of an element of an mma, with its flags. -/
def mmaElem (f : MmaWord) (c : CoreSt) (ij : Nat × Nat) : Nat × BitVec 8 :=
  let old := if f.za then 0 else accGet (c.ra (accOf f.x)) (mmaBits f) ij.1 ij.2
  if fmtInt f.fa then mmaInt c f ij.1 ij.2 old
  else ((mmaFloat c f (tileProduct c f) ij.1 ij.2 old).1, (mmaFloat c f (tileProduct c f) ij.1 ij.2 old).2.setWidth 8)

/-- The accumulator and the flags that an mma leaves. -/
def mmaResult (f : MmaWord) (c : CoreSt) : Acc × BitVec 8 :=
  (mmaPositions f).foldl (putElem (mmaBits f) (mmaElem f c)) (c.ra (accOf f.x), 0)

/-- mma writes its accumulator and joins its flags, nothing else. -/
theorem mmaTile_eq (f : MmaWord) (c : CoreSt) :
    mmaTile f c = (c.setA (accOf f.x) (mmaResult f c).1).addVsw (mmaResult f c).2 := rfl

theorem mem_mmaPositions {f : MmaWord} {p : Nat × Nat} : p ∈ mmaPositions f ↔ p.1 < 16 ∧ p.2 < mmaCols f := by
  obtain ⟨i, j⟩ := p
  simp only [mmaPositions, List.mem_flatMap, List.mem_map, List.mem_range, Prod.mk.injEq]
  exact ⟨fun ⟨_, hi, _, hj, e, e'⟩ => ⟨e ▸ hi, e' ▸ hj⟩, fun ⟨hi, hj⟩ => ⟨i, hi, j, hj, rfl, rfl⟩⟩

/-- Every element of an mma's view is written with its own value (R147). -/
theorem accGet_mmaResult (f : MmaWord) (c : CoreSt) {p : Nat × Nat} (hp : p ∈ mmaPositions f) :
    accGet (mmaResult f c).1 (mmaBits f) p.1 p.2 = (mmaElem f c p).1 % 2 ^ mmaBits f := by
  have hpos : ∀ q ∈ mmaPositions f, accPos (mmaBits f) q := fun q hq => by
    obtain ⟨hrow, hcol⟩ := mem_mmaPositions.mp hq
    have hle := Nat.mul_le_mul_left (mmaBits f) (Nat.succ_le_of_lt hcol)
    rw [mmaBits_mul_mmaCols, Nat.mul_succ] at hle
    exact ⟨hrow, hle⟩
  rw [mmaResult, accGet_foldl_putElem _ (hpos p hp) _ hpos, if_pos hp]

@[simp] theorem mmaTile_xcfg (f : MmaWord) (c : CoreSt) : (mmaTile f c).xcfg = c.xcfg := by rw [mmaTile_eq]; rfl
@[simp] theorem mmaTile_t (f : MmaWord) (c : CoreSt) : (mmaTile f c).t = c.t := by rw [mmaTile_eq]; rfl

theorem accOf_lt (x : BitVec 5) : accOf x < 4 := (x.extractLsb' 0 2).isLt

/-- An accumulator reads what was written to it. -/
theorem CoreSt.ra_setA_self (c : CoreSt) {i : Nat} (v : Acc) (h : i < 4) : (c.setA i v).ra i = v := by
  simp [CoreSt.ra, h]

@[simp] theorem CoreSt.ra_addVsw (c : CoreSt) (fl : BitVec 8) (i : Nat) : (c.addVsw fl).ra i = c.ra i := rfl

theorem fmtK_of_int {fa : BitVec 4} (h : fa = 0xC ∨ fa = 0xD) : fmtK fa = if fa = 0xC then 64 else 128 := by
  rcases h with rfl | rfl <;> rfl

/-- An element of an integer mma is its exact integer result (R156, R160). -/
theorem accGet_mmaTile_of_int {f : MmaWord} (c : CoreSt) (h : f.fa = 0xC ∨ f.fa = 0xD) {i j : Nat} (hi : i < 16) (hj : j < 32) :
    accGet ((mmaTile f c).ra (accOf f.x)) 32 i j =
      (mmaInt c f i j (if f.za then 0 else accGet (c.ra (accOf f.x)) 32 i j)).1 := by
  have hint : fmtInt f.fa = true := by rcases h with h | h <;> rw [h] <;> rfl
  have h0 : f.fa ≠ 0 := by rcases h with h | h <;> rw [h] <;> decide
  have hbits : mmaBits f = 32 := if_neg h0
  have hp : (i, j) ∈ mmaPositions f := mem_mmaPositions.mpr ⟨hi, by rwa [mmaCols, if_neg h0]⟩
  have he := accGet_mmaResult f c hp
  simp only [hbits, mmaElem, hint, if_true] at he
  rw [mmaTile_eq, CoreSt.ra_addVsw, CoreSt.ra_setA_self c _ (accOf_lt f.x), he]
  exact Nat.mod_eq_of_lt (intResult_lt 0x4 f.sat _)

/-! ### The issue of a matrix instruction (R172) -/

theorem accStore_xcfg (free : Nat) (f : AccWord) (c : CoreSt) : (accStore free f c).xcfg = c.xcfg := by
  unfold accStore
  simp only [CoreSt.addVsw_xcfg]
  split <;> rfl

theorem mqTile_xcfg (free : Nat) (f : MqWord) (c : CoreSt) : (mqTile free f c).xcfg = c.xcfg := by
  unfold mqTile
  simp only [CoreSt.addVsw_xcfg, CoreSt.setT_xcfg]

/-- Two changes that agree on a core as it stands give one state. -/
theorem modCore_congr {s : State} {core : CoreId} {g g' : CoreSt → CoreSt} (h : g (s.core core) = g' (s.core core)) :
    s.modCore core g = s.modCore core g' := by
  rw [State.modCore, h, State.modCore]

/-- The draws of SR are spent beside the change of the core (R163, log entry 22). -/
theorem spendDraws_modCore (s : State) (core : CoreId) (g : CoreSt → CoreSt) (sr : Bool) :
    spendDraws (s.modCore core g) sr = { s with free := s.free + (if sr then 1024 else 0) }.modCore core g := by
  cases sr <;> rfl

/-- An instruction that writes an accumulator alone sets no flag. -/
theorem engineCore_setA (i : Nat) (a : CoreSt → Acc) (c : CoreSt) :
    engineCore (fun c => c.setA i (a c)) c = (c.setA i (a { c with vsw := 0 })).adv 8 := by
  simp [engineCore, CoreSt.setA]

section
variable {s : State} {w : Who} (h : issues s w 8 = true) (hx : (s.core w.core).xcfg = 0)
include h hx

/-- A matrix instruction of a core with no arithmetic trap enabled changes that core alone. -/
theorem mxOp_of_issues {word : Word} {legal : Bool} {g : CoreSt → CoreSt} (hl : legal = true) (hg : ∀ c, (g c).xcfg = c.xcfg) :
    mxOp s w word legal g = s.modCore w.core (engineCore g) := by
  unfold mxOp
  rw [issue_of_issues h hl]
  simp only
  rw [trapIf_of_clear (by simp [hg, hx])]
  simp [State.modCore, engineCore]

theorem exec_mma_of_issues {f : MmaWord} (hl : mmaLegal f = true) :
    exec (.mma w f) s = .next (s.modCore w.core (engineCore (mmaTile f))) :=
  congrArg Host.Outcome.next (mxOp_of_issues h hx hl (mmaTile_xcfg f))

theorem exec_accZero_of_issues {f : AccWord} (hp : accPlain f = true) (ha : isAcc f.x = true) (hy : f.y = 0) :
    exec (.accZero w f) s = .next (s.modCore w.core fun c => (c.setA (accOf f.x) 0).adv 8) := by
  have hm := mxOp_of_issues h hx (word := encAcc w 0x00 f) (legal := accPlain f && f.y == 0 && isAcc f.x)
    (g := fun c => c.setA (accOf f.x) 0) (by simp [hp, ha, hy]) fun _ => rfl
  exact congrArg Host.Outcome.next (hm.trans (modCore_congr (engineCore_setA _ (fun _ => 0) _)))

theorem exec_accLd_of_issues {f : AccWord} (hp : accPlain f = true) (ha : isAcc f.x = true) (hy : f.y.getLsbD 0 = false) :
    exec (.accLd w f) s = .next (s.modCore w.core fun c =>
      (c.setA (accOf f.x) (accOfTiles ((s.core w.core).rt f.y) ((s.core w.core).rt (f.y + 1)))).adv 8) := by
  have hm := mxOp_of_issues h hx (word := encAcc w 0x01 f) (legal := accPlain f && isAcc f.x && !f.y.getLsbD 0)
    (g := fun c => c.setA (accOf f.x) (accOfTiles (c.rt f.y) (c.rt (f.y + 1)))) (by simp only [hp, ha, hy]; rfl) fun _ => rfl
  exact congrArg Host.Outcome.next
    (hm.trans (modCore_congr (engineCore_setA _ (fun c => accOfTiles (c.rt f.y) (c.rt (f.y + 1))) _)))

theorem exec_accSt_of_issues {f : AccWord} (hl : accStLegal f = true) :
    exec (.accSt w f) s = .next (State.modCore { s with free := s.free + (if f.sr then 1024 else 0) } w.core
      (engineCore (accStore s.free f))) := by
  have hm := mxOp_of_issues h hx (word := encAcc w 0x02 f) hl (accStore_xcfg s.free f)
  exact congrArg Host.Outcome.next ((congrArg (spendDraws · f.sr) hm).trans (spendDraws_modCore ..))

theorem exec_mq_of_issues {f : MqWord} (hl : mqLegal f = true) :
    exec (.mq w f) s = .next (State.modCore { s with free := s.free + (if f.sr then 1024 else 0) } w.core
      (engineCore (mqTile s.free f))) := by
  have hm := mxOp_of_issues h hx (word := encMq w f) hl (mqTile_xcfg s.free f)
  exact congrArg Host.Outcome.next ((congrArg (spendDraws · f.sr) hm).trans (spendDraws_modCore ..))
end

/-- An element of the accumulator after an integer mma (R156, R160). -/
theorem accGet_engineCore_mmaTile {f : MmaWord} (c : CoreSt) (h : f.fa = 0xC ∨ f.fa = 0xD) {i j : Nat} (hi : i < 16)
    (hj : j < 32) :
    accGet ((engineCore (mmaTile f) c).ra (accOf f.x)) 32 i j =
      (mmaInt c f i j (if f.za then 0 else accGet (c.ra (accOf f.x)) 32 i j)).1 :=
  accGet_mmaTile_of_int { c with vsw := 0 } h hi hj

/-- Settles O38: each instruction by its issue, the elements of an integer mma by the walk over its positions, those of acc.ld by
the rows of the two tiles. -/
theorem matrixInstructions : Obligations.MatrixInstructions := by
  unfold Obligations.MatrixInstructions
  intro w s h hx
  refine ⟨fun f hl => ⟨exec_mma_of_issues h hx hl, fun hint => ?_⟩,
    fun f hp ha => ⟨exec_accZero_of_issues h hx hp ha, fun hy => ?_⟩,
    fun f hl => exec_accSt_of_issues h hx hl, fun f hl => exec_mq_of_issues h hx hl⟩
  · refine ⟨_, exec_mma_of_issues h hx hl, fun i j hi hj => ?_⟩
    rw [core_modCore]
    refine ⟨?_, mmaTile_t f _⟩
    rw [accGet_engineCore_mmaTile _ hint hi hj, mmaInt, fmtK_of_int hint]
  · exact ⟨_, exec_accLd_of_issues h hx hp ha hy, fun i j hi hj => accGet_accOfTiles _ _ hi hj⟩

end Sys2Proof.Machine
end
